-- ==== Sys2Proof/Word.lean ====
section
/-! DEFINITION. Word types of the Novesh 7100 and their plainest arithmetic (00 R4, R5). -/

namespace Sys2Proof

/-- A byte of memory. -/
abbrev Byte := BitVec 8
/-- A half: 16 bits (R5). -/
abbrev Half := BitVec 16
/-- A word: 32 bits (R5). -/
abbrev Word := BitVec 32
/-- A doubleword: 64 bits (R5). -/
abbrev DWord := BitVec 64
/-- A 128-bit item: a template, a lane mask, a window descriptor. -/
abbrev QWord := BitVec 128

end Sys2Proof
end

