-- ==== Sys2Proof/Config.lean ====
section
/-! DEFINITION. Capacities of the Novesh 7100 (01 R12) and the free values: constants without a body that stand for
what the manual leaves open, so that no proof can use a particular one (log 2). -/

namespace Sys2Proof.Config

/-- Cores in the device (R12). -/
def cores : Nat := 128
/-- Cores in a cluster (R12). -/
def coresPerCluster : Nat := 8
/-- Clusters (R12). -/
def clusters : Nat := 16
/-- Bytes of a core's scratchpad (R12, R44). -/
def scratchBytes : Nat := 0x20_0000
/-- Bytes of LPDDR6 on the module: 512 GiB (R12). -/
def memBytes : Nat := 2 ^ 39
/-- Bytes of the expert store (R50). -/
def expertBytes : Nat := 2 ^ 28
/-- Lines a cluster's near-atomic unit pins (R65). -/
def nearLines : Nat := 512
/-- Entries of a map unit's two TLBs (R14, R40). -/
def tlb1Entries : Nat := 512
def tlb2Entries : Nat := 4096
/-- L2 slices and the 256-byte lines that each of 6 MiB holds, and lines of the 16 MiB remote-data cache (R12). -/
def l2Slices : Nat := 16
def l2SliceLines : Nat := 24576
def rdcLines : Nat := 2 ^ 16
/-- KiB of the retained-version array: 12 MiB (R52). -/
def retainedKiB : Nat := 12288
/-- Slots of the nest scheduler (R176). -/
def nestSlots : Nat := 256
/-- Clocks a context save may take: 64 µs (R195). -/
def saveBound : Nat := 115200

/-- A byte of which the manual says nothing, one for each draw (log 2). -/
opaque freeByte : Nat → Byte
/-- A doubleword of which the manual says nothing, one for each draw (log 2). -/
opaque freeDWord : Nat → DWord
/-- The hash by which a link is chosen from those that lead toward a device (13 R383; log 21): of source device, source
core and target device. -/
opaque linkHash : Nat → Nat → Nat → Nat
/-- Which entry of a full TLB or remote-data cache makes room: the replacement is not given (02 R40, R52; log 18). One for
each fill. -/
opaque victim : Nat → Nat
/-- The L2 slice that is the home of a line: the hash is not given (01 R15; log 21). -/
opaque l2Slice : Nat → BitVec 4

/-- MDTS in bytes of the NVMe controller at a flash port: what Identify answers (14 R431; log 53). -/
opaque mdts : Nat → Nat

/-- SHA-256 of the root key, and the minimum SVN, as the fuses hold them (17 R498; log 25). -/
opaque rootKeyHash : List Byte
opaque minSvn : Nat
/-- What the fused secret and a boot's random source give (17 R499; log 25). Tree 0 is the identity tree; tree q + 1 is
the per-boot tree of the boot that read q. The identifier I of a tree, element i of the one-time key of a leaf, and the
randomizer C of the signature made with a leaf. -/
opaque treeId : Nat → BitVec 128
opaque oneTimeKey : Nat → Nat → Nat → BitVec 256
opaque randomizer : Nat → Nat → BitVec 256
/-- The address space and the page address that a mailbox message of KIND 2 names by its doublewords 1 to 3 (18 R510;
log 61). -/
opaque flipMessage : BitVec 64 → BitVec 64 → BitVec 64 → Nat × Nat

end Sys2Proof.Config
end

