-- ==== Sys2Proof/Syntax.lean ====
section
/-! DEFINITION. The steps of the machine as a syntax: one constructor for each row of the table of operations and
events (95). A plain instruction carries every operand bit of its word that its opcode and selector do not fix, so
that no bit is lost between a word and its instruction (04 R94-R101); the guard [25:20] stands beside it
(`Decoded.g`), because it acts the same way on every instruction (R97). What an event takes from the outside world
(a frame, a value, the number of the thing it happens to) stands in State as the event's argument. -/

namespace Sys2Proof

/-- The four sequencers of a core, numbered as in R96. -/
inductive Seq | ctl | ld | cmp | st
  deriving DecidableEq, Repr

/-- The three stream classes of plain words (R94). -/
inductive Strm | ctl | ld | st
  deriving DecidableEq, Repr

/-- RRR word whose [1:0] is a selector (R94). -/
structure R3 where
  d : BitVec 6
  a : BitVec 6
  b : BitVec 6
  deriving DecidableEq, Repr

/-- RRR word with f as an operand field (R94). -/
structure R3F where
  d : BitVec 6
  a : BitVec 6
  b : BitVec 6
  f : BitVec 2
  deriving DecidableEq, Repr

/-- RI word (R94). -/
structure RI where
  d : BitVec 6
  a : BitVec 6
  imm : BitVec 8
  deriving DecidableEq, Repr

/-- RL word and its extension word (R94). -/
structure RL where
  d : BitVec 6
  a : BitVec 6
  f8 : BitVec 8
  ext : Word
  deriving DecidableEq, Repr

/-- RL word whose f8[2:0] is a selector; `hi` is f8[7:3] (R127). -/
structure RL5 where
  d : BitVec 6
  a : BitVec 6
  hi : BitVec 5
  ext : Word
  deriving DecidableEq, Repr

/-- RL word whose f8[3:0] is a selector; `hi` is f8[7:4] (R136, R247). -/
structure RL4 where
  d : BitVec 6
  a : BitVec 6
  hi : BitVec 4
  ext : Word
  deriving DecidableEq, Repr

/-- B word: signed word offset in [19:0] (R94, R95). -/
structure BOff where
  off : BitVec 20
  deriving DecidableEq, Repr

/-- Command word and the imm24 of its extension (R94, R107). -/
structure Cmd where
  d : BitVec 6
  a : BitVec 6
  f8 : BitVec 8
  imm : BitVec 24
  deriving DecidableEq, Repr

/-- Bundle header without its SLOTS field, which the present patches give (R98). -/
structure BundleHdr where
  hold : BitVec 4
  g : BitVec 6
  popSrc : BitVec 2
  popN : BitVec 3
  pushDst : BitVec 2
  pushN : BitVec 3
  lbs : BitVec 1
  lbe : BitVec 1
  rsv : BitVec 6
  deriving DecidableEq, Repr

/-- Patch word (R100). -/
structure Patch where
  idx : BitVec 6
  field : BitVec 4
  mode : BitVec 2
  rsv : BitVec 4
  val : Half
  deriving DecidableEq, Repr

/-- Fields of an A, B or F template below TOP (R289). -/
structure VTmpl where
  dst : BitVec 6
  sa : BitVec 6
  sb : BitVec 6
  sc : BitVec 6
  fmt : BitVec 4
  rm : BitVec 3
  sat : BitVec 1
  mask : BitVec 3
  pk : BitVec 3
  std : BitVec 4
  sta : BitVec 4
  stb : BitVec 4
  stc : BitVec 4
  aux : BitVec 16
  imm : BitVec 32
  rsv : BitVec 18
  deriving DecidableEq, Repr

/-- The two vector units (R13). -/
inductive VSlot | a | b
  deriving DecidableEq, Repr

/-- A vector operation and the unit that takes it. -/
structure VUnit where
  slot : VSlot
  t : VTmpl
  deriving DecidableEq, Repr

/-- Fields of an M template below TOP (R326). -/
structure MTmpl where
  acc : BitVec 2
  row : BitVec 6
  dst : BitVec 6
  sa : BitVec 6
  sc : BitVec 6
  fmt : BitVec 4
  fw : BitVec 4
  opt : BitVec 8
  str : BitVec 4
  std : BitVec 4
  sta : BitVec 4
  stc : BitVec 4
  addr : BitVec 21
  xtra : BitVec 21
  aux : BitVec 10
  rsv : BitVec 10
  deriving DecidableEq, Repr

/-- Who writes a system register: a core by SYSW, the samovar, or the host through BAR 0 (R28, 17 R485, 18 R512). -/
inductive RegAgent
  | core (n : Nat)
  | samovar
  | host
  deriving DecidableEq, Repr

/-- What the host's completer returns to an AtomicOp (R138). -/
inductive HostAtomicReply
  | value (v : DWord)
  | unsupported
  deriving DecidableEq, Repr

/-- The physical links whose training state a register shows (LINK_STATE_CHANGE). -/
inductive LinkName
  | host
  | flash (n : Nat)
  | port (n : Nat)
  | shagean (n : Nat)
  deriving DecidableEq, Repr

/-- A message in the DOE mailbox, reduced to what the device does with it (17 R484, R494). -/
inductive DoeMessage
  | discovery
  | spdm
  | copyInKey (slot : Nat) (region : BitVec 12) (key : BitVec 256) (salt : Word)
  | ideKey
  | unsupported
  deriving DecidableEq, Repr

/-- What an event takes from outside: numbers of the core, queue, port or other object it happens to, and data. -/
structure EvArg where
  core : Nat := 0
  idx : Nat := 0
  num : Nat := 0
  sq : Seq := .ctl
  value : DWord := 0
  flag : Bool := false
  bytes : List Byte := []
  nums : List Nat := []
  agent : RegAgent := .samovar
  reply : HostAtomicReply := .unsupported
  link : LinkName := .host
  doe : DoeMessage := .unsupported
  deriving DecidableEq, Repr

/-- One step of the device: a row of the table of operations and events. -/
inductive Instr
  /-- ADD (R123) -/
  | add (o : R3)
  /-- SUB (R123) -/
  | sub (o : R3)
  /-- MIN (R123) -/
  | min (o : R3)
  /-- MAX (R123) -/
  | max (o : R3)
  /-- MINU (R123) -/
  | minu (o : R3)
  /-- MAXU (R123) -/
  | maxu (o : R3)
  /-- AND (R123) -/
  | and (o : R3)
  /-- OR (R123) -/
  | or (o : R3)
  /-- XOR (R123) -/
  | xor (o : R3)
  /-- ANDN (R123) -/
  | andn (o : R3)
  /-- SHL (R123) -/
  | shl (o : R3)
  /-- SHR (R123) -/
  | shr (o : R3)
  /-- SAR (R123) -/
  | sar (o : R3)
  /-- ROR (R123) -/
  | ror (o : R3)
  /-- MUL (R123) -/
  | mul (o : R3)
  /-- MULH (R123) -/
  | mulh (o : R3)
  /-- MULHU (R123) -/
  | mulhu (o : R3)
  /-- DIV (R123) -/
  | div (o : R3)
  /-- DIVU (R123) -/
  | divu (o : R3)
  /-- REM (R123) -/
  | rem (o : R3)
  /-- REMU (R123) -/
  | remu (o : R3)
  /-- ADDI (R124) -/
  | addi (o : RI)
  /-- ANDI (R124) -/
  | andi (o : RI)
  /-- ORI (R124) -/
  | ori (o : RI)
  /-- XORI (R124) -/
  | xori (o : RI)
  /-- SHLI (R124) -/
  | shli (o : RI)
  /-- SHRI (R124) -/
  | shri (o : RI)
  /-- SARI (R124) -/
  | sari (o : RI)
  /-- LI (R125) -/
  | li (o : RL)
  /-- LIH (R125) -/
  | lih (o : RL)
  /-- CLZ (R123) -/
  | clz (o : R3)
  /-- CTZ (R123) -/
  | ctz (o : R3)
  /-- POPC (R123) -/
  | popc (o : R3)
  /-- BFX (R126) -/
  | bfx (o : RL)
  /-- BFXU (R126) -/
  | bfxu (o : RL)
  /-- BFI (R126) -/
  | bfi (o : RL)
  /-- LEA (R123) -/
  | lea (o : R3F)
  /-- SEL (R129) -/
  | sel (o : RL)
  /-- CMP_EQ (R127) -/
  | cmpEq (o : R3)
  /-- CMP_NE (R127) -/
  | cmpNe (o : R3)
  /-- CMP_LT (R127) -/
  | cmpLt (o : R3)
  /-- CMP_LE (R127) -/
  | cmpLe (o : R3)
  /-- CMP_LTU (R127) -/
  | cmpLtu (o : R3)
  /-- CMP_LEU (R127) -/
  | cmpLeu (o : R3)
  /-- CMPI_EQ (R127) -/
  | cmpiEq (o : RL5)
  /-- CMPI_NE (R127) -/
  | cmpiNe (o : RL5)
  /-- CMPI_LT (R127) -/
  | cmpiLt (o : RL5)
  /-- CMPI_LE (R127) -/
  | cmpiLe (o : RL5)
  /-- CMPI_LTU (R127) -/
  | cmpiLtu (o : RL5)
  /-- CMPI_LEU (R127) -/
  | cmpiLeu (o : RL5)
  /-- PSET (R128) -/
  | pset (o : RI)
  /-- PMOV_AND (R128) -/
  | pmovAnd (o : R3)
  /-- PMOV_OR (R128) -/
  | pmovOr (o : R3)
  /-- PMOV_XOR (R128) -/
  | pmovXor (o : R3)
  /-- PMOV_ANDN (R128) -/
  | pmovAndn (o : R3)
  /-- BR (R130) -/
  | br (o : BOff)
  /-- CALL (R130) -/
  | call (o : BOff)
  /-- JR (R130) -/
  | jr (o : R3F)
  /-- LOOP (R131) -/
  | loop (o : RL)
  /-- LDS (R132) -/
  | lds (o : RL)
  /-- STS (R132) -/
  | sts (o : RL)
  /-- ATOM_ADD (R136) -/
  | atomAdd (o : RL4)
  /-- ATOM_AND (R136) -/
  | atomAnd (o : RL4)
  /-- ATOM_OR (R136) -/
  | atomOr (o : RL4)
  /-- ATOM_XOR (R136) -/
  | atomXor (o : RL4)
  /-- ATOM_MIN (R136) -/
  | atomMin (o : RL4)
  /-- ATOM_MAX (R136) -/
  | atomMax (o : RL4)
  /-- ATOM_MINU (R136) -/
  | atomMinu (o : RL4)
  /-- ATOM_MAXU (R136) -/
  | atomMaxu (o : RL4)
  /-- ATOM_SWP (R136) -/
  | atomSwp (o : RL4)
  /-- CAS (R136) -/
  | cas (o : RL)
  /-- TKWAIT (R139) -/
  | tkwait (o : RI)
  /-- TKPOST (R139) -/
  | tkpost (o : RI)
  /-- SEMWAIT (R141) -/
  | semwait (o : RL)
  /-- SEMADD (R141) -/
  | semadd (o : RL)
  /-- SEMSET (R141) -/
  | semset (o : RL)
  /-- ARVW (R142) -/
  | arvw (o : R3F)
  /-- ARVCLR (R142) -/
  | arvclr (o : R3F)
  /-- FENCE (R143) -/
  | fence (o : R3F)
  /-- ACQ (R144) -/
  | acq (o : R3F)
  /-- BARV (R147) -/
  | barv (o : R3F)
  /-- BARW (R147) -/
  | barw (o : R3F)
  /-- MQADV (R148) -/
  | mqadv (o : R3F)
  /-- WSET (R149) -/
  | wset (o : R3F)
  /-- WREL (R149) -/
  | wrel (o : R3F)
  /-- HSET (R150) -/
  | hset (o : R3F)
  /-- TMPLD (R151) -/
  | tmpld (o : RL)
  /-- TRAP (R157) -/
  | trap (o : RI)
  /-- SYSR (R159) -/
  | sysr (o : RL)
  /-- SYSW (R159) -/
  | sysw (o : RL)
  /-- NESTQ (R200) -/
  | nestq (o : Cmd)
  /-- NESTF (R201) -/
  | nestf (o : Cmd)
  /-- NESTR (R202) -/
  | nestr (o : Cmd)
  /-- NESTS (R203) -/
  | nests (o : Cmd)
  /-- SBIND_LD (R218) -/
  | sbindLd (o : R3F)
  /-- SUNB_LD (R220) -/
  | sunbLd (o : R3F)
  /-- LDQ (R221) -/
  | ldq (o : R3F)
  /-- GATH (R219) -/
  | gath (o : R3F)
  /-- LDT (R222) -/
  | ldt (o : RL)
  /-- MFILL (R223) -/
  | mfill (o : RL)
  /-- PREF (R224) -/
  | pref (o : RL)
  /-- NLI (R225) -/
  | nli (o : RL)
  /-- NADD (R225) -/
  | nadd (o : R3F)
  /-- NADDI (R225) -/
  | naddi (o : RI)
  /-- NCMP_EQ (R225) -/
  | ncmpEq (o : R3)
  /-- NCMP_NE (R225) -/
  | ncmpNe (o : R3)
  /-- NCMP_LT (R225) -/
  | ncmpLt (o : R3)
  /-- NCMP_LE (R225) -/
  | ncmpLe (o : R3)
  /-- NCMP_LTU (R225) -/
  | ncmpLtu (o : R3)
  /-- NCMP_LEU (R225) -/
  | ncmpLeu (o : R3)
  /-- NBR (R225) -/
  | nbr (o : BOff)
  /-- NLOOP (R225) -/
  | nloop (o : RL)
  /-- SBIND_ST (R237) -/
  | sbindSt (o : R3F)
  /-- SUNB_ST (R240) -/
  | sunbSt (o : R3F)
  /-- STQ (R242) -/
  | stq (o : R3F)
  /-- SCAT (R241) -/
  | scat (o : R3F)
  /-- STT (R243) -/
  | stt (o : RL)
  /-- ATOMV_ADD (R248) -/
  | atomvAdd (o : RL4)
  /-- ATOMV_AND (R248) -/
  | atomvAnd (o : RL4)
  /-- ATOMV_OR (R248) -/
  | atomvOr (o : RL4)
  /-- ATOMV_XOR (R248) -/
  | atomvXor (o : RL4)
  /-- ATOMV_MIN (R248) -/
  | atomvMin (o : RL4)
  /-- ATOMV_MAX (R248) -/
  | atomvMax (o : RL4)
  /-- ATOMV_MINU (R248) -/
  | atomvMinu (o : RL4)
  /-- ATOMV_MAXU (R248) -/
  | atomvMaxu (o : RL4)
  /-- ATOMV_SWP (R248) -/
  | atomvSwp (o : RL4)
  /-- RPUT (R253) -/
  | rput (o : RL)
  /-- MWB (R257) -/
  | mwb (o : RL)
  /-- ISSUE_BUNDLE (R269) -/
  | issueBundle (h : BundleHdr) (pm pa pb pf : Option Patch)
  /-- EMPTY_BUNDLE (R270) -/
  | emptyBundle (h : BundleHdr)
  /-- MLS (R332) -/
  | mls (t : MTmpl)
  /-- ACCRD (R340) -/
  | accrd (t : MTmpl)
  /-- ACCZ (R342) -/
  | accz (t : MTmpl)
  /-- ACCLD (R343) -/
  | accld (t : MTmpl)
  /-- AMLD (R344) -/
  | amld (t : MTmpl)
  /-- DRAW (R347) -/
  | draw (t : MTmpl)
  /-- MMA_M8_K1 (R336) -/
  | mmaM8K1 (t : MTmpl)
  /-- MMA_M8_K2 (R336) -/
  | mmaM8K2 (t : MTmpl)
  /-- MMA_M8_K4 (R336) -/
  | mmaM8K4 (t : MTmpl)
  /-- MMA_M8_K8 (R336) -/
  | mmaM8K8 (t : MTmpl)
  /-- MMA_M16_K1 (R336) -/
  | mmaM16K1 (t : MTmpl)
  /-- MMA_M16_K2 (R336) -/
  | mmaM16K2 (t : MTmpl)
  /-- MMA_M16_K4 (R336) -/
  | mmaM16K4 (t : MTmpl)
  /-- MMA_M16_K8 (R336) -/
  | mmaM16K8 (t : MTmpl)
  /-- MMA_M32_K1 (R336) -/
  | mmaM32K1 (t : MTmpl)
  /-- MMA_M32_K2 (R336) -/
  | mmaM32K2 (t : MTmpl)
  /-- MMA_M32_K4 (R336) -/
  | mmaM32K4 (t : MTmpl)
  /-- MMA_M32_K8 (R336) -/
  | mmaM32K8 (t : MTmpl)
  /-- MMA_M64_K1 (R336) -/
  | mmaM64K1 (t : MTmpl)
  /-- MMA_M64_K2 (R336) -/
  | mmaM64K2 (t : MTmpl)
  /-- MMA_M64_K4 (R336) -/
  | mmaM64K4 (t : MTmpl)
  /-- MMA_M64_K8 (R336) -/
  | mmaM64K8 (t : MTmpl)
  /-- VADD (R298) -/
  | vadd (u : VUnit)
  /-- VSUB (R298) -/
  | vsub (u : VUnit)
  /-- VMUL (R298) -/
  | vmul (u : VUnit)
  /-- VFMA (R298) -/
  | vfma (u : VUnit)
  /-- VFMS (R298) -/
  | vfms (u : VUnit)
  /-- VMIN (R299) -/
  | vmin (u : VUnit)
  /-- VMAX (R299) -/
  | vmax (u : VUnit)
  /-- VABS (R299) -/
  | vabs (u : VUnit)
  /-- VNEG (R299) -/
  | vneg (u : VUnit)
  /-- VAND (R300) -/
  | vand (u : VUnit)
  /-- VOR (R300) -/
  | vor (u : VUnit)
  /-- VXOR (R300) -/
  | vxor (u : VUnit)
  /-- VNOT (R300) -/
  | vnot (u : VUnit)
  /-- VSHL (R300) -/
  | vshl (u : VUnit)
  /-- VSHR (R300) -/
  | vshr (u : VUnit)
  /-- VSAR (R300) -/
  | vsar (u : VUnit)
  /-- VCMP_EQ (R301) -/
  | vcmpEq (u : VUnit)
  /-- VCMP_NE (R301) -/
  | vcmpNe (u : VUnit)
  /-- VCMP_LT (R301) -/
  | vcmpLt (u : VUnit)
  /-- VCMP_LE (R301) -/
  | vcmpLe (u : VUnit)
  /-- VCMP_GT (R301) -/
  | vcmpGt (u : VUnit)
  /-- VCMP_GE (R301) -/
  | vcmpGe (u : VUnit)
  /-- VSEL (R303) -/
  | vsel (u : VUnit)
  /-- VMOV (R303) -/
  | vmov (u : VUnit)
  /-- VBCAST (R303) -/
  | vbcast (u : VUnit)
  /-- VPERM (R303) -/
  | vperm (u : VUnit)
  /-- VSLIDE (R303) -/
  | vslide (u : VUnit)
  /-- VRED_SUM (R304) -/
  | vredSum (u : VUnit)
  /-- VRED_MIN (R304) -/
  | vredMin (u : VUnit)
  /-- VRED_MAX (R304) -/
  | vredMax (u : VUnit)
  /-- VRED_AND (R304) -/
  | vredAnd (u : VUnit)
  /-- VRED_OR (R304) -/
  | vredOr (u : VUnit)
  /-- VRED_XOR (R304) -/
  | vredXor (u : VUnit)
  /-- VSCAN_SUM (R305) -/
  | vscanSum (u : VUnit)
  /-- VSCAN_MIN (R305) -/
  | vscanMin (u : VUnit)
  /-- VSCAN_MAX (R305) -/
  | vscanMax (u : VUnit)
  /-- VCVT (R306) -/
  | vcvt (u : VUnit)
  /-- VSCL (R307) -/
  | vscl (u : VUnit)
  /-- VSCL_DERIVE (R308) -/
  | vsclDerive (u : VUnit)
  /-- VIOTA (R309) -/
  | viota (u : VUnit)
  /-- VPOPC (R309) -/
  | vpopc (u : VUnit)
  /-- VFIRST (R309) -/
  | vfirst (u : VUnit)
  /-- VTOPK (R310) -/
  | vtopk (u : VUnit)
  /-- VLD (R311) -/
  | vld (u : VUnit)
  /-- VST (R311) -/
  | vst (u : VUnit)
  /-- GATE (R314) -/
  | gate (u : VUnit)
  /-- VPEN (R316) -/
  | vpen (u : VUnit)
  /-- VSBIAS (R317) -/
  | vsbias (u : VUnit)
  /-- VBAN (R318) -/
  | vban (u : VUnit)
  /-- VMATCH (R319) -/
  | vmatch (u : VUnit)
  /-- VEXP (R320) -/
  | vexp (t : VTmpl)
  /-- VLOG (R320) -/
  | vlog (t : VTmpl)
  /-- VRCP (R320) -/
  | vrcp (t : VTmpl)
  /-- VRSQ (R320) -/
  | vrsq (t : VTmpl)
  /-- VTANH (R320) -/
  | vtanh (t : VTmpl)
  /-- VSIGM (R320) -/
  | vsigm (t : VTmpl)
  /-- CPY (R361) -/
  | cpy (o : Cmd)
  /-- CPYS (R368) -/
  | cpys (o : Cmd)
  /-- CPYT (R366) -/
  | cpyt (o : Cmd)
  /-- CPYD (R374) -/
  | cpyd (o : Cmd)
  /-- LEASE (R370) -/
  | lease (o : Cmd)
  /-- LREL (R372) -/
  | lrel (o : Cmd)
  /-- MSEND_P (R388) -/
  | msendP (o : Cmd)
  /-- MSEND_H (R389) -/
  | msendH (o : Cmd)
  /-- DISP (R393) -/
  | disp (o : Cmd)
  /-- CMB (R396) -/
  | cmb (o : Cmd)
  /-- QWAIT (R401) -/
  | qwait (o : Cmd)
  /-- QREAD (R402) -/
  | qread (o : Cmd)
  /-- RLOOK (R435) -/
  | rlook (o : Cmd)
  /-- RPIN (R436) -/
  | rpin (o : Cmd)
  /-- RUNPIN (R436) -/
  | runpin (o : Cmd)
  /-- RFETCH (R436) -/
  | rfetch (o : Cmd)
  /-- REVICT (R436) -/
  | revict (o : Cmd)
  /-- RPOL_LAYER (R436) -/
  | rpolLayer (o : Cmd)
  /-- RPOL_UNLAYER (R436) -/
  | rpolUnlayer (o : Cmd)
  /-- RPOL_CAT (R436) -/
  | rpolCat (o : Cmd)
  /-- RPOL_UNCAT (R436) -/
  | rpolUncat (o : Cmd)
  /-- SQOPEN (R449) -/
  | sqopen (o : Cmd)
  /-- SQOPEN_CLOSE (R449) -/
  | sqopenClose (o : Cmd)
  /-- SQFRAME (R451) -/
  | sqframe (o : Cmd)
  /-- SQTRUNC (R452) -/
  | sqtrunc (o : Cmd)
  /-- SQCKPT (R454) -/
  | sqckpt (o : Cmd)
  /-- SQSPEC (R456) -/
  | sqspec (o : Cmd)
  /-- SQCMIT (R457) -/
  | sqcmit (o : Cmd)
  /-- SQCUR_READ (R450) -/
  | sqcurRead (o : Cmd)
  /-- SQCUR_PLAY (R450) -/
  | sqcurPlay (o : Cmd)
  /-- SQCUR_KV (R450) -/
  | sqcurKv (o : Cmd)
  /-- PREL (R480) -/
  | prel (o : Cmd)
  /-- PSTAT (R480) -/
  | pstat (o : Cmd)
  /-- PUBLISH (R145) -/
  | publish
  /-- RFT_RETRY (R156) -/
  | rftRetry
  /-- RFT_SKIP (R156) -/
  | rftSkip
  /-- RFT_REDIRECT (R156) -/
  | rftRedirect
  /-- YIELD (R160) -/
  | yield
  /-- TEND (R158) -/
  | tend
  /-- TEND_ABORT (R158) -/
  | tendAbort
  /-- TEND_ESC (R158) -/
  | tendEsc
  /-- NOP (R161) -/
  | nop
  /-- MNOP (R345) -/
  | mnop
  /-- HELD_ACCESS_RETRY (R38) -/
  | heldAccessRetry
  /-- FLIP_LIMIT_EXPIRY (R38) -/
  | flipLimitExpiry
  /-- FLIP_TO_HOST_FINISH (R39) -/
  | flipToHostFinish
  /-- WINDOW_FILL_DONE (R47) -/
  | windowFillDone
  /-- DEVICE_WRITEBACK (R48) -/
  | deviceWriteback
  /-- PUBLICATION_COMMIT (R54) -/
  | publicationCommit
  /-- SCOPE_REFUSAL_TIMEOUT (R66) -/
  | scopeRefusalTimeout
  /-- SHADOW_WRITE_RELEASE (R70) -/
  | shadowWriteRelease
  /-- SNAPSHOT_PRESSURE (R60) -/
  | snapshotPressure
  /-- SNAPSHOT_EXPIRED (R61) -/
  | snapshotExpired
  /-- DIRTY_EVICT_UNCORRECTABLE (R71) -/
  | dirtyEvictUncorrectable
  /-- REGISTER_WRITE (R28) -/
  | registerWrite
  /-- BAR_CFG_WRITE (R164) -/
  | barCfgWrite
  /-- MU_INV_PAGE (R42) -/
  | muInvPage
  /-- MU_INV_ASID (R42) -/
  | muInvAsid
  /-- MU_INV_ALL (R42) -/
  | muInvAll
  /-- MU_INV_NONE (R43) -/
  | muInvNone
  /-- NS_RINV_REGION (R166) -/
  | nsRinvRegion
  /-- NS_RINV_ALL (R166) -/
  | nsRinvAll
  /-- LD_SHINV_REGION (R233) -/
  | ldShinvRegion
  /-- LD_SHINV_ALL (R233) -/
  | ldShinvAll
  /-- TILE_DISPATCH (R182) -/
  | tileDispatch
  /-- PRIORITY_AGING (R181) -/
  | priorityAging
  /-- TILE_COMMIT (R185) -/
  | tileCommit
  /-- YIELD_REQUEST (R187) -/
  | yieldRequest
  /-- BOUNDARY_YIELD (R188) -/
  | boundaryYield
  /-- YIELD_DEADLINE (R190) -/
  | yieldDeadline
  /-- SAVE_COMPLETE (R191) -/
  | saveComplete
  /-- SAVE_BOUND (R195) -/
  | saveBound
  /-- TILE_RESTORE (R193) -/
  | tileRestore
  /-- WATCHDOG (R196) -/
  | watchdog
  /-- STREAM_ENTRY_READ (R212) -/
  | streamEntryRead
  /-- STREAM_ENTRY_LAND (R212) -/
  | streamEntryLand
  /-- LD_DIRECT_OP_COMPLETE (R214) -/
  | ldDirectOpComplete
  /-- HELD_FAULT_TRAP (R215) -/
  | heldFaultTrap
  /-- ST_STREAM_ENTRY_WRITE (R237) -/
  | stStreamEntryWrite
  /-- ST_DIRECT_OP_COMPLETE (R245) -/
  | stDirectOpComplete
  /-- MQ_GRANT (R253) -/
  | mqGrant
  /-- MQ_ENTRY_LAND (R255) -/
  | mqEntryLand
  /-- MQ_FULL_TIMEOUT (R254) -/
  | mqFullTimeout
  /-- TOKEN_PUSH_DELIVER (R272) -/
  | tokenPushDeliver
  /-- LATE_FAULT_TRAP (R281) -/
  | lateFaultTrap
  /-- MLS_START (R331) -/
  | mlsStart
  /-- SHADOW_FULL (R331) -/
  | shadowFull
  /-- MMA_K_STEP (R336) -/
  | mmaKStep
  /-- COPY_CHUNK_ARRIVAL (R361) -/
  | copyChunkArrival
  /-- COPY_COMPLETE (R361) -/
  | copyComplete
  /-- COPY_FAULT (R377) -/
  | copyFault
  /-- LEASE_EXPIRY (R371) -/
  | leaseExpiry
  /-- SHAGEAN_FLIT_RECEIVE (R382) -/
  | shageanFlitReceive
  /-- SHAGEAN_GO_BACK (R382) -/
  | shageanGoBack
  /-- LINK_ACK_TIMEOUT (R382) -/
  | linkAckTimeout
  /-- LINK_RESYNC (R382) -/
  | linkResync
  /-- SHAGEAN_PACKET_RECEIVE (R381) -/
  | shageanPacketReceive
  /-- PEER_REQUEST (R384) -/
  | peerRequest
  /-- PEER_RESPONSE (R384) -/
  | peerResponse
  /-- HANDLER_INBOX_GRANT (R389) -/
  | handlerInboxGrant
  /-- HANDLER_MESSAGE (R389) -/
  | handlerMessage
  /-- HANDLER_ENQUEUE_RETRY (R389) -/
  | handlerEnqueueRetry
  /-- GATE_SET_LOAD_REQ (R392) -/
  | gateSetLoadReq
  /-- GATE_SET_BIAS_RELOAD (R392) -/
  | gateSetBiasReload
  /-- GATE_SET_FREE_REQ (R392) -/
  | gateSetFreeReq
  /-- GATE_SET_LOAD (R392) -/
  | gateSetLoad
  /-- GATE_SET_FREE (R392) -/
  | gateSetFree
  /-- TOKEN_SCORE (R394) -/
  | tokenScore
  /-- STEEPER_SCORE (R433) -/
  | steeperScore
  /-- COMBINE_ARRIVAL (R397) -/
  | combineArrival
  /-- DROP_NOTICE_ARRIVAL (R425) -/
  | dropNoticeArrival
  /-- WAVE_START (R399) -/
  | waveStart
  /-- WAVE_PASS (R399) -/
  | wavePass
  /-- QWAIT_TIMEOUT (R401) -/
  | qwaitTimeout
  /-- JOB_COUNTERS_CLEAR (R398) -/
  | jobCountersClear
  /-- SAUCER_COPY_ARRIVE (R421) -/
  | saucerCopyArrive
  /-- FLUSH_DEADLINE (R422) -/
  | flushDeadline
  /-- EXPERT_ENQUEUE_RETRY (R423) -/
  | expertEnqueueRetry
  /-- EXPERT_TILE_RETIRE (R424) -/
  | expertTileRetire
  /-- ABSENCE_THRESHOLD (R427) -/
  | absenceThreshold
  /-- FETCH_START (R415) -/
  | fetchStart
  /-- FETCH_COMPLETE (R416) -/
  | fetchComplete
  /-- FETCH_FAIL (R417) -/
  | fetchFail
  /-- NVME_COMPLETION (R431) -/
  | nvmeCompletion
  /-- NVME_TIMEOUT (R431) -/
  | nvmeTimeout
  /-- SQ_CPLAY_WRITE (R462) -/
  | sqCplayWrite
  /-- LINE_FRAME_RECEIVE (R472) -/
  | lineFrameReceive
  /-- ADVERTISEMENT_TIMER (R474) -/
  | advertisementTimer
  /-- PORT_ACCEPT_START (R471) -/
  | portAcceptStart
  /-- PORT_ENABLE (R479) -/
  | portEnable
  /-- PORT_DISABLE (R479) -/
  | portDisable
  /-- WHISK_LOAD (R478) -/
  | whiskLoad
  /-- COLD_RESET (R497) -/
  | coldReset
  /-- BOOT_STAGING_WRITE (R497) -/
  | bootStagingWrite
  /-- BOOT_GO (R498) -/
  | bootGo
  /-- FEATURE_ACCEPT (R488) -/
  | featureAccept
  /-- RING_ENABLE (R502) -/
  | ringEnable
  /-- RING_DOORBELL (R489) -/
  | ringDoorbell
  /-- RING_ENTRY_NEST (R491) -/
  | ringEntryNest
  /-- RING_ENTRY_COPY (R491) -/
  | ringEntryCopy
  /-- RING_ENTRY_COPYIN (R495) -/
  | ringEntryCopyin
  /-- RING_ENTRY_ATTEST (R500) -/
  | ringEntryAttest
  /-- APERTURE_ACCESS (R486) -/
  | apertureAccess
  /-- TDISP_LOCK_INTERFACE (R487) -/
  | tdispLockInterface
  /-- TDISP_START_INTERFACE (R487) -/
  | tdispStartInterface
  /-- TDISP_STOP_INTERFACE (R487) -/
  | tdispStopInterface
  /-- HOST_ATOMIC_COMPLETION (R138) -/
  | hostAtomicCompletion
  /-- HOST_ATOMIC_WITHDRAW (R496) -/
  | hostAtomicWithdraw
  /-- THERMAL_TRIP (R501) -/
  | thermalTrip
  /-- SV_NQ_ENQUEUE (R509) -/
  | svNqEnqueue
  /-- SV_NDONE_POP (R508) -/
  | svNdonePop
  /-- SV_FLIP_POP (R512) -/
  | svFlipPop
  /-- MAILBOX_S2H_SEND (R510) -/
  | mailboxS2hSend
  /-- MAILBOX_H2S_SEND (R510) -/
  | mailboxH2sSend
  /-- MAILBOX_S2H_CLEAR (R507) -/
  | mailboxS2hClear
  /-- MB_ATOM_SEQ (R511) -/
  | mbAtomSeq
  /-- MB_ATOM_CLAIM (R511) -/
  | mbAtomClaim
  /-- MB_ATOM_WDRAW (R511) -/
  | mbAtomWdraw
  /-- ILLEGAL_OPCODE (R109) -/
  | illegalOpcode
  /-- ENGINE_OPERATION_COMPLETE (R268) -/
  | engineOperationComplete
  /-- SAMOVAR_INSTRUCTION (R504) -/
  | samovarInstruction
  /-- THERMAL_SENSOR_READING (R501) -/
  | thermalSensorReading
  /-- POWER_LOSS (R499) -/
  | powerLoss
  /-- LINK_STATE_CHANGE (R482) -/
  | linkStateChange
  /-- DOE_MAILBOX_MESSAGE (R484) -/
  | doeMailboxMessage
  deriving DecidableEq, Repr

end Sys2Proof
end

