-- ==== Sys2Proof/Machine/State.lean ====
section
/-! DEFINITION. The state of the Novesh 7100 as plain data, and its reset value. Every structure's defaults are the
values after device reset; a field whose reset value the manual does not give carries a log number. -/

namespace Sys2Proof.Machine

/-- Fault and event codes (01 R29). -/
inductive Code
  | illegalOpcode | reservedField | emptyTemplate | patchRange | privilege | trapInsn | qUnderflow | qOverflow
  | tokenOverflow | semOverflow | align | xlateNotPresent | xlatePermission | hostOwned | shapeBounds | scratchRange
  | mqFullTimeout | phaseOverflow | snapshotExpired | scopeRefusalTimeout | hostAtomicUnsupported | uncorrectableData
  | poisonConsumed | yieldDeadline | watchdog | saveBound | lateFrame | windowMargin | expertAbsent | expertImageBad
  | msgLoss | portOverrun | cryptoTagFail | tdispState | relocRange
  deriving DecidableEq, Repr

/-- Why the whole machine stops. -/
inductive Fault
  /-- Raised by any access whose translation gives a local physical address at or beyond the 512 GiB of LPDDR6
  (01 R12): the manual gives no response (log 5). Safe: nothing is claimed of such a run. -/
  | noSuchPhysical (pa : Nat)
  deriving DecidableEq, Repr

/-- Why a step has no meaning. -/
inductive Refusal
  /-- Raised by an arm of `exec` that has no meaning yet. Safe: nothing is claimed of such a step. -/
  | notModelled (mnemonic : String)
  deriving DecidableEq, Repr

/-- What a sequencer waits for (05 R163); a bundle held back by an engine or an interlock shows as running (09 R268). -/
inductive Wait
  | token | queue | object | memory | engine
  deriving DecidableEq, Repr

/-- What a sequencer is doing (05 R163). -/
inductive SeqRun
  | idle | running | stalled (w : Wait) | trapped | atBackEdge
  deriving DecidableEq, Repr

/-- The stages of a sequencer within a tile (06 R183). -/
inductive Stage
  | prologue | kernel | epilogue | complete
  deriving DecidableEq, Repr

/-- An access held because its page is owned by the host (02 R38), or refused by a pinned line (02 R66). -/
structure Hold where
  asid : Nat := 0
  /-- Virtual page base, and the access's own address. -/
  page : Nat := 0
  va : Nat := 0
  /-- Lane of a stream access. -/
  lane : Nat := 0
  since : Nat := 0
  deriving DecidableEq, Repr

/-- Where the answer to a request that left the device has got to (02 R51, 05 R138, 13 R384). -/
inductive Remote
  /-- A request with this tag is out. -/
  | waiting (tag : Nat)
  /-- The answer has come and the instruction can finish. -/
  | done (data : List Byte)
  /-- The answer was a fault. -/
  | failed (c : Code)
  deriving DecidableEq, Repr

/-- Operations of ATOM, CAS and ATOMV (05 R136). -/
inductive AtomOp
  | add | and | or | xor | min | max | minu | maxu | swp | cas
  deriving DecidableEq, Repr

/-- Which instruction is publishing (05 R145, R147, R158). -/
inductive PubKind
  | publish
  | barv (device : Bool) (num : Nat)
  | tend
  deriving DecidableEq, Repr

/-- A remote put that waits for its grant (08 R252, R253): target core and window, source offset and bytes, semaphore. -/
structure PutAsk where
  core : Nat
  win : Nat
  src : Nat
  size : Nat
  sem : Option Nat
  /-- Target device and job of an MSEND.P (13 R388). -/
  dev : Option Nat := none
  job : Option Nat := none
  deriving DecidableEq, Repr

/-- An MSEND.H that waits for an inbox entry (13 R389). -/
structure HandAsk where
  dev : Nat
  cluster : Nat
  hidx : Nat
  pay : List DWord
  job : Nat
  deriving DecidableEq, Repr

/-- A barrier that a tile has arrived at: cluster or device, number, and the generation joined (05 R147). -/
structure Joined where
  device : Bool
  num : Nat
  gen : Nat
  deriving DecidableEq, Repr

/-- One sequencer of a core (05 R119, 06 R183). -/
structure SeqState where
  pc : DWord := 0
  stage : Stage := .complete
  /-- Kernel iterations ended. -/
  iters : Nat := 0
  run : SeqRun := .idle
  /-- Stopped in an abandoned wait (06 R198). -/
  abandoned : Bool := false
  hold : Option Hold := none
  /-- The access that a pinned line refuses (02 R66). -/
  refused : Option Hold := none
  /-- The clock since which it waits for a grant of an MQ window or an inbox (08 R254, 13 R388). -/
  grantSince : Option Nat := none
  /-- The grant it holds: the entry number (08 R253). -/
  granted : Option Nat := none
  put : Option PutAsk := none
  hand : Option HandAsk := none
  /-- The copy on which an accepted RPIN.W at an address has put its pin, until that instruction completes: its tag, and
  whether it is the secondary one (05 R152, 14 R436). -/
  pinned : SMap (Nat × Bool) := []
  /-- The generation that a BARW without an arrival of its own waits for (05 R147). -/
  barw : Option Joined := none
  /-- It is held at its back-edge, or was when it stopped (06 R188, R198). -/
  edge : Bool := false
  /-- The job that a QWAIT waits for, and its limit in clocks (13 R401). -/
  qwait : Option (Nat × Nat) := none
  remote : Option Remote := none
  /-- A publication of this instruction is under way (02 R54). -/
  publishing : Option PubKind := none
  deriving DecidableEq, Repr

/-- Trap registers of a core (05 R162); `pend` bit n is sequencer n's PEND. -/
structure TrapRegs where
  mode : Bool := false
  code : Nat := 0
  seq : Nat := 0
  imm : BitVec 8 := 0
  pc : DWord := 0
  va : DWord := 0
  ret : DWord := 0
  pend : BitVec 4 := 0
  scr : SMap DWord := []
  deriving DecidableEq, Repr

/-- A nest record as accepted (06 R172–R174): its fields and the dependences' doublewords. -/
structure NestRec where
  region : Nat := 0
  ndim : Nat := 1
  order : Nat := 0xE4
  cohort : Bool := false
  pdep : Bool := false
  aff : Nat := 0
  pa : Nat := 0
  pb : Int := 0
  prod : Nat := 0
  code : Nat := 0
  /-- The 16 halves of ENTRY, half 4s + k. -/
  entry : List Nat := []
  /-- END of LD, CMP and ST. -/
  ends : List Nat := []
  tmpl : Nat := 0
  ext : List Nat := []
  trip : Nat := 0
  dep0 : DWord := 0
  dep1 : DWord := 0
  args : List DWord := []
  deriving DecidableEq, Repr

/-- A region's effective values (06 R167, R168) as kept by whoever read them: by a tile from its dispatch (R166). -/
structure Region where
  id : Nat := 0
  valid : Bool := false
  supv : Bool := false
  haf : Bool := false
  late : Bool := false
  overrun : Bool := false
  prio : Nat := 0
  maxPrio : Nat := 0
  cores : Nat := 0
  saveSlots : Nat := 0
  spTile : Nat := 0
  xsBytes : Nat := 0
  leaseBytes : Nat := 0
  verBytes : Nat := 0
  /-- Physical address of the level-1 table, and the ASID that goes with it (02 R33). -/
  xroot : Nat := 0
  asid : Nat := 0
  shapes : Nat := 0
  saveBase : Nat := 0
  fdNest : Nat := 0
  fqBase : Nat := 0
  fqEntries : Nat := 0
  watchdog : Nat := 0
  yieldDl : Nat := 0
  absence : Nat := 0
  prefetch : Nat := 0
  /-- The region and its ancestors, itself first. -/
  chain : List Nat := []
  deriving DecidableEq, Repr

/-- A region control block as read (06 R167): the copy the scheduler keeps (R166). -/
structure RegionBlock where
  parent : Nat := 0
  flags : Nat := 0
  prio : Nat := 0
  cores : Nat := 0
  saveSlots : Nat := 0
  override : Nat := 0
  spTile : Nat := 0
  xsBytes : Nat := 0
  leaseBytes : Nat := 0
  verBytes : Nat := 0
  xroot : Nat := 0
  shapes : Nat := 0
  saveBase : Nat := 0
  fdNest : Nat := 0
  fqBase : Nat := 0
  fqEntries : Nat := 0
  watchdog : Nat := 0
  yieldDl : Nat := 0
  absence : Nat := 0
  prefetch : Nat := 0
  deriving DecidableEq, Repr

/-- The open version of a tile (02 R54, R62): bytes written and not yet published, by the location at which the tile's
phase finds them. -/
structure Version where
  id : Nat := 0
  bytes : SMap Byte := []
  /-- The virtual 64 KiB page through which a physical one was last written (log 39). -/
  via : SMap Nat := []
  /-- Sectors that running copies have reserved and not yet written (R62). -/
  reserved : Nat := 0
  deriving DecidableEq, Repr

/-- A range exchange that the tile's next publication performs (02 R69, 12 R368). -/
structure Exchange where
  asid : Nat
  xroot : Nat
  dst : Nat
  shadow : Nat
  len : Nat
  region : Nat := 0
  /-- Physical shadow pages, and what the copy has put into them (12 R368). -/
  pages : List Nat := []
  bytes : SMap Byte := []
  deriving DecidableEq, Repr

/-- A slot-tag update that waits for the tile's publication (12 R366, R367). -/
structure TagUpdate where
  asid : Nat
  xroot : Nat
  region : Nat
  supv : Bool
  /-- Virtual address of the tag and the bytes to add. -/
  va : Nat
  bytes : Nat
  /-- Address of the command. -/
  pc : Nat
  deriving DecidableEq, Repr

/-- How a save was begun (06 R198 KIND). -/
inductive SaveKind
  | boundary | yield | forced
  deriving DecidableEq, Repr

/-- The tile that a core holds (06 R182–R197). -/
structure Tile where
  nid : Nat := 0
  ord : Nat := 0
  nrec : NestRec := {}
  reg : Region := {}
  /-- Priority at dispatch (TILE_INFO.PRIO). -/
  prio : Nat := 0
  /-- Order of dispatch among all tiles. -/
  dispatched : Nat := 0
  ver : Version := {}
  /-- Start stamp of the current phase (02 R53). -/
  start : Nat := 0
  /-- Bytes that a peer has overwritten since the phase started, as the phase still reads them (02 R57). -/
  seen : SMap Byte := []
  /-- The clock at which snapshot pressure reached the phase (02 R60, R61). -/
  press : Option Nat := none
  yieldReq : Option Nat := none
  saving : Option (SaveKind × Nat) := none
  /-- The clock of the last instruction issue (06 R196). -/
  lastIssue : Nat := 0
  exchanges : List Exchange := []
  tagUpdates : List TagUpdate := []
  joined : List Joined := []
  /-- The final publication has committed and the tile waits to be retired (06 R185). -/
  committed : Bool := false
  /-- TMPLD has run since the tile's dispatch (06 R175). -/
  tmplRan : Bool := false
  deriving DecidableEq, Repr

/-- State of a window chunk (02 R46). -/
inductive ChunkRun
  | unfilled | filling | valid
  deriving DecidableEq, Repr

/-- A scratchpad chunk of an installed window: its state and the dirty bits of its 32 sectors (02 R46). -/
structure Chunk where
  run : ChunkRun := .unfilled
  dirty : BitVec 32 := 0
  /-- The bytes a running fill took at its start, or its fault (02 R47). -/
  fill : List Byte := []
  fault : Option Code := none
  deriving DecidableEq, Repr

/-- Who sent a message, and its place among those that have come to this device (13 R380). -/
structure Sent where
  dev : Nat
  core : Nat
  at_ : Nat
  deriving DecidableEq, Repr

/-- A message granted an entry of an MQ window (08 R253, 13 R388). -/
structure MqMsg where
  s : Nat
  /-- Its bytes, once they have come. -/
  data : Option (List Byte) := none
  /-- Its bytes are in the entry; TAIL has not passed it yet (08 R255). -/
  landed : Bool := false
  /-- Target semaphore, with SEMEN. -/
  sem : Option Nat := none
  /-- Sending core, where the sender is an ST of this device. -/
  src : Option Nat := none
  /-- The job that a PUT belongs to, and its sender. -/
  job : Option Nat := none
  sent : Option Sent := none
  deriving DecidableEq, Repr

/-- The device's own view of an MQ window (08 R251). -/
structure MqWin where
  head : Nat := 0
  tail : Nat := 0
  res : Nat := 0
  n : Nat := 0
  esz : Nat := 0
  msgs : List MqMsg := []
  deriving DecidableEq, Repr

/-- An installed window: its descriptor (02 R45) and, in MQ mode, its queue. -/
structure Window where
  desc : QWord
  mq : MqWin := {}
  deriving DecidableEq, Repr

/-- One place in a queue register: an entry landed, or reserved and still to land (09 R274). -/
structure QEnt where
  id : Nat
  data : Option (List Byte)
  /-- An instruction of ST has reserved it (08 R242). -/
  st : Bool := false
  deriving DecidableEq, Repr

/-- A resolved shape record (07 R207). -/
structure Shape where
  base : Nat := 0
  esz : Nat := 0
  sp : Bool := false
  /-- Number of dimensions minus one. -/
  ndim : Nat := 0
  paden : Bool := false
  pad : Nat := 0
  ext : List Nat := []
  stride : List Int := []
  box : List Nat := []
  deriving DecidableEq, Repr

/-- A fault held at the head of a queue (07 R215, 08 R245). -/
structure HeldFault where
  code : Code
  va : Nat
  lane : Nat
  entry : Nat
  reported : Bool := false
  deriving DecidableEq, Repr

/-- How a queue is bound (07 R231, 08 R262). -/
inductive BindKind
  | once | cyc | list
  deriving DecidableEq, Repr

/-- A binding of a queue register to a walk (07 R212, 08 R237). -/
structure Binding where
  kind : BindKind
  shape : Shape
  org : List Int
  g : Nat := 0
  listOff : Nat := 0
  listCnt : Nat := 0
  /-- Entries whose reads have started (LD), or that the stream has begun to write (ST). -/
  issued : Nat := 0
  /-- Entries landed (LD) or written (ST). -/
  deliv : Nat := 0
  /-- The read of the next entry has started and waits (LD). -/
  started : Bool := false
  /-- Bytes of the entries read and not yet landed, oldest first. -/
  reading : List (List Byte) := []
  held : Option HeldFault := none
  hold : Option Hold := none
  remote : Option Remote := none
  /-- The access that a pinned line refuses. -/
  refused : Option Hold := none
  deriving DecidableEq, Repr

/-- The operations of the direct queues of LD and ST (07 R232, 08 R263). -/
inductive DirectKind
  | ldq | ldt | mfill | stq | stt | atomv | mwb
  deriving DecidableEq, Repr

/-- An operation of a direct queue. -/
structure DirectOp where
  kind : DirectKind
  /-- The operation of an ATOMV. -/
  op : AtomOp := .add
  /-- Queue or window number (the instruction's d field), and its a field. -/
  d : Nat := 0
  a : Nat := 0
  /-- The guard field, the low byte of its word and the extension word. -/
  guard : BitVec 6 := 0
  f8 : BitVec 8 := 0
  ext : Word := 0
  /-- Scratchpad offset, first chunk or base address. -/
  addr : Nat := 0
  org : List Int := []
  shape : Shape := {}
  /-- Entries, lanes or chunks completed. -/
  done : Nat := 0
  /-- Data-buffer entries taken. -/
  data : List (List Byte) := []
  /-- Result lanes of an ATOMV. -/
  res : List Nat := []
  /-- Reservation in the destination queue. -/
  rid : Option Nat := none
  /-- It has begun: this MFILL has started its chunks, or a part has been tried and waits (07 R231). -/
  started : Bool := false
  /-- The LDT entry it stands at is delivered with every lane PAD (07 R216). -/
  padded : Bool := false
  held : Option HeldFault := none
  hold : Option Hold := none
  remote : Option Remote := none
  refused : Option Hold := none
  deriving DecidableEq, Repr

/-- The fault register of an address queue (07 R233, 08 R264): LD_AQFAULT or ST_AQFAULT. -/
structure AqFault where
  it : Bool := false
  lane : Nat := 0
  queue : Nat := 0xF
  entry : Nat := 0
  deriving DecidableEq, Repr

/-- LD or ST beyond what every sequencer has (07 R206–R233, 08 R235–R264). -/
structure Streamer where
  n : SMap DWord := []
  binds : SMap Binding := []
  /-- Bindings of ST that ended by themselves (08 R239): what DONE and QPOS still show. -/
  past : SMap Binding := []
  direct : List DirectOp := []
  aq : AqFault := {}
  deriving DecidableEq, Repr

/-- An entry of a shape cache (07 R208), most recently used first. -/
structure ShapeEnt where
  region : Nat
  index : Nat
  shape : Shape
  deriving DecidableEq, Repr

/-- An issued copy that CMP keeps, and the index of the template it was formed from (09 R269, 03 R84). -/
structure SlotCopy where
  t : QWord
  idx : Nat
  deriving DecidableEq, Repr

/-- A captured bundle of the loop buffer (09 R276, R284). -/
structure Captured where
  hdr : BundleHdr
  slots : BitVec 4
  addr : Nat
  copies : List (Option SlotCopy)
  deriving DecidableEq, Repr

/-- States of the loop buffer (09 R276). -/
inductive LbRun
  | empty | capturing | armed
  deriving DecidableEq, Repr

/-- A push of tokens reserved by a bundle (09 R272). -/
structure TokenPush where
  bundle : Nat
  dst : Seq
  n : Nat
  deriving DecidableEq, Repr

/-- CMP beyond what every sequencer has (09 R266–R285). -/
structure Compute where
  /-- Template tables: entry slot × 64 + index; an entry not listed is empty (04 R101). -/
  tmpl : SMap QWord := []
  held : List (Option SlotCopy) := [none, none, none, none]
  lb : LbRun := .empty
  captured : List Captured := []
  lbAddr : Nat := 0
  lbNext : Nat := 0
  /-- Next captured bundle to replay. -/
  replay : Option Nat := none
  replays : Nat := 0
  pushes : List TokenPush := []
  /-- Slot of the last fault found after issue, and the offset of one still to be taken (09 R281). -/
  late : BitVec 4 := 0
  lateVa : Option Nat := none
  latePc : DWord := 0
  stall : Nat := 0
  issued : Nat := 0
  /-- Number of the next bundle to issue. -/
  bundle : Nat := 0
  /-- Issues of each slot and template, for stochastic rounding (03 R84). -/
  counts : SMap Nat := []
  deriving DecidableEq, Repr

/-- A result that an operation in an engine has still to write (09 R268, 10 R294, R295). `none` in a byte list leaves
that byte as it is. -/
inductive EngWrite
  | vreg (n : Nat) (data : List (Option Byte))
  | kreg (n : Nat) (enabled value : QWord)
  | pred (n : Nat) (v : Bool)
  | scratch (off : Nat) (data : List (Option Byte))
  | queue (q rid : Nat) (data : List Byte)
  | slice (v : Nat)
  | maskTile (t : Nat) (data : List Byte)
  | acc (a row : Nat) (data : List Word)
  | step (a n : Nat)
  deriving DecidableEq, Repr

/-- An operation issued to an engine and not yet finished (09 R268). Its sources were read at issue, so that it holds
the values it will write. -/
structure EngOp where
  id : Nat
  bundle : Nat
  /-- 0 M, 1 A, 2 B, 3 F. -/
  slot : Nat
  writes : List EngWrite
  /-- ARITH_FLAGS bits it raises (03 R87): [3] DZ, [2] NV, [1] OF, [0] ISAT. -/
  flags : BitVec 4 := 0
  /-- Offset of poison met while it runs (09 R281). -/
  late : Option Nat := none
  /-- Address of its bundle. -/
  pc : DWord := 0
  /-- It holds a place at the compute port (11 R325); its issued copy (11 R354). -/
  compute : Bool := false
  copy : QWord := 0
  deriving DecidableEq, Repr

/-- A weight plane: its bytes, column after column, and its scales, six for a column (11 R324, R330). -/
structure Plane where
  bytes : List Byte := []
  scales : List Byte := []
  deriving DecidableEq, Repr

/-- An MMA from its issue to its last K step (11 R336). -/
structure MmaRun where
  id : Nat
  bundle : Nat
  copy : MTmpl
  /-- Rows and K steps. -/
  m : Nat
  steps : Nat
  done : Nat := 0
  am0 : List Byte := []
  am1 : List Byte := []
  pc : DWord := 0
  deriving DecidableEq, Repr

/-- An MLS at the load port (11 R332). -/
structure MlsRun where
  bundle : Nat
  copy : MTmpl
  /-- Byte address or offset of the record. -/
  addr : Nat
  sp : Bool
  scl : Bool
  started : Bool := false
  pc : DWord := 0
  deriving DecidableEq, Repr

/-- State of the shadow plane (11 R331). -/
inductive ShadowRun
  | empty | loading | full
  deriving DecidableEq, Repr

/-- The matrix engine (11 R324). -/
structure Matrix where
  active : Plane := {}
  activeFull : Bool := false
  shadow : Plane := {}
  shadowRun : ShadowRun := .empty
  /-- Row r of accumulator a at key 64a + r; a row not listed is zero. -/
  acc : SMap (List Word) := []
  stepcnt : SMap Nat := []
  am : SMap (List Byte) := []
  slice : Nat := 0
  load : List MlsRun := []
  mmas : List MmaRun := []
  /-- The operation that waited at the compute port when a save began: it is saved unstarted (11 R354). -/
  parked : Option Nat := none
  waitclk : Nat := 0
  ksteps : Nat := 0
  deriving DecidableEq, Repr

/-- The copy commands (12 R359). -/
inductive CopyKind
  | plain | shadow | tagged | infused
  deriving DecidableEq, Repr

/-- An accepted copy (12 R358–R361). -/
structure Copy where
  kind : CopyKind
  src : Nat
  srcSp : Bool
  dst : Nat
  /-- 0 global, 1 scratchpad, 2 expert store. -/
  space : Nat
  n : Nat
  /-- S(a+3): the shadow range, the slot tag or the code lengths. -/
  extra : Nat := 0
  /-- 0 none, 1 core semaphore, 2 cluster semaphore, 3 barrier; its kind and number. -/
  done : Nat := 0
  device : Bool := false
  num : Nat := 0
  /-- Arrival bitmap and first bit. -/
  arv : Option (Nat × Nat) := none
  /-- The read snapshot: start stamp, remote floor and the tile's own bytes at acceptance (02 R68). -/
  start : Nat := 0
  floor : Nat := 0
  own : SMap Byte := []
  pc : Nat := 0
  /-- Chunks that have landed. -/
  landed : List Nat := []
  /-- Shadow pages, the bytes put there, and leave to write them (02 R70); of a scratchpad copy onto itself, `bytes` is
  what it has overwritten of its source (12 R362). -/
  pages : List Nat := []
  bytes : SMap Byte := []
  released : Bool := true
  fault : Option (Code × Nat) := none
  hold : Option Hold := none
  refused : Option Hold := none
  deriving DecidableEq, Repr

/-- A core (05 R119, 09 R266, 10 R287, 11 R324). -/
structure Core where
  ctl : SeqState := {}
  ld : SeqState := {}
  cmp : SeqState := {}
  st : SeqState := {}
  s : SMap DWord := []
  p : BitVec 48 := 0
  h : SMap Word := []
  sem : SMap (BitVec 48) := []
  arv : SMap DWord := []
  /-- Twelve token counts, by the queue number of R163. -/
  tk : SMap Nat := []
  trap : TrapRegs := {}
  barSel : BitVec 7 := 0
  /-- Remote floor (02 R59, R63). -/
  rdcFloor : Nat := 0
  tile : Option Tile := none
  /-- TMPL of the last tile's nest where the tables still hold its image (06 R175), and its nest. -/
  tmplKept : Option Nat := none
  lastNid : Nat := 0
  /-- Scratchpad bytes, 0 where not listed (log 4). -/
  sp : SMap Byte := []
  spPoison : List Nat := []
  chunks : SMap Chunk := []
  windows : SMap Window := []
  q : SMap (List QEnt) := []
  lds : Streamer := {}
  sts : Streamer := {}
  shapeCache : List ShapeEnt := []
  shMiss : Nat := 0
  shHit : Nat := 0
  mqBound : Nat := 0x1B_7740
  mqWait : Nat := 0
  mqGrants : Nat := 0
  comp : Compute := {}
  v : SMap (List Byte) := []
  k : SMap QWord := []
  flags : BitVec 4 := 0
  vuA : Nat := 0
  vuB : Nat := 0
  vuF : Nat := 0
  ops : List EngOp := []
  mx : Matrix := {}
  copies : List Copy := []
  nextId : Nat := 0
  /-- The ring of a stream port, from one offset up to another, while the tile that reads it is saved; and the bytes of it
  that another tile has written since (16 R471). -/
  watch : Option (Nat × Nat) := none
  soiled : List Nat := []
  deriving DecidableEq, Repr

/-- An entry of a map unit (02 R40): a translation of one page. `level` is 3, 4 or 5. -/
structure TlbEnt where
  asid : Nat
  level : Nat
  vpn : Nat
  leaf : DWord
  deriving DecidableEq, Repr

/-- A line pinned by a near-atomic unit and the bytes it holds (02 R65), least recently used first in its list. -/
structure NearLine where
  /-- Physical line number (256-byte lines), and the region of the last atomic on it (02 R71). -/
  line : Nat
  region : Nat := 0
  bytes : SMap Byte
  deriving DecidableEq, Repr

/-- A barrier (05 R146). -/
structure Barrier where
  e : Nat := 0
  a : Nat := 0
  b : Nat := 0
  gen : Nat := 0
  deriving DecidableEq, Repr

/-! The fabric (13). -/

/-- A HANDLER message in an inbox (13 R389): its table index, payload, job. -/
structure HandlerMsg where
  hidx : Nat
  pay : List DWord
  job : Nat
  sent : Option Sent := none
  deriving DecidableEq, Repr

/-- A request on a gate set that waits for scoring to end (13 R392). -/
structure GateAsk where
  va : Nat
  region : Nat
  free : Bool
  deriving DecidableEq, Repr

/-- A gate set of a strainer (13 R391): state 0 empty, 1 loading, 2 ready, 3 failed; its place in the SRAM. -/
structure GateSet where
  run : Nat := 0
  ask : Option GateAsk := none
  layer : Nat := 0
  h : Nat := 0
  e : Nat := 0
  fmt : Nat := 0
  fn : Bool := false
  k : Nat := 0
  scale : Word := 0
  w : List Byte := []
  bias : List Byte := []
  reroute : List Nat := []
  /-- Where its descriptor was, and the region that loaded it. -/
  va : Nat := 0
  region : Nat := 0
  off : Nat := 0
  len : Nat := 0
  deriving DecidableEq, Repr

/-- An accepted DISP (13 R393). -/
structure Disp where
  core : Nat
  off : Nat
  n : Nat
  set : Nat
  rstride : Nat
  seqId : Nat
  first : Nat
  handle : DWord
  job : Nat
  /-- Address of the command, and the dispatch number of its tile. -/
  pc : Nat := 0
  tile : Nat := 0
  /-- Next token to score. -/
  next : Nat := 0
  deriving DecidableEq, Repr

/-- A cluster's fabric interface (13). -/
structure Fi where
  bad : Nat := 0
  inbox : List HandlerMsg := []
  /-- Inbox entries granted to other devices whose messages have not come (R389). -/
  promised : Nat := 0
  /-- The first inbox entry waits for a scheduler slot. -/
  inboxFull : Bool := false
  sets : SMap GateSet := []
  disps : List Disp := []
  /-- Jobs whose run of discards goes on (13 R400). -/
  lossRun : List Nat := []
  deriving DecidableEq, Repr

/-- A copy of a token on its way to a caddy (13 R394, 14 R411). -/
structure CopyMsg where
  key : Nat
  vec : List Byte
  token : Nat
  seqId : Nat
  weight : Word
  mask : Nat
  alt : DWord
  handle : DWord
  job : Nat
  srcDev : Nat
  srcCluster : Nat
  deriving DecidableEq, Repr

/-- A CMB message or a drop notice (13 R396, 14 R425): a notice carries no row. -/
structure CombMsg where
  handle : DWord
  weight : Word
  mask : Nat
  fy : Nat
  h : Nat
  row : Option (List Byte)
  rn : Bool := false
  job : Nat
  srcDev : Nat
  /-- Sending core; none for the caddy. -/
  srcCore : Option Nat
  /-- Its place among the messages that have come to this device (R380). -/
  at_ : Nat := 0
  deriving DecidableEq, Repr

/-- A job-table entry (13 R398) and its last wave result (R399, R402). -/
structure JobEntry where
  valid : Bool := false
  region : Nat := 0
  period : Nat := 0
  job : Nat := 0
  dev : SMap DWord := []
  /-- The clock from which the next period counts. -/
  since : Nat := 0
  quiet : Bool := false
  lossSeen : Bool := false
  number : Nat := 0
  i : Nat := 0
  c : Nat := 0
  l : Nat := 0
  deriving DecidableEq, Repr

/-- Message counts of a job at an interface (13 R385). -/
structure JobCount where
  inj : Nat := 0
  cons : Nat := 0
  lost : Nat := 0
  deriving DecidableEq, Repr

/-- A wave in progress (13 R399): which entry, when its first pass began, and that pass's sums. -/
structure Wave where
  entry : Nat
  began : Nat
  first : Option (Nat × Nat × Nat) := none
  /-- A device of the job could not be reached. -/
  cut : Bool := false
  deriving DecidableEq, Repr

/-- An entry of the handler table (13 R403). -/
structure HandlerEnt where
  v : Bool := false
  region : Nat := 0
  va : Nat := 0
  deriving DecidableEq, Repr

/-- A flit in a replay buffer (13 R381, R382). -/
structure Flit where
  seq : Nat
  bytes : List Byte
  resent : Nat := 0
  deriving DecidableEq, Repr

/-- A packet that a link has to send or has sent and not seen acknowledged whole (13 R381). -/
structure OutPkt where
  chan : Nat
  bytes : List Byte
  /-- Sequence number of its last flit, once it is in the replay buffer. -/
  last : Option Nat := none
  deriving DecidableEq, Repr

/-- A Shagean link (13 R381–R383): state 0 down, 1 training, 2 up. -/
structure Link where
  run : Nat := 0
  retries : Nat := 0
  resets : Nat := 0
  txSeq : Nat := 0
  replay : List Flit := []
  out : List OutPkt := []
  /-- The clock of the last progress in ACK. -/
  progress : Nat := 0
  rxNext : Nat := 0
  /-- Payload received of a packet not yet whole, by channel. -/
  rx : SMap (List Byte) := []
  /-- Whole packets received and not yet delivered: channel and bytes. -/
  pkts : List (Nat × List Byte) := []
  /-- The sequence number to which the far end is told to go back. -/
  nak : Option Nat := none
  /-- Whether the far end has still to say what it received before the reset. -/
  resync : Bool := false
  deriving DecidableEq, Repr

/-- A peer's memory request that waits to be performed (13 R384). -/
structure PeerIn where
  src : Nat
  tag : Nat
  link : Nat
  bytes : List Byte
  /-- The clock since which a pinned line has refused it (02 R66). -/
  since : Option Nat := none
  deriving DecidableEq, Repr

/-- The fabric beyond the clusters' interfaces (13 R403). -/
structure Fabric where
  hsel : Nat := 0
  hent : SMap HandlerEnt := []
  jsel : Nat := 0
  jobs : SMap JobEntry := []
  /-- Counts at key 32 × entry + interface: 0–15 clusters, 16–23 links. -/
  counts : SMap JobCount := []
  waves : List Wave := []
  linken : Nat := 0
  rsel : Nat := 0
  routes : SMap Nat := []
  wsel : Nat := 0
  wbase : SMap DWord := []
  wlim : SMap DWord := []
  links : SMap Link := []
  retryMax : Nat := 0x10
  resetClk : Nat := 0x1B_7740
  combs : List CombMsg := []
  /-- Messages that have come to this device so far (R380). -/
  arrived : Nat := 0
  /-- Nests that run a handler message: NID, cluster, job (R389). -/
  handlers : List (Nat × Nat × Nat) := []
  peerIn : List PeerIn := []
  peerAnswers : List PeerIn := []
  /-- Requests performed: source, TAG and the answer sent (R384). -/
  peerDone : List (Nat × Nat × List Byte) := []
  /-- Lines whose request was refused, for whoever tries them next (R384). -/
  peerFails : List (Nat × Code) := []
  deriving DecidableEq, Repr

/-! The caddy (14). -/

/-- A copy of an expert (14 R408): state 0 absent, 1 fetching, 2 resident, 3 evicting since a clock (R420). -/
structure ExpertCopy where
  run : Nat := 0
  since : Nat := 0
  region : Nat := 0
  slice : Nat := 0
  /-- First extent and number of extents, once allocated (R415). -/
  ext : Nat := 0
  n : Nat := 0
  pins : Nat := 0
  /-- Fetched by the steeper and not yet used by a tile (R432). -/
  ahead : Bool := false
  deriving DecidableEq, Repr

/-- A page of a translation that the caddy holds (14 R418): its address space, virtual base, log2 of its size, and
location. -/
structure HeldPage where
  asid : Nat
  va : Nat
  log : Nat
  loc : Nat
  deriving DecidableEq, Repr

/-- An entry of the tag store (14 R407, R408). -/
structure TagEnt where
  key : Nat
  dram : DWord := 0
  lba : DWord := 0
  nsid : Nat := 0
  flash : Word := 0
  sub : Nat := 0
  nrep : Nat := 0
  reps : List Nat := []
  imgb : Nat := 0
  prim : ExpertCopy := {}
  sec : ExpertCopy := {}
  lastUse : Nat := 0
  uses : Nat := 0
  mapd : Bool := false
  held : List HeldPage := []
  badd : Bool := false
  badf : Bool := false
  /-- The clocks at which the waiting slots of its saucer became full, oldest first (R422, R427). -/
  times : List Nat := []
  /-- The clock from which the absence policy counts again (R427). -/
  acted : Option Nat := none
  /-- A tile decision for its saucer waits for a pin to be released (R419): on which copy, with which HOW, and whether only
  for slots moved here. -/
  stuck : Option (Nat × Bool × Nat × Bool) := none
  /-- The absence policy has acted since its primary copy has no source (R427). -/
  lost : Bool := false
  deriving DecidableEq, Repr

/-- A loaded layer (14 R409), with the nest records it keeps. -/
structure Layer where
  region : Nat
  lcl : Nat
  pp : Nat
  sp : Nat
  vf : Nat
  e : Nat
  slices : Nat
  flush : Nat
  recP : List Byte
  recS : List Byte
  sbase : Nat
  tgbase : Nat
  slots : Nat
  slotb : Nat
  h : Nat
  nxSet : Nat
  nxCluster : Nat
  nxv : Bool
  deriving DecidableEq, Repr

/-- An NVMe Read that a flash port has outstanding (14 R431). -/
structure NvmeCmd where
  off : Nat
  len : Nat
  since : Nat
  deriving DecidableEq, Repr

/-- A fetch (14 R414–R417). -/
structure Fetch where
  tag : Nat
  sec : Bool
  /-- The format asked for, and the layer's region. -/
  fmt : Nat := 0
  region : Nat := 0
  steeper : Bool := false
  started : Bool := false
  flash : Bool := false
  cmds : List NvmeCmd := []
  data : SMap (List Byte) := []
  /-- 4 KiB pieces of the image that have landed (R413, R416). -/
  landed : SMap (List Byte) := []
  failed : Bool := false
  deriving DecidableEq, Repr

/-- A tile that the caddy has decided (14 R423, R424). -/
structure ExpertTile where
  /-- The saucer's tag, and the copy's tag and format. -/
  saucer : Nat
  tag : Nat
  sec : Bool
  slice : Nat
  first : Nat
  count : Nat
  /-- Its nest record; its NID once it has been enqueued. -/
  record : List Byte
  nid : Option Nat := none
  /-- It has retired: whether it committed. -/
  gone : Option Bool := none
  deriving DecidableEq, Repr

/-- The caddy, the steeper and the flash ports (14). -/
structure Caddy where
  counter : Nat := 0
  /-- Entries by index: 16 × set + way. -/
  tags : SMap TagEnt := []
  /-- Layers by key bits [33:12]. -/
  layers : SMap Layer := []
  arrivals : List CopyMsg := []
  tiles : List ExpertTile := []
  fetches : List Fetch := []
  /-- The token that the steeper scores: its layer and vector. -/
  steep : Option (Nat × List Byte) := none
  fetchFlash : Nat := 0
  fetchDram : Nat := 0
  drops : Nat := 0
  subs : Nat := 0
  steepUsed : Nat := 0
  hints : Nat := 0
  xssel : Nat := 0
  stage : SMap DWord := []
  errors : SMap Nat := []
  link : SMap Nat := []
  deriving DecidableEq, Repr

/-! The sequence engine (15). -/

/-- A context of the sequence engine (15 R439–R443). -/
structure SqCtx where
  isOpen : Bool := false
  inc : Nat := 0
  region : Nat := 0
  maxpos : Nat := 0
  nlayer : Nat := 0
  nsnap : Nat := 0
  kvb : Nat := 0
  rsb : Nat := 0
  w : Nat := 0
  m : Nat := 0
  tokens : Nat := 0
  pool : Nat := 0
  snaps : Nat := 0
  stags : Nat := 0
  live : Nat := 0
  init : Nat := 0
  tree : Nat := 0
  /-- CAP of its page pool, as it was when it was opened (R442). -/
  cap : Nat := 0
  /-- BASE of each layer and whether it is a sliding window (R441). -/
  layers : List (Nat × Bool) := []
  g : Nat := 0
  s : Nat := 0
  p : Nat := 0
  kvend : Nat := 0
  gen : Nat := 0
  hw : Nat := 0
  wbase : Nat := 0
  /-- Positions that valid snapshot tags hold, by ring entry. -/
  tags : SMap Nat := []
  /-- Page numbers allocated (R442). -/
  pages : SMap Bool := []
  /-- Parents of the tree's nodes (R456). -/
  parents : List Nat := []
  deriving DecidableEq, Repr

/-- The sequence engine (15 R439, R463). -/
structure SeqEngine where
  ctxs : SMap SqCtx := []
  sel : Nat := 0
  commands : Nat := 0
  frames : Nat := 0
  stale : Nat := 0
  late : Nat := 0
  deriving DecidableEq, Repr

/-! The stream ports (16). -/

/-- A stream port (16 R465–R482). -/
structure Port where
  /-- PT_CFG, PT_RING, PT_TAGS, PT_SEQ, PT_ADDR, PT_PEER (R482). -/
  cfg : DWord := 0
  ring : DWord := 0
  tags : DWord := 0
  e0 : DWord := 0
  addr : DWord := 0
  peer : DWord := 0
  cfgErr : Bool := false
  /-- Link: 0 down, 1 training, 2 up. -/
  link : Nat := 0
  deliv : Nat := 0
  head : Nat := 0
  lastSeq : Nat := 0
  noslot : Nat := 0
  bad : Nat := 0
  /-- A line has been dropped for want of a slot since the last delivery. -/
  pend : Bool := false
  /-- The whisk's configuration and tables; none before the first load (R475). -/
  cells : Option (List (DWord × DWord)) := none
  t0 : List Byte := []
  t1 : List Byte := []
  /-- What is held for the tile that starts next (01 R516). -/
  heldSem : Nat := 0
  heldArv : DWord := 0
  /-- The advertisement of an enable has still to be sent (R471). -/
  owed : Bool := false
  /-- The clock from which the advertisement period counts. -/
  advSince : Nat := 0
  /-- Advertisement frames sent, oldest first. -/
  sent : List (List Byte) := []
  deriving DecidableEq, Repr

/-! The host link (17). -/

/-- A submission entry that has been taken and whose completion has not been written (17 R489–R493). -/
structure RingOp where
  /-- Its number. -/
  n : Nat
  entry : List Byte
  /-- The bytes that it writes, once it has started, and whether the tag of a COPYIN matched (R495). -/
  data : List Byte := []
  tagOk : Bool := true
  /-- Locations of the destination sectors, and those written. -/
  places : List Nat := []
  landed : List Nat := []
  /-- Status and RESULT, once it has completed. -/
  result : Option (Nat × Nat) := none
  deriving DecidableEq, Repr

/-- A submission ring (17 R489, R503). -/
structure Ring where
  en : Bool := false
  region : Nat := 0
  logn : Nat := 0
  rbase : DWord := 0
  cbase : DWord := 0
  head : Nat := 0
  tail : Nat := 0
  /-- Entries taken, oldest first. -/
  ops : List RingOp := []
  /-- Status of the last completion written. -/
  last : Nat := 0
  deriving DecidableEq, Repr

/-- A copy-in key slot (17 R494). -/
structure KeySlot where
  full : Bool := false
  key : BitVec 256 := 0
  salt : Word := 0
  region : Nat := 0
  last : Nat := 0
  deriving DecidableEq, Repr

/-- States of the TDI (17 R487). -/
inductive Tdi
  | unlocked | locked | run | error
  deriving DecidableEq, Repr

/-- The host link (17 R484–R503). -/
structure HostLink where
  badDb : Nat := 0
  cfgErr : Bool := false
  tdi : Tdi := .unlocked
  /-- 0 down, 1 training, 2 up. -/
  link : Nat := 0
  facc0 : DWord := 0
  facc1 : DWord := 0
  /-- The accepted features are fixed (R488). -/
  fixed : Bool := false
  /-- AtomicOp Requester Enable of the configuration space. -/
  atomReq : Bool := false
  rsel : Nat := 0
  rings : SMap Ring := []
  keys : SMap KeySlot := []
  /-- HL_AP.BASE. -/
  ap : Nat := 0
  temp : Nat := 0
  tripped : Bool := false
  /-- THERMTRIP_N is asserted (R501). -/
  thermtrip : Bool := false
  trip : Nat := 0x1B8
  /-- Consecutive readings of each sensor at or above TRIP. -/
  hot : SMap Nat := []
  bootErr : Nat := 0
  bootState : Nat := 0
  bootLen : Nat := 0
  /-- The staging window (R497). -/
  staging : SMap Byte := []
  /-- q of this boot, whether there is an identity, SVN and digest of the running image, reports signed (R499, R500). -/
  q : Nat := 0
  svn : Nat := 0
  digest : List Byte := []
  reports : Nat := 0
  hatom : Nat := 0x1B_7740
  /-- MSI-X vectors signalled, oldest first (R485). -/
  irqs : List Nat := []
  /-- What the last host read returned. -/
  answer : List Byte := []
  deriving DecidableEq, Repr

/-! The samovar as a processor (18 R504–R506). -/

/-- The samovar's registers and tightly coupled memories. -/
structure Riscv where
  /-- It runs firmware, from the jump to the image's entry on (17 R498). -/
  on : Bool := false
  pc : DWord := 0
  x : SMap DWord := []
  itcm : SMap Byte := []
  dtcm : SMap Byte := []
  /-- The reservation of LR: its address, and the publish counter and the writes without a stamp then. -/
  resv : Option (Nat × Nat × Nat) := none
  mie : Bool := false
  mpie : Bool := false
  meie : Bool := false
  msie : Bool := false
  mtie : Bool := false
  mtvec : DWord := 0
  mscratch : DWord := 0
  mepc : DWord := 0
  mcause : DWord := 0
  mtval : DWord := 0
  /-- mcountinhibit: bit 0 CY, bit 2 IR. -/
  inhibit : BitVec 3 := 0
  /-- mcycle as it was at clock `cycleAt`. -/
  mcycle : DWord := 0
  cycleAt : Nat := 0
  minstret : DWord := 0
  /-- It waits for an interrupt (WFI). -/
  waiting : Bool := false
  deriving DecidableEq, Repr

/-- A cluster (01 R14). -/
structure Cluster where
  /-- The first-level and the second-level TLB (02 R40), and the fills so far (log 18). -/
  tlb1 : List TlbEnt := []
  tlb2 : List TlbEnt := []
  tlbFills : Nat := 0
  muSplit : Nat := 0
  muFaultVa : Nat := 0
  near : List NearLine := []
  xsem : SMap (BitVec 48) := []
  bar : SMap Barrier := []
  ceBytes : Nat := 0
  ceBad : Nat := 0
  ceBlocks : Nat := 0
  fi : Fi := {}
  deriving DecidableEq, Repr

/-- Bytes that a commit at `stamp` superseded (02 R60). -/
structure Superseded where
  stamp : Nat
  old : SMap Byte
  deriving DecidableEq, Repr

/-- An exchange of two 64 KiB pages at `stamp` (02 R69): the address space, the virtual pages whose leaves changed, and
the local physical pages that they named. -/
structure Swapped where
  stamp : Nat
  asid : Nat
  dst : Nat
  shadow : Nat
  a : Nat
  b : Nat
  deriving DecidableEq, Repr

/-- A line of the remote-data cache and the stamp it was filled at (02 R59). -/
structure RdcLine where
  /-- Location of its first byte. -/
  loc : Nat
  stamp : Nat
  bytes : List Byte
  deriving DecidableEq, Repr

/-- A page that is being flipped to the device or to the host (02 R38, R39). -/
structure Flip where
  asid : Nat
  va : Nat
  since : Nat
  /-- The host has declined it (R38). -/
  declined : Bool := false
  deriving DecidableEq, Repr

/-- An L2 lease (12 R370): the lines it pins as physical line numbers, when it was accepted, its life in units of
16,384 clocks. -/
structure Lease where
  region : Nat
  handle : Nat
  lines : List Nat
  since : Nat
  life : Nat
  deriving DecidableEq, Repr

/-- Memory beyond the cores (02). -/
structure Memory where
  /-- Committed bytes of the device's LPDDR6 by physical address; a byte not listed reads as 0 (log 4). -/
  mem : List Host.Cell := []
  /-- Bytes homed on the host and on peers, by location. -/
  remote : SMap Byte := []
  /-- Expert store bytes (02 R50). -/
  xs : SMap Byte := []
  /-- Poisoned sectors: local ones by sector number, expert-store ones apart (02 R71). -/
  poison : List Nat := []
  /-- Sectors whose poison was cleared at a stamp: phases that started before it still find them poisoned (17 R495). -/
  pastPoison : List (Nat × List Nat) := []
  xsPoison : List Nat := []
  /-- Last writer region of each dirty sector (02 R71). -/
  writer : SMap Nat := []
  /-- Newest first. -/
  history : List Superseded := []
  swaps : List Swapped := []
  rdc : List RdcLine := []
  /-- Fills of the remote-data cache so far (log 18). -/
  rdcFills : Nat := 0
  pubCount : Nat := 0
  /-- Writes so far that took no stamp: with the stamps, what a reservation of the samovar watches (18 R504). -/
  unstamped : Nat := 0
  ovfSize : Nat := 0
  ovfBase : Nat := 0
  pressDeadline : Nat := 0x1_86A0
  highPct : Nat := 0x4B
  flipLimit : Nat := 0x1B_7740
  scopeHold : Nat := 0x1_0000
  /-- Flips toward the device that have been requested (R38). -/
  flips : List Flip := []
  /-- Pages marked flip-pending toward the host (R39). -/
  hostFlips : List Flip := []
  /-- Pages that hold an unexchanged shadow (12 R368), by physical page number. -/
  shadows : List Nat := []
  leases : List Lease := []
  deriving DecidableEq, Repr

/-- Whether a nest still dispatches (06 R177, R185, R201). -/
inductive NestRun
  | active | stopping | flushed | done
  deriving DecidableEq, Repr

/-- A slot of the scheduler's table (06 R176–R181). -/
structure NestSlot where
  inc : Nat := 0
  used : Bool := false
  nrec : NestRec := {}
  run : NestRun := .active
  /-- Commit frontier F and the ordinals at or above it that are committed. -/
  f : Nat := 0
  window : List Nat := []
  /-- Next ordinal to dispatch, and ordinals to dispatch again. -/
  next : Nat := 0
  again : List Nat := []
  effPrio : Nat := 0
  /-- The clock from which aging counts, and the clock of the last dispatch or change of state. -/
  ageSince : Nat := 0
  waitSince : Nat := 0
  /-- The state shown when waitSince was set. -/
  lastState : Nat := 0
  /-- The record that a NESTF waits for is being flushed with FREE. -/
  freeing : Bool := false
  /-- What the nest runs for another unit: 0 none, 1 a handler message, 2 an expert tile (13 R386, 14 R424). -/
  owner : Nat := 0
  deriving DecidableEq, Repr

/-- A saved tile (06 R191–R198). -/
structure Saved where
  kind : SaveKind
  /-- Save-pool base and slot number. -/
  base : Nat
  slot : Nat
  nid : Nat
  ord : Nat
  core : Core
  /-- The core it was saved from (16 R470). -/
  home : Nat := 0
  press : Option Nat := none
  /-- Scratchpad chunks whose bytes the save slot keeps (R192). -/
  kept : List Nat := []
  deriving DecidableEq, Repr

/-- What a fault record says (06 R170). -/
structure Record where
  code : Nat
  seq : Nat := 0xFF
  region : Nat
  nid : Nat := 0
  core : Nat := 0xFFFF
  tile : Nat := 0xFFFF_FFFF
  va : Nat := 0
  pc : Nat := 0
  deriving DecidableEq, Repr

/-- What the scheduler does next at a fault queue (06 R170, R171): write a record, after which `handler` says whether the
handler nest is enqueued; enqueue that nest with ARG0; count an enqueue that failed. -/
inductive FqTodo
  | record (rec_ : Record) (handler : Bool)
  | handler (arg : Nat)
  | noHandler
  deriving DecidableEq, Repr

/-- It, with the region whose queue it is. -/
structure FqJob where
  r : Region
  todo : FqTodo
  deriving DecidableEq, Repr

/-- The nest scheduler (06). -/
structure Sched where
  age : Nat := 0x4650
  en : Bool := false
  rbase : Nat := 0
  regions : SMap RegionBlock := []
  slots : SMap NestSlot := []
  lastServed : Nat := 255
  saved : List Saved := []
  forced : Nat := 0
  coop : Nat := 0
  fqLost : Nat := 0
  nextVer : Nat := 0
  dispatches : Nat := 0
  /-- Records and handler nests that wait for a page or a peer (02 R38, R51, R517), oldest first. -/
  jobs : List FqJob := []
  deriving DecidableEq, Repr

/-- The samovar: its registers toward the device (18 R507–R512). -/
structure Samovar where
  ipend : BitVec 5 := 0
  ien : BitVec 5 := 0
  ndone : List Nat := []
  /-- Nests whose notice waits for room in SV_NDONE (R508). -/
  owed : List Nat := []
  /-- Flip requests: ASID and page address. -/
  flip : List (Nat × Nat) := []
  nqReg : Nat := 0
  nqRes : DWord := 0
  s2hFull : Bool := false
  h2sFull : Bool := false
  s2h : SMap DWord := []
  h2s : SMap DWord := []
  claim : Bool := false
  wdraw : Bool := false
  /-- Pages whose flip to the host has been acknowledged to it, oldest first (02 R39). -/
  acks : List (Nat × Nat) := []
  atomSeq : Nat := 0
  deriving DecidableEq, Repr

/-- An atomic that has gone to the host (05 R138, 17 R496). -/
structure HostAtom where
  core : Nat
  sq : Seq
  op : AtomOp
  /-- Operand bytes: 4 or 8. -/
  size : Nat
  loc : Nat
  v : Nat
  w : Nat
  /-- Performed by the driver through the mailbox (R138). -/
  fallback : Bool
  /-- The SEQ of its request, once that stands in the mailbox (R496, 18 R511). -/
  seq : Option Nat := none
  since : Nat
  /-- Its instruction still waits for the answer: the tile has not ended. -/
  live : Bool := true
  deriving DecidableEq, Repr

/-- On whose account a peer's memory is written (02 R55): region, NID, ordinal and core of the tile. -/
structure OnTile where
  region : Nat
  nid : Nat
  ord : Nat
  core : Nat
  deriving DecidableEq, Repr

/-- What a peer is asked to do (02 R51, 13 R384). -/
inductive PeerKind
  | read
  | write (data : List Byte)
  | atomic (op : AtomOp) (size v w : Nat)
  deriving DecidableEq, Repr

/-- A request to a peer. -/
structure PeerAsk where
  loc : Nat
  tag : Nat
  kind : PeerKind := .read
  who : Option (Nat × Seq) := none
  tile : Option OnTile := none
  deriving DecidableEq, Repr


/-- Where an uncorrectable error strikes clean data (02 R71): a sector of local memory, of the expert store, or of a
core's scratchpad. -/
inductive ErrorPlace
  | memory (sector : Nat)
  | expert (sector : Nat)
  | scratch (core sector : Nat)
  deriving DecidableEq, Repr

/-- What the environment lets happen next: a sequencer's turn, an event with its argument, or clocks passing. -/
inductive Choice
  | turn (core : Nat) (sq : Seq)
  | event (i : Instr) (arg : EvArg)
  | ticks (n : Nat)
  /-- The host writes its own memory from a bus address. -/
  | hostWrite (a : Nat) (l : List Byte)
  /-- The host reads doubleword `i` of BAR 0; `bound` says that it does so on the bound stream (17 R485, R487, 18 R512). -/
  | hostRead (i : Nat) (bound : Bool)
  /-- The host writes the function's configuration space: AtomicOp Requester Enable, and whether a BAR or Memory Space
  Enable changes (17 R487, R488). -/
  | hostConfig (atomReq bars : Bool)
  /-- A fault of the host on a page reaches the samovar (02 R39). -/
  | hostFault (asid va : Nat)
  /-- Clean data has become uncorrectable (02 R71). -/
  | softError (p : ErrorPlace)
  deriving DecidableEq, Repr

/-- The state of the device. -/
structure State where
  /-- Clocks since device reset (05 R162 CYCLE). -/
  cycle : Nat := 0
  /-- The sequencer whose turn it is when the agenda is empty (log 1). -/
  core : Nat := 0
  sq : Seq := .ctl
  /-- The guard field of the word being executed (08 R263). -/
  guard : BitVec 6 := 0
  /-- The argument of the event being taken (log 1). -/
  ev : EvArg := {}
  /-- Choices the environment has still to make, first one first (log 1). -/
  agenda : List Choice := []
  /-- Counter of the free values drawn so far (log 2). -/
  drawn : Nat := 0
  cores : SMap Core := []
  clusters : SMap Cluster := []
  m : Memory := {}
  ns : Sched := {}
  /-- Device barriers (05 R146). -/
  dbar : SMap Barrier := []
  /-- Device id in the Shagean fabric (05 R162, 13 R403). -/
  devId : Nat := 0
  sv : Samovar := {}
  hostAtoms : List HostAtom := []
  peerAsks : List PeerAsk := []
  nextTag : Nat := 0
  fab : Fabric := {}
  cd : Caddy := {}
  eng : SeqEngine := {}
  /-- The four stream ports (16). -/
  ports : SMap Port := []
  hl : HostLink := {}
  rv : Riscv := {}
  /-- The fuse-backed boot counter, which no reset changes (17 R499). -/
  fuseQ : Nat := 0
  /-- Stopped by a thermal trip or a loss of power: only a cold reset recovers (17 R499, R501). -/
  off : Bool := false
  deriving DecidableEq, Repr

/-- The machine right after device reset: every core idle, dispatch disabled, memory with nothing listed. -/
def State.reset : State := {}

end Sys2Proof.Machine
end

