-- ==== Sys2Proof/Machine/Act.lean ====
section
/-! DEFINITION. How a step is written: an action over the state that ends early with a trap, a wait or a stop, and the
accessors of cores, clusters and sequencers. -/

namespace Sys2Proof.Machine

/-- Why an action ends early. The state that goes with it is the one the step leaves. -/
inductive Stop
  /-- A class-T condition with its TRAP_VA (01 R29, 05 R162). -/
  | trap (c : Code) (va : Nat)
  /-- The sequencer waits and tries again. -/
  | wait (w : Wait)
  /-- The page is owned by the host: the access is held for a flip (02 R38). -/
  | held (asid page va : Nat)
  /-- A pinned line refuses the access (02 R66). -/
  | refused (va : Nat)
  /-- A line homed on a peer is needed (02 R51). -/
  | peer (loc : Nat)
  | fault (f : Fault)
  | refuse (r : Refusal)
  deriving DecidableEq, Repr

/-- An action over the device. -/
abbrev Act (α : Type) := EStateM Stop State α

/-- Stop with a trap. -/
def trap {α : Type} (c : Code) (va : Nat := 0) : Act α := throw (.trap c va)

/-- Stop with a trap if a condition holds. -/
def trapIf (b : Bool) (c : Code) (va : Nat := 0) : Act Unit := if b then trap c va else pure ()

/-- Wait, leaving the state as it is now. -/
def waitFor {α : Type} (w : Wait) : Act α := throw (.wait w)

/-- The 8-bit code of a fault or event (01 R29). -/
def Code.num : Code → Nat
  | .illegalOpcode => 0x01 | .reservedField => 0x02 | .emptyTemplate => 0x03 | .patchRange => 0x04
  | .privilege => 0x05 | .trapInsn => 0x06 | .qUnderflow => 0x08 | .qOverflow => 0x09 | .tokenOverflow => 0x0A
  | .semOverflow => 0x0B | .align => 0x0C | .xlateNotPresent => 0x10 | .xlatePermission => 0x11 | .hostOwned => 0x12
  | .shapeBounds => 0x13 | .scratchRange => 0x14 | .mqFullTimeout => 0x15 | .phaseOverflow => 0x18
  | .snapshotExpired => 0x19 | .scopeRefusalTimeout => 0x1A | .hostAtomicUnsupported => 0x1B
  | .uncorrectableData => 0x20 | .poisonConsumed => 0x21 | .yieldDeadline => 0x28 | .watchdog => 0x29
  | .saveBound => 0x2A | .lateFrame => 0x30 | .windowMargin => 0x31 | .expertAbsent => 0x38 | .expertImageBad => 0x39
  | .msgLoss => 0x40 | .portOverrun => 0x41 | .cryptoTagFail => 0x48 | .tdispState => 0x49 | .relocRange => 0x4A

/-- The number of a sequencer (04 R96). -/
def seqNum : Seq → Nat
  | .ctl => 0 | .ld => 1 | .cmp => 2 | .st => 3

/-- The sequencer of a number. -/
def seqOf (n : Nat) : Seq :=
  match n with
  | 0 => .ctl | 1 => .ld | 2 => .cmp | _ => .st

/-- The four sequencers in ascending number. -/
def allSeqs : List Seq := [.ctl, .ld, .cmp, .st]

/-- A core by number. -/
def State.coreOf (s : State) (c : Nat) : Core := SMap.get {} s.cores c

/-- Replace a core. -/
def State.setCore (s : State) (c : Nat) (k : Core) : State := { s with cores := SMap.put s.cores c k }

/-- Change a core. -/
def State.updCore (s : State) (c : Nat) (f : Core → Core) : State := s.setCore c (f (s.coreOf c))

/-- The cluster of a core (05 R162 CORE_ID). -/
def clusterOf (c : Nat) : Nat := c / Config.coresPerCluster

/-- A cluster by number. -/
def State.clusterAt (s : State) (n : Nat) : Cluster := SMap.get {} s.clusters n

/-- Change a cluster. -/
def State.updCluster (s : State) (n : Nat) (f : Cluster → Cluster) : State :=
  { s with clusters := SMap.put s.clusters n (f (s.clusterAt n)) }

/-- A sequencer of a core. -/
def Core.seq (k : Core) : Seq → SeqState
  | .ctl => k.ctl | .ld => k.ld | .cmp => k.cmp | .st => k.st

/-- Replace a sequencer of a core. -/
def Core.setSeq (k : Core) (q : Seq) (x : SeqState) : Core :=
  match q with
  | .ctl => { k with ctl := x } | .ld => { k with ld := x } | .cmp => { k with cmp := x } | .st => { k with st := x }

/-- Change a sequencer of a core. -/
def Core.updSeq (k : Core) (q : Seq) (f : SeqState → SeqState) : Core := k.setSeq q (f (k.seq q))

/-- Change a sequencer. -/
def State.updSeq (s : State) (c : Nat) (q : Seq) (f : SeqState → SeqState) : State :=
  s.updCore c fun k => k.updSeq q f

/-- Read the core whose turn it is. -/
def thisCore : Act Core := do
  let s ← get
  return s.coreOf s.core

/-- Change the core whose turn it is. -/
def modCore (f : Core → Core) : Act Unit := modify fun s => s.updCore s.core f

/-- Change a core. -/
def modCoreAt (c : Nat) (f : Core → Core) : Act Unit := modify fun s => s.updCore c f

/-- Change the memory. -/
def modMem (f : Memory → Memory) : Act Unit := modify fun s => { s with m := f s.m }

/-- A core's number, cluster and tile; without a tile the sequencer cannot be running, and it waits. -/
def tileOf (c : Nat) : Act Tile := do
  let s ← get
  match (s.coreOf c).tile with
  | some t => return t
  | none => waitFor .memory

/-- Change a core's tile, if it holds one. -/
def modTile (c : Nat) (f : Tile → Tile) : Act Unit := modCoreAt c fun k => { k with tile := k.tile.map f }

/-- A free byte (log 2). -/
def drawByte : Act Byte := do
  let s ← get
  set { s with drawn := s.drawn + 1 }
  return Config.freeByte s.drawn

/-- A free doubleword (log 2). -/
def drawDWord : Act DWord := do
  let s ← get
  set { s with drawn := s.drawn + 1 }
  return Config.freeDWord s.drawn

/-- The order of stops: traps by their codes; a hold by the code it may end with; other waits last (01 R31). -/
def Stop.rank : Stop → Nat
  | .trap c _ => c.num
  | .held _ _ _ => Code.hostOwned.num
  | .refused _ => Code.scopeRefusalTimeout.num
  | .fault _ => 0
  | .refuse _ => 0
  | .peer _ => 0x100
  | .wait _ => 0x100

/-- Among the parts of an instruction that stopped: the lowest code at the first part, else a wait (01 R31, 07 R211). -/
def worst : List (Nat × Stop) → Option (Nat × Stop)
  | [] => none
  | (l, e) :: r =>
    match worst r with
    | some x => if x.2.rank < e.rank then some x else some (l, e)
    | none => some (l, e)

/-- Run actions one after another over a list. -/
def each {α : Type} : List α → (α → Act Unit) → Act Unit
  | [], _ => pure ()
  | a :: r, f => do
    f a
    each r f

/-- Collect the results of an action over a list. -/
def collect {α β : Type} : List α → (α → Act β) → Act (List β)
  | [], _ => pure []
  | a :: r, f => do
    let b ← f a
    let l ← collect r f
    return b :: l

/-- Run an action; where it stops, keep the state it left and answer why. -/
def attempt {α : Type} (a : Act α) : Act (Except Stop α) := fun s =>
  match a s with
  | .ok v t => .ok (.ok v) t
  | .error e t => .ok (.error e) t

/-- Run an action; where it stops, undo it and answer why. -/
def attemptUndo {α : Type} (a : Act α) : Act (Except Stop α) := fun s =>
  match a s with
  | .ok v t => .ok (.ok v) t
  | .error e _ => .ok (.error e) s

/-- Run an action for every element; where some stop, the others have run and the worst stop is thrown (01 R31). -/
def eachWorst {α : Type} (l : List α) (f : α → Act Unit) : Act Unit := do
  let r ← collect l.zipIdx fun x => do
    match ← attempt (f x.1) with
    | .ok _ => return none
    | .error e => return some (x.2, e)
  match worst (r.filterMap id) with
  | some x => throw x.2
  | none => pure ()

end Sys2Proof.Machine
end

