-- ==== Sys2Proof/Machine/Legal.lean ====
section
/-! DEFINITION. The decode checks of plain words: reserved fields, register classes, selector-dependent fields and
predicate write sets (04 R96, R97 and each instruction's chapter). A word that fails one traps RESERVED_FIELD. -/

namespace Sys2Proof.Machine

/-- A predicate number (R96). -/
def pred (p : BitVec 6) : Bool := decide (p.toNat < 48)

/-- A predicate that CTL writes (R96). -/
def ctlPred (p : BitVec 6) : Bool := decide (1 ≤ p.toNat ∧ p.toNat ≤ 23)

/-- A predicate that LD or ST writes (R96, 07 R225). -/
def indexPred (q : Seq) (p : BitVec 6) : Bool :=
  match q with
  | .ld => decide (40 ≤ p.toNat ∧ p.toNat ≤ 43)
  | .st => decide (44 ≤ p.toNat ∧ p.toNat ≤ 47)
  | _ => false

/-- Row bytes of LDT and STT: 32 to 512, a multiple of 32 (07 R217). -/
def rowOk (n : Nat) : Bool := decide (32 ≤ n ∧ n ≤ 512 ∧ n % 32 = 0)

/-- FY of CMB (13 R396). -/
def combFy (f : Nat) : Bool := f = 0x9 || f = 0xB || f = 0xC || f = 0xD

/-- Item and interface of QREAD (13 R402). -/
def qreadOk (item ifc : Nat) : Bool :=
  if item < 3 then decide (ifc < 24) || ifc = 31 else decide (item < 7) && ifc = 31

/-- The fields of a copy command (12 R359, R360). -/
def cpyOk (o : Cmd) : Bool :=
  let done := (bits o.f8 4 2).toNat
  let arv := bits o.f8 6 1 = 1
  let num := (bits o.imm 0 6).toNat
  o.d = 0 && bits o.f8 7 1 = 0 && bits o.f8 2 2 ≠ 3 && bits o.f8 1 1 = 0 && bits o.imm 18 6 = 0 && bits o.imm 11 1 = 0 &&
  bits o.imm 7 1 = 0 && (!arv || bits o.f8 2 2 = 1) && (arv || bits o.imm 8 10 = 0) &&
  (match done with
   | 0 => bits o.imm 0 7 = 0
   | 1 => bits o.imm 6 1 = 0 && decide (num < 32)
   | 2 => bits o.imm 6 1 = 0
   | _ => bits o.imm 6 1 = 1 || decide (num < 16))

/-- The operand fields of ATOMV by form (08 R247). -/
def atomvOk (o : RL4) : Bool :=
  if bits o.hi 3 1 = 1 then o.d = 0 && decide (o.a.toNat < 16) && bits o.ext 8 1 = 0 && bits o.ext 0 4 = 0
  else if bits o.ext 8 1 = 1 then decide (o.d.toNat < 16) && decide (o.a.toNat < 16)
  else o.d = 0 && decide (o.a.toNat < 16)

/-- The decode checks of a row executed by sequencer `q`; rows with no operand field always pass. Choices where the chapters
are silent (log 55): PREF takes the box dimensions of LDQ, 0 to 12; TKWAIT and TKPOST may not name the sequencer itself;
that a system register number is unassigned is found at execution. -/
def fieldsOk (q : Seq) : Instr → Bool
  | .add _ => true
  | .sub _ => true
  | .min _ => true
  | .max _ => true
  | .minu _ => true
  | .maxu _ => true
  | .and _ => true
  | .or _ => true
  | .xor _ => true
  | .andn _ => true
  | .shl _ => true
  | .shr _ => true
  | .sar _ => true
  | .ror _ => true
  | .mul _ => true
  | .mulh _ => true
  | .mulhu _ => true
  | .div _ => true
  | .divu _ => true
  | .rem _ => true
  | .remu _ => true
  | .addi _ => true
  | .andi _ => true
  | .ori _ => true
  | .xori _ => true
  | .shli o => o.imm.toNat < 64
  | .shri o => o.imm.toNat < 64
  | .sari o => o.imm.toNat < 64
  | .li o => o.a = 0 && o.f8 = 0
  | .lih o => o.f8 = 0
  | .clz o => o.b = 0
  | .ctz o => o.b = 0
  | .popc o => o.b = 0
  | .bfx o => o.f8 = 0 && bits o.ext 6 2 = 0 && bits o.ext 14 18 = 0 && (bits o.ext 0 6).toNat + (bits o.ext 8 6).toNat + 1 ≤ 64
  | .bfxu o => o.f8 = 0 && bits o.ext 6 2 = 0 && bits o.ext 14 18 = 0 && (bits o.ext 0 6).toNat + (bits o.ext 8 6).toNat + 1 ≤ 64
  | .bfi o => o.f8 = 0 && bits o.ext 6 2 = 0 && bits o.ext 14 18 = 0 && (bits o.ext 0 6).toNat + (bits o.ext 8 6).toNat + 1 ≤ 64
  | .lea _ => true
  | .sel o => bits o.f8 6 2 = 0 && bits o.ext 6 26 = 0 && (bits o.ext 0 6).toNat < 48
  | .cmpEq o => ctlPred o.d
  | .cmpNe o => ctlPred o.d
  | .cmpLt o => ctlPred o.d
  | .cmpLe o => ctlPred o.d
  | .cmpLtu o => ctlPred o.d
  | .cmpLeu o => ctlPred o.d
  | .cmpiEq o => ctlPred o.d && o.hi = 0
  | .cmpiNe o => ctlPred o.d && o.hi = 0
  | .cmpiLt o => ctlPred o.d && o.hi = 0
  | .cmpiLe o => ctlPred o.d && o.hi = 0
  | .cmpiLtu o => ctlPred o.d && o.hi = 0
  | .cmpiLeu o => ctlPred o.d && o.hi = 0
  | .pset o => ctlPred o.d && o.a = 0 && o.imm.toNat < 2
  | .pmovAnd o => ctlPred o.d && pred o.a && pred o.b
  | .pmovOr o => ctlPred o.d && pred o.a && pred o.b
  | .pmovXor o => ctlPred o.d && pred o.a && pred o.b
  | .pmovAndn o => ctlPred o.d && pred o.a && pred o.b
  | .br _ => true
  | .call _ => true
  | .jr o => o.b = 0 && o.f = 0
  | .loop o => o.a = 0 && o.f8 = 0
  | .lds o => bits o.f8 5 3 = 0 && bits o.f8 3 2 ≠ 3 && !(bits o.f8 2 1 = 1 && bits o.f8 0 2 = 3)
  | .sts o => bits o.f8 5 3 = 0 && (bits o.f8 3 2).toNat < 2 && bits o.f8 2 1 = 0
  | .atomAdd o => bits o.hi 3 1 = 0 && bits o.ext 6 26 = 0
  | .atomAnd o => bits o.hi 3 1 = 0 && bits o.ext 6 26 = 0
  | .atomOr o => bits o.hi 3 1 = 0 && bits o.ext 6 26 = 0
  | .atomXor o => bits o.hi 3 1 = 0 && bits o.ext 6 26 = 0
  | .atomMin o => bits o.hi 3 1 = 0 && bits o.ext 6 26 = 0
  | .atomMax o => bits o.hi 3 1 = 0 && bits o.ext 6 26 = 0
  | .atomMinu o => bits o.hi 3 1 = 0 && bits o.ext 6 26 = 0
  | .atomMaxu o => bits o.hi 3 1 = 0 && bits o.ext 6 26 = 0
  | .atomSwp o => bits o.hi 3 1 = 0 && bits o.ext 6 26 = 0
  | .cas o => bits o.f8 7 1 = 0 && bits o.f8 0 4 = 0 && bits o.ext 6 2 = 0 && bits o.ext 14 18 = 0
  | .tkwait o => o.d = 0 && o.a.toNat < 4 && o.a.toNat ≠ seqNum q
  | .tkpost o => o.d = 0 && o.a.toNat < 4 && o.a.toNat ≠ seqNum q
  | .semwait o => bits o.f8 6 1 = 0 && (bits o.f8 7 1 = 1 || (bits o.f8 0 6).toNat < 32)
  | .semadd o => bits o.f8 6 1 = 0 && (bits o.f8 7 1 = 1 || (bits o.f8 0 6).toNat < 32)
  | .semset o => bits o.f8 6 1 = 0 && (bits o.f8 7 1 = 1 || (bits o.f8 0 6).toNat < 32)
  | .arvw o => o.a.toNat < 8 && o.f.toNat < 2
  | .arvclr o => o.a.toNat < 8 && o.d = 0 && o.f = 0
  | .fence o => o.d = 0 && o.a = 0 && o.b = 0
  | .acq o => o.d = 0 && o.a = 0 && o.b = 0
  | .barv o => o.d = 0 && o.b = 0 && bits o.f 1 1 = 0 && (bits o.f 0 1 = 1 || o.a.toNat < 16)
  | .barw o => o.d = 0 && o.b = 0 && bits o.f 1 1 = 0 && (bits o.f 0 1 = 1 || o.a.toNat < 16)
  | .mqadv o => o.a.toNat < 32 && o.f = 0
  | .wset o => o.d.toNat < 32 && o.f = 0
  | .wrel o => o.d.toNat < 32 && o.a = 0 && o.b = 0 && o.f = 0
  | .hset o => o.d.toNat < 16 && o.b = 0 && o.f = 0
  | .tmpld o => bits o.f8 2 6 = 0
  | .trap o => o.d = 0 && o.a = 0
  | .sysr o => o.a = 0 && o.f8 = 0 && bits o.ext 12 20 = 0
  | .sysw o => o.d = 0 && o.f8 = 0 && bits o.ext 12 20 = 0
  | .nestq o => bits o.f8 1 7 = 0 && o.imm = 0
  | .nestf o => bits o.f8 2 6 = 0 && o.imm = 0
  | .nestr o => bits o.f8 1 7 = 0 && o.imm = 0
  | .nests o => o.f8 = 0 && o.imm.toNat < 8
  | .sbindLd o => o.d.toNat < 8 && o.a.toNat < 16 && o.b.toNat ≤ 12 && o.f.toNat < 2
  | .sunbLd o => o.d.toNat < 8 && o.a = 0 && o.b = 0 && o.f = 0
  | .ldq o => o.d.toNat < 8 && o.a.toNat < 16 && o.b.toNat ≤ 12 && o.f = 0
  | .gath o => o.d.toNat < 8 && o.a.toNat < 16 && o.b.toNat ≤ 12 && o.f ≠ 0
  | .ldt o => o.d.toNat < 16 && o.a.toNat < 16 && bits o.f8 4 4 = 0 && (bits o.f8 0 4).toNat ≤ 12 && bits o.ext 10 22 = 0 && rowOk (bits o.ext 0 10).toNat
  | .mfill o => o.d.toNat < 32 && o.a.toNat < 16 && o.f8 = 0 && bits o.ext 10 22 = 0 && (bits o.ext 0 10).toNat ≤ 512
  | .pref o => o.d = 0 && o.a.toNat < 16 && (bits o.f8 0 4).toNat ≤ 12 && bits o.f8 5 3 = 0 && bits o.ext 16 16 = 0
  | .nli o => o.d.toNat < 16 && o.f8 = 0
  | .nadd o => o.d.toNat < 16 && o.a.toNat < 16 && o.b.toNat < 16
  | .naddi o => o.d.toNat < 16 && o.a.toNat < 16
  | .ncmpEq o => o.a.toNat < 16 && o.b.toNat < 16 && indexPred q o.d
  | .ncmpNe o => o.a.toNat < 16 && o.b.toNat < 16 && indexPred q o.d
  | .ncmpLt o => o.a.toNat < 16 && o.b.toNat < 16 && indexPred q o.d
  | .ncmpLe o => o.a.toNat < 16 && o.b.toNat < 16 && indexPred q o.d
  | .ncmpLtu o => o.a.toNat < 16 && o.b.toNat < 16 && indexPred q o.d
  | .ncmpLeu o => o.a.toNat < 16 && o.b.toNat < 16 && indexPred q o.d
  | .nbr _ => true
  | .nloop o => o.d.toNat < 16 && o.a = 0 && o.f8 = 0
  | .sbindSt o => 8 ≤ o.d.toNat && o.d.toNat < 16 && o.a.toNat < 16 && o.b.toNat ≤ 12 && o.f.toNat < 2
  | .sunbSt o => 8 ≤ o.d.toNat && o.d.toNat < 16 && o.a = 0 && o.b = 0 && o.f = 0
  | .stq o => o.d.toNat < 16 && o.a.toNat < 16 && o.b.toNat ≤ 12 && o.f.toNat < 2
  | .scat o => 8 ≤ o.d.toNat && o.d.toNat < 16 && o.a.toNat < 16 && o.b.toNat ≤ 12 && o.f ≠ 0
  | .stt o => o.d.toNat < 16 && o.a.toNat < 16 && bits o.f8 4 4 = 0 && (bits o.f8 0 4).toNat ≤ 12 && bits o.ext 10 22 = 0 && rowOk (bits o.ext 0 10).toNat
  | .atomvAdd o => bits o.ext 20 12 = 0 && bits o.ext 9 7 = 0 && bits o.ext 4 4 = 0 && atomvOk o
  | .atomvAnd o => bits o.ext 20 12 = 0 && bits o.ext 9 7 = 0 && bits o.ext 4 4 = 0 && atomvOk o
  | .atomvOr o => bits o.ext 20 12 = 0 && bits o.ext 9 7 = 0 && bits o.ext 4 4 = 0 && atomvOk o
  | .atomvXor o => bits o.ext 20 12 = 0 && bits o.ext 9 7 = 0 && bits o.ext 4 4 = 0 && atomvOk o
  | .atomvMin o => bits o.ext 20 12 = 0 && bits o.ext 9 7 = 0 && bits o.ext 4 4 = 0 && atomvOk o
  | .atomvMax o => bits o.ext 20 12 = 0 && bits o.ext 9 7 = 0 && bits o.ext 4 4 = 0 && atomvOk o
  | .atomvMinu o => bits o.ext 20 12 = 0 && bits o.ext 9 7 = 0 && bits o.ext 4 4 = 0 && atomvOk o
  | .atomvMaxu o => bits o.ext 20 12 = 0 && bits o.ext 9 7 = 0 && bits o.ext 4 4 = 0 && atomvOk o
  | .atomvSwp o => bits o.ext 20 12 = 0 && bits o.ext 9 7 = 0 && bits o.ext 4 4 = 0 && atomvOk o
  | .rput o => o.d.toNat < 16 && o.a.toNat < 16 && o.f8 = 0 && bits o.ext 5 3 = 0 && bits o.ext 9 3 = 0 && bits o.ext 15 1 = 0 && bits o.ext 21 11 = 0 && bits o.ext 12 3 ≠ 7 && (bits o.ext 8 1 = 1 || bits o.ext 16 5 = 0)
  | .mwb o => o.d.toNat < 32 && o.a.toNat < 16 && o.f8 = 0 && bits o.ext 10 22 = 0 && (bits o.ext 0 10).toNat ≤ 512
  | .issueBundle _ _ _ _ _ => true
  | .emptyBundle _ => true
  | .mls _ => true
  | .accrd _ => true
  | .accz _ => true
  | .accld _ => true
  | .amld _ => true
  | .draw _ => true
  | .mmaM8K1 _ => true
  | .mmaM8K2 _ => true
  | .mmaM8K4 _ => true
  | .mmaM8K8 _ => true
  | .mmaM16K1 _ => true
  | .mmaM16K2 _ => true
  | .mmaM16K4 _ => true
  | .mmaM16K8 _ => true
  | .mmaM32K1 _ => true
  | .mmaM32K2 _ => true
  | .mmaM32K4 _ => true
  | .mmaM32K8 _ => true
  | .mmaM64K1 _ => true
  | .mmaM64K2 _ => true
  | .mmaM64K4 _ => true
  | .mmaM64K8 _ => true
  | .vadd _ => true
  | .vsub _ => true
  | .vmul _ => true
  | .vfma _ => true
  | .vfms _ => true
  | .vmin _ => true
  | .vmax _ => true
  | .vabs _ => true
  | .vneg _ => true
  | .vand _ => true
  | .vor _ => true
  | .vxor _ => true
  | .vnot _ => true
  | .vshl _ => true
  | .vshr _ => true
  | .vsar _ => true
  | .vcmpEq _ => true
  | .vcmpNe _ => true
  | .vcmpLt _ => true
  | .vcmpLe _ => true
  | .vcmpGt _ => true
  | .vcmpGe _ => true
  | .vsel _ => true
  | .vmov _ => true
  | .vbcast _ => true
  | .vperm _ => true
  | .vslide _ => true
  | .vredSum _ => true
  | .vredMin _ => true
  | .vredMax _ => true
  | .vredAnd _ => true
  | .vredOr _ => true
  | .vredXor _ => true
  | .vscanSum _ => true
  | .vscanMin _ => true
  | .vscanMax _ => true
  | .vcvt _ => true
  | .vscl _ => true
  | .vsclDerive _ => true
  | .viota _ => true
  | .vpopc _ => true
  | .vfirst _ => true
  | .vtopk _ => true
  | .vld _ => true
  | .vst _ => true
  | .gate _ => true
  | .vpen _ => true
  | .vsbias _ => true
  | .vban _ => true
  | .vmatch _ => true
  | .vexp _ => true
  | .vlog _ => true
  | .vrcp _ => true
  | .vrsq _ => true
  | .vtanh _ => true
  | .vsigm _ => true
  | .cpy o => cpyOk o && 1 ≤ o.a.toNat && o.a.toNat ≤ 61
  | .cpys o => cpyOk o && 1 ≤ o.a.toNat && o.a.toNat ≤ 60 && bits o.f8 2 2 = 0
  | .cpyt o => cpyOk o && 1 ≤ o.a.toNat && o.a.toNat ≤ 60
  | .cpyd o => cpyOk o && 1 ≤ o.a.toNat && o.a.toNat ≤ 60 && bits o.f8 0 2 = 0
  | .lease o => o.f8 = 0 && 1 ≤ o.a.toNat && o.a.toNat ≤ 62
  | .lrel o => o.a = 0 && bits o.f8 1 7 = 0 && bits o.imm 3 21 = 0
  | .msendP o => o.d = 0 && bits o.f8 5 3 = 0 && bits o.f8 2 3 ≠ 7 && bits o.imm 12 12 = 0 && 1 ≤ o.a.toNat && o.a.toNat ≤ 62
  | .msendH o => o.d = 0 && bits o.f8 1 7 = 0 && bits o.imm 12 12 = 0 && 1 ≤ o.a.toNat && o.a.toNat ≤ 59
  | .disp o => o.d = 0 && o.f8 = 0 && bits o.imm 12 12 = 0 && 1 ≤ o.a.toNat && o.a.toNat ≤ 60
  | .cmb o => o.d = 0 && bits o.f8 4 4 = 0 && combFy (bits o.f8 0 4).toNat && o.imm = 0 && 1 ≤ o.a.toNat && o.a.toNat ≤ 61
  | .qwait o => bits o.f8 5 3 = 0 && (bits o.f8 0 5).toNat < 24 && bits o.imm 12 12 = 0
  | .qread o => o.a = 0 && o.f8 = 0 && bits o.imm 21 3 = 0 && qreadOk (bits o.imm 12 4).toNat (bits o.imm 16 5).toNat
  | .rlook o => o.f8 = 0 && o.imm.toNat < 5
  | .rpin o => bits o.f8 2 6 = 0 && o.imm = 0
  | .runpin o => bits o.f8 1 7 = 0 && o.imm = 0
  | .rfetch o => bits o.f8 1 7 = 0 && o.imm = 0
  | .revict o => bits o.f8 1 7 = 0 && o.imm = 0
  | .rpolLayer o => bits o.f8 2 6 = 0 && o.imm = 0
  | .rpolUnlayer o => bits o.f8 2 6 = 0 && o.imm = 0
  | .rpolCat o => bits o.f8 2 6 = 0 && o.imm = 0 && o.a.toNat ≤ 62
  | .rpolUncat o => bits o.f8 2 6 = 0 && o.imm = 0
  | .sqopen o => bits o.f8 1 7 = 0 && o.imm = 0 && 1 ≤ o.a.toNat
  | .sqopenClose o => bits o.f8 1 7 = 0 && o.imm = 0 && 1 ≤ o.a.toNat
  | .sqframe o => bits o.f8 5 3 = 0 && (bits o.f8 0 5).toNat < 24 && o.imm = 0 && 1 ≤ o.a.toNat && o.a.toNat ≤ 61
  | .sqtrunc o => o.f8 = 0 && o.imm = 0 && 1 ≤ o.a.toNat && o.a.toNat ≤ 62
  | .sqckpt o => o.f8 = 0 && o.imm = 0 && 1 ≤ o.a.toNat && o.a.toNat ≤ 61
  | .sqspec o => o.f8 = 0 && o.imm = 0 && 1 ≤ o.a.toNat && o.a.toNat ≤ 61
  | .sqcmit o => bits o.f8 5 3 = 0 && (bits o.f8 0 5).toNat < 24 && o.imm = 0 && 1 ≤ o.a.toNat && o.a.toNat ≤ 61
  | .sqcurRead o => bits o.f8 0 2 = 0 && bits o.f8 2 6 = 0 && o.imm.toNat < 7 && 1 ≤ o.a.toNat && o.a.toNat ≤ 62
  | .sqcurPlay o => bits o.f8 2 6 = 0 && o.imm = 0 && 1 ≤ o.a.toNat && o.a.toNat ≤ 62
  | .sqcurKv o => bits o.f8 2 6 = 0 && o.imm = 0 && 1 ≤ o.a.toNat && o.a.toNat ≤ 62
  | .prel o => o.f8 = 0 && bits o.imm 2 22 = 0
  | .pstat o => o.a = 0 && o.f8 = 0 && bits o.imm 2 2 = 0 && bits o.imm 8 16 = 0 && (bits o.imm 4 4).toNat < 6
  | .publish => true
  | .rftRetry => true
  | .rftSkip => true
  | .rftRedirect => true
  | .yield => true
  | .tend => true
  | .tendAbort => true
  | .tendEsc => true
  | .nop => true
  | .mnop => true
  | .heldAccessRetry => true
  | .flipLimitExpiry => true
  | .flipToHostFinish => true
  | .windowFillDone => true
  | .deviceWriteback => true
  | .publicationCommit => true
  | .scopeRefusalTimeout => true
  | .shadowWriteRelease => true
  | .snapshotPressure => true
  | .snapshotExpired => true
  | .dirtyEvictUncorrectable => true
  | .registerWrite => true
  | .barCfgWrite => true
  | .muInvPage => true
  | .muInvAsid => true
  | .muInvAll => true
  | .muInvNone => true
  | .nsRinvRegion => true
  | .nsRinvAll => true
  | .ldShinvRegion => true
  | .ldShinvAll => true
  | .tileDispatch => true
  | .priorityAging => true
  | .tileCommit => true
  | .yieldRequest => true
  | .boundaryYield => true
  | .yieldDeadline => true
  | .saveComplete => true
  | .saveBound => true
  | .tileRestore => true
  | .watchdog => true
  | .streamEntryRead => true
  | .streamEntryLand => true
  | .ldDirectOpComplete => true
  | .heldFaultTrap => true
  | .stStreamEntryWrite => true
  | .stDirectOpComplete => true
  | .mqGrant => true
  | .mqEntryLand => true
  | .mqFullTimeout => true
  | .tokenPushDeliver => true
  | .lateFaultTrap => true
  | .mlsStart => true
  | .shadowFull => true
  | .mmaKStep => true
  | .copyChunkArrival => true
  | .copyComplete => true
  | .copyFault => true
  | .leaseExpiry => true
  | .shageanFlitReceive => true
  | .shageanGoBack => true
  | .linkAckTimeout => true
  | .linkResync => true
  | .shageanPacketReceive => true
  | .peerRequest => true
  | .peerResponse => true
  | .handlerInboxGrant => true
  | .handlerMessage => true
  | .handlerEnqueueRetry => true
  | .gateSetLoadReq => true
  | .gateSetBiasReload => true
  | .gateSetFreeReq => true
  | .gateSetLoad => true
  | .gateSetFree => true
  | .tokenScore => true
  | .steeperScore => true
  | .combineArrival => true
  | .dropNoticeArrival => true
  | .waveStart => true
  | .wavePass => true
  | .qwaitTimeout => true
  | .jobCountersClear => true
  | .saucerCopyArrive => true
  | .flushDeadline => true
  | .expertEnqueueRetry => true
  | .expertTileRetire => true
  | .absenceThreshold => true
  | .fetchStart => true
  | .fetchComplete => true
  | .fetchFail => true
  | .nvmeCompletion => true
  | .nvmeTimeout => true
  | .sqCplayWrite => true
  | .lineFrameReceive => true
  | .advertisementTimer => true
  | .portAcceptStart => true
  | .portEnable => true
  | .portDisable => true
  | .whiskLoad => true
  | .coldReset => true
  | .bootStagingWrite => true
  | .bootGo => true
  | .featureAccept => true
  | .ringEnable => true
  | .ringDoorbell => true
  | .ringEntryNest => true
  | .ringEntryCopy => true
  | .ringEntryCopyin => true
  | .ringEntryAttest => true
  | .apertureAccess => true
  | .tdispLockInterface => true
  | .tdispStartInterface => true
  | .tdispStopInterface => true
  | .hostAtomicCompletion => true
  | .hostAtomicWithdraw => true
  | .thermalTrip => true
  | .svNqEnqueue => true
  | .svNdonePop => true
  | .svFlipPop => true
  | .mailboxS2hSend => true
  | .mailboxH2sSend => true
  | .mailboxS2hClear => true
  | .mbAtomSeq => true
  | .mbAtomClaim => true
  | .mbAtomWdraw => true
  | .illegalOpcode => true
  | .engineOperationComplete => true
  | .samovarInstruction => true
  | .thermalSensorReading => true
  | .powerLoss => true
  | .linkStateChange => true
  | .doeMailboxMessage => true

end Sys2Proof.Machine
end

