-- ==== Sys2Proof/Machine/Infuser.lean ====
section
/-! DEFINITION. The leaf code: canonical codewords, compressed blocks and CRC-32C (12 R373, R374). -/

namespace Sys2Proof.Machine

/-- A codeword: symbol, length, code. -/
structure CodeWord where
  sym : Nat
  len : Nat
  code : Nat
  deriving DecidableEq, Repr

/-- The canonical assignment (R373), and whether some code went beyond its length. -/
def assignCodes (table : Nat) : List CodeWord × Bool :=
  let r := (upto 1 15).foldl (fun (x : Nat × List CodeWord × Bool) l =>
    let y := (upto 0 16).foldl (fun (y : Nat × List CodeWord × Bool) s =>
      if nbits table (4 * s) 4 = l then (y.1 + 1, y.2.1 ++ [⟨s, l, y.1⟩], y.2.2 || decide (2 ^ l ≤ y.1)) else y) x
    (2 * y.1, y.2)) (0, [], false)
  r.2

/-- Is a code-length table over-subscribed (R373)? -/
def overSubscribed (table : Nat) : Bool := (assignCodes table).2

/-- A 32-bit CRC with a reflected polynomial and the usual bit order, start and end values (log 22). -/
def crc32 (poly : Word) (l : List Byte) : Nat :=
  let bit := fun (c : Word) => if c.getLsbD 0 then (c >>> 1) ^^^ poly else c >>> 1
  let step := fun (c : Word) (b : Byte) => (upto 0 8).foldl (fun c _ => bit c) (c ^^^ b.setWidth 32)
  (~~~(l.foldl step (~~~(0 : Word)))).toNat

/-- CRC-32C of bytes (R374). -/
def crc32c (l : List Byte) : Nat := crc32 0x82F6_3B78 l

/-- The bits of bytes in the order in which a stream is read (R374). -/
def bitsOf (l : List Byte) : List Bool := l.flatMap fun b => (upto 0 8).map fun i => b.getLsbD i

/-- Read `n` bits, the first as bit 0; none where the stream ends (R374). -/
def readBits : Nat → List Bool → Option (Nat × List Bool)
  | 0, l => some (0, l)
  | _ + 1, [] => none
  | n + 1, b :: r => (readBits n r).map fun x => (2 * x.1 + (if b then 1 else 0), x.2)

/-- Read `n` numbers of `k` bits. -/
def readMany (k : Nat) : Nat → List Bool → Option (List Nat × List Bool)
  | 0, l => some ([], l)
  | n + 1, l =>
    match readBits k l with
    | none => none
    | some (x, l) => (readMany k n l).map fun y => (x :: y.1, y.2)

/-- The next codeword's symbol, its first bit the most significant (R374): `len` and `code` are what has been read. -/
def readSym (codes : List CodeWord) : Nat → Nat → Nat → List Bool → Option (Nat × List Bool)
  | 0, _, _, _ => none
  | _ + 1, _, _, [] => none
  | n + 1, len, code, b :: r =>
    let c := 2 * code + (if b then 1 else 0)
    match codes.find? fun w => w.len = len + 1 && w.code = c with
    | some w => some (w.sym, r)
    | none => readSym codes n (len + 1) c r

/-- Exponent and mantissa widths of a KIND (R374, 03 R76). -/
def kindWidths (kind : Nat) : Option (Nat × Nat) :=
  match kind with
  | 0x9 => some (4, 3)
  | 0xA => some (5, 2)
  | 0xB => some (8, 7)
  | 0xC => some (5, 10)
  | 0xD => some (8, 23)
  | _ => none

/-- Read the exponents of a group's elements and put the elements together. -/
def readElems (codes : List CodeWord) (e m base : Nat) : List (Nat × Nat) → List Bool → Option (List Nat × List Bool)
  | [], l => some ([], l)
  | (sg, mt) :: r, l =>
    match readSym codes 15 0 0 l with
    | none => none
    | some (s, l) =>
      let x := if s = 15 then readBits e l else if base + s ≥ 2 ^ e then none else some (base + s, l)
      match x with
      | none => none
      | some (x, l) =>
        (readElems codes e m base r l).map fun y => ((sg * 2 ^ (e + m) + x * 2 ^ m + mt) :: y.1, y.2)

/-- Read groups of 256 elements (R374). -/
def readGroups (codes : List CodeWord) (e m base : Nat) : Nat → List Bool → Option (List Nat × List Bool)
  | 0, l => some ([], l)
  | n + 1, l =>
    match readMany 1 256 l with
    | none => none
    | some (sg, l) =>
      match readMany m 256 l with
      | none => none
      | some (mt, l) =>
        match readElems codes e m base (sg.zip mt) l with
        | none => none
        | some (x, l) => (readGroups codes e m base n l).map fun y => (x ++ y.1, y.2)

/-- CLEN of a block's header, where it is in range (R374). -/
def blockLen (h : Nat) : Option Nat :=
  let c := nbits h 16 16
  if c % 32 = 0 ∧ 32 ≤ c ∧ c ≤ 4128 then some c else none

/-- The 4,096 bytes that a block, header included in `l`, decodes to before its CRC is checked; none where it is malformed
otherwise (R374). -/
def decodeRaw (table : Nat) (l : List Byte) : Option (List Byte) :=
  let h := ofBytes (l.take 8)
  let kind := nbits h 0 4
  match blockLen h with
  | none => none
  | some len =>
    if nbits h 4 4 ≠ 0 then none
    else if kind = 0 then (if len = 4128 then some ((l.drop 8).take 4096) else none)
    else
      match kindWidths kind with
      | none => none
      | some (e, m) =>
        let g := 4096 / (32 * (1 + e + m))
        match readGroups (assignCodes table).1 e m (nbits h 8 8) g (bitsOf ((l.take len).drop 8)) with
        | none => none
        | some (x, rest) => if rest.all (!·) then some (x.map (bytesOf ((1 + e + m) / 8))).flatten else none

/-- Does a block's CRC match what it decodes to (R374)? -/
def crcHolds (l out : List Byte) : Bool := crc32c out = nbits (ofBytes (l.take 8)) 32 32

/-- The 4,096 bytes of a block, header included in `l`; none where it is malformed (R374). -/
def decodeBlock (table : Nat) (l : List Byte) : Option (List Byte) :=
  (decodeRaw table l).bind fun out => if crcHolds l out then some out else none

end Sys2Proof.Machine
end

