-- ==== Sys2Proof/Machine/Links.lean ====
section
/-! DEFINITION. Counting messages in their jobs, and the sending side of the Shagean links: packets, routes, flits
(13 R381–R385, R398). -/

namespace Sys2Proof.Machine

/-! Counts (R385, R398, R402). -/

/-- The job-table entry in use for a job: the lowest valid one (R403). -/
def jobEntryOf (s : State) (job : Nat) : Option Nat :=
  (upto 0 64).find? fun i => match SMap.find s.fab.jobs i with
    | some e => e.valid && e.job = job
    | none => false

/-- A job-table entry. -/
def State.jobAt (s : State) (i : Nat) : JobEntry := SMap.get {} s.fab.jobs i

/-- Change a job-table entry. -/
def State.updJob (s : State) (i : Nat) (f : JobEntry → JobEntry) : State :=
  { s with fab := { s.fab with jobs := SMap.put s.fab.jobs i (f (s.jobAt i)) } }

/-- Change the counts of a job at an interface; a job that is not registered is not counted (R385). -/
def countJob (job ifc : Nat) (f : JobCount → JobCount) (s : State) : State :=
  match jobEntryOf s job with
  | none => s
  | some e => { s with fab := { s.fab with counts := SMap.upd {} s.fab.counts (32 * e + ifc) f } }

/-- A message of a job has been injected at an interface. -/
def injected (job ifc : Nat) (s : State) : State := countJob job ifc (fun x => { x with inj := (x.inj + 1) % 2 ^ 48 }) s
/-- A message of a job has been consumed at an interface. -/
def consumed (job ifc : Nat) (s : State) : State := countJob job ifc (fun x => { x with cons := (x.cons + 1) % 2 ^ 48 }) s
/-- A message of a job has been lost at an interface. -/
def lost (job ifc : Nat) (s : State) : State := countJob job ifc (fun x => { x with lost := (x.lost + 1) % 2 ^ 48 }) s

/-- The counts of an entry at an interface, or with 31 the sums over the device (R402). -/
def countsOf (s : State) (e ifc : Nat) : JobCount :=
  let at_ := fun i => SMap.get ({} : JobCount) s.fab.counts (32 * e + i)
  if ifc ≠ 31 then at_ ifc
  else
    let l := (upto 0 24).map at_
    { inj := (l.map (·.inj)).sum % 2 ^ 48, cons := (l.map (·.cons)).sum % 2 ^ 48, lost := (l.map (·.lost)).sum % 2 ^ 48 }

/-! Packets (R381). -/

/-- A packet's header and payload. -/
structure Packet where
  dst : Nat
  src : Nat
  kind : Nat
  job : Nat := 0
  core : Nat := 0
  target : Nat := 0
  tag : Nat := 0
  special : Nat := 0
  data : List Byte := []
  deriving DecidableEq, Repr

/-- Its bytes (R381). -/
def Packet.bytes (p : Packet) : List Byte :=
  bytesOf 1 p.dst ++ bytesOf 1 p.src ++ bytesOf 1 p.kind ++ bytesOf 1 0 ++ bytesOf 2 (p.job % 2 ^ 12) ++ bytesOf 2 (p.core % 128) ++
  bytesOf 8 p.target ++ bytesOf 4 p.data.length ++ bytesOf 4 p.tag ++ bytesOf 8 p.special ++ p.data

/-- A packet from its bytes. -/
def packetOf (l : List Byte) : Packet :=
  let at_ := fun o n => ofBytes ((l.drop o).take n)
  { dst := at_ 0 1, src := at_ 1 1, kind := at_ 2 1, job := nbits (at_ 4 2) 0 12, core := nbits (at_ 6 2) 0 7
    target := at_ 8 8, tag := at_ 20 4, special := at_ 24 8, data := (l.drop 32).take (at_ 16 4) }

/-- Is the packet a message, which a job counts (R381, R384)? -/
def Packet.isMessage (p : Packet) : Bool := decide (p.kind ≠ 4 ∧ p.kind ≠ 5)

/-- The channel of a kind (R380). -/
def Packet.chan (p : Packet) : Nat := if p.kind = 4 then 0 else if p.kind = 5 then 1 else 2

/-! Links (R382, R383). -/

/-- A link by number. -/
def State.link (s : State) (i : Nat) : Link := SMap.get {} s.fab.links i

/-- Change a link. -/
def State.updLink (s : State) (i : Nat) (f : Link → Link) : State :=
  { s with fab := { s.fab with links := SMap.put s.fab.links i (f (s.link i)) } }

/-- LINKS toward a device (R383). -/
def routeLinks (s : State) (d : Nat) : Nat := nbits (SMap.get 0 s.fab.routes d) 0 8
/-- HOPS toward a device (R383). -/
def routeHops (s : State) (d : Nat) : Nat := nbits (SMap.get 0 s.fab.routes d) 8 4

/-- The link on which packets of a source device and core leave for a device: a fixed choice from LINKS (R383). -/
def linkToward (s : State) (src core d : Nat) : Option Nat :=
  let l := (upto 0 8).filter fun i => nbits (routeLinks s d) i 1 = 1
  if l.isEmpty then none else l[Config.linkHash src core d % l.length]?

/-- A flit (R381): type 0 is data. -/
def flitBytes (payload : List Byte) (seq chan type ack : Nat) : List Byte :=
  let l := (payload ++ bytesOf (120 - payload.length) 0) ++ bytesOf 2 (seq % 2 ^ 12 + chan * 2 ^ 12 + type * 2 ^ 14) ++ bytesOf 2 (ack % 2 ^ 12)
  l ++ bytesOf 4 (crc32c l)

/-- Flits that a packet takes (R381). -/
def OutPkt.flits (p : OutPkt) : Nat := (p.bytes.length + 119) / 120

/-- Is there something to send ahead of place `i` in the same channel (R380)? -/
def behindChannel (l : List OutPkt) (i chan : Nat) : Bool := (l.take i).any fun q => q.chan = chan

/-- Put waiting packets into flits while the link is up and its replay buffer of 512 flits has room (R382). Packets of a
channel keep their order; one that has no room does not hold back other channels (R380). -/
def pumpLink (cycle : Nat) : Nat → Link → Link
  | 0, x => x
  | n + 1, x =>
    let unsent := x.out.filter fun p => p.last.isNone
    match unsent.zipIdx.find? fun e => decide (x.replay.length + e.1.flits ≤ 512) && !behindChannel unsent e.2 e.1.chan with
    | none => x
    | some (p, i) =>
      if x.run ≠ 2 || x.resync then x
      else
        let k := p.flits
        let fl := (pieces 120 k p.bytes).zipIdx.map fun e =>
          { seq := (x.txSeq + e.2) % 2 ^ 12, bytes := flitBytes e.1 (x.txSeq + e.2) p.chan 0 (x.rxNext + 2 ^ 12 - 1) : Flit }
        let y := { x with
          txSeq := (x.txSeq + k) % 2 ^ 12
          progress := if x.replay.isEmpty then cycle else x.progress
          replay := x.replay ++ fl
          out := (x.out.filter fun q => q.last.isSome) ++ [{ p with last := some ((x.txSeq + k - 1) % 2 ^ 12) }] ++ unsent.eraseIdx i }
        pumpLink cycle n y

/-- Put a packet on its way; none where no link leads to its device (R383). -/
def sendPacket (p : Packet) (s : State) : Option State :=
  match linkToward s p.src p.core p.dst with
  | none => none
  | some i => some (s.updLink i fun x =>
      let y := { x with out := x.out ++ [{ chan := p.chan, bytes := p.bytes }] }
      pumpLink s.cycle y.out.length y)

/-! Messages that have come (R380). -/

/-- A message comes to this device: its place, and the state that counts it. -/
def takeSent (dev core : Nat) (s : State) : Sent × State :=
  (⟨dev, core, s.fab.arrived⟩, { s with fab := { s.fab with arrived := s.fab.arrived + 1 } })

/-- Has a message of the same sender that came earlier still to land or to be applied? -/
def sentBefore (s : State) (x : Sent) : Bool :=
  (s.cores.any fun e => e.2.windows.any fun w => w.2.mq.msgs.any fun m =>
    !m.landed && m.sent.any fun y => y.dev = x.dev && y.core = x.core && decide (y.at_ < x.at_)) ||
  s.fab.combs.any fun m => m.srcDev = x.dev && m.srcCore = some x.core && decide (m.at_ < x.at_)

/-- A CMB message or a notice comes to this device. -/
def arriveComb (m : CombMsg) (s : State) : State :=
  { s with fab := { s.fab with combs := s.fab.combs ++ [{ m with at_ := s.fab.arrived }], arrived := s.fab.arrived + 1 } }

/-! Peer memory requests (02 R51, R384). -/

/-- Device and physical address of a peer's location. -/
def peerDev (loc : Nat) : Nat := loc / 2 ^ 56 - 2
def peerAddr (loc : Nat) : Nat := loc % 2 ^ 56

/-- Numbers of the atomic operations in a request (log 23). -/
def AtomOp.num : AtomOp → Nat
  | .add => 0 | .and => 1 | .or => 2 | .xor => 3 | .min => 4 | .max => 5 | .minu => 6 | .maxu => 7 | .swp => 8 | .cas => 9

/-- The operation of a number. -/
def atomOpOf (n : Nat) : AtomOp :=
  match n with
  | 0 => .add | 1 => .and | 2 => .or | 3 => .xor | 4 => .min | 5 => .max | 6 => .minu | 7 => .maxu | 8 => .swp | _ => .cas

/-- A request's packet (R381; the kind-specific doubleword: log 23). -/
def askPacket (s : State) (a : PeerAsk) : Packet :=
  let (special, data) := match a.kind with
    | .read => (256 * 2 ^ 16, [])
    | .write l => (1 + l.length * 2 ^ 16, l)
    | .atomic op size v w => (2 + op.num * 2 ^ 8 + size * 2 ^ 16, bytesOf 8 v ++ bytesOf 8 w)
  { dst := peerDev a.loc, src := s.devId, kind := 4, core := ((a.who.map (·.1)).getD 0), target := peerAddr a.loc, tag := a.tag
    special := special, data := data }

/-- Send a request to a peer, where a link leads there. -/
def askPeer (a : PeerAsk) (s : State) : State :=
  let a := { a with tag := s.nextTag }
  match sendPacket (askPacket s a) s with
  | some s => { s with peerAsks := s.peerAsks ++ [a], nextTag := (s.nextTag + 1) % 2 ^ 32 }
  | none => s

/-- Ask a peer for a line, once (02 R51). -/
def requestPeer (loc : Nat) (s : State) : State :=
  if s.peerAsks.any fun a => a.loc = loc && a.kind = .read then s else askPeer { loc := loc, tag := 0 } s

/-- The account of a block that writes for a region (02 R517): no tile. -/
def onBlock (region : Nat) : OnTile := ⟨region, 0, 0xFFFF_FFFF, 0xFFFF⟩

/-- Runs of neighbouring bytes, cut at 256-byte lines. -/
def byteRuns : List (Nat × Byte) → List (Nat × List Byte)
  | [] => []
  | (a, b) :: r =>
    match byteRuns r with
    | (x, l) :: t => if x = a + 1 ∧ x % 256 ≠ 0 then (a, b :: l) :: t else (a, [b]) :: (x, l) :: t
    | [] => [(a, [b])]

/-- Write requests for bytes homed on peers (02 R55). -/
def writePeers (tile : Option OnTile) (l : List (Nat × Byte)) (s : State) : State :=
  (byteRuns (l.filter fun e => decide (2 ^ 57 ≤ e.1))).foldl (fun s e =>
    askPeer { loc := e.1, tag := 0, kind := .write e.2, tile := tile } s) s

end Sys2Proof.Machine
end

