-- ==== Sys2Proof/Machine/Mem.lean ====
section
/-! DEFINITION. Global memory: stamps, committed values and their history, address translation, loads, open versions,
near-atomic lines, publication; and the scratchpad with its windows (02). A location is a physical address of the
device's LPDDR6 below 2^56, 2^56 + address on the host, or (2 + device) × 2^56 + address on a peer. -/

namespace Sys2Proof.Machine

/-! Stamps. -/

/-- Stamp `b` is later than stamp `a`, modulo 2^48 (R56). -/
def later (a b : Nat) : Bool :=
  let d := (b + 2 ^ 48 - a) % 2 ^ 48
  decide (1 ≤ d ∧ d < 2 ^ 47)

/-- How many stamps `b` is ahead of `a`. -/
def stampGap (a b : Nat) : Nat := (b + 2 ^ 48 - a) % 2 ^ 48

/-! Committed values. -/

/-- What a byte of LPDDR6 that nothing has written reads as (log 4). -/
def memDefault : Byte := 0

/-- A committed byte of the device's own LPDDR6. -/
def Memory.byte (m : Memory) (pa : Nat) : Byte := SMap.get memDefault m.mem pa

/-- The `n` committed bytes from an address. -/
def Memory.readN (m : Memory) (pa n : Nat) : List Byte := (upto pa n).map m.byte

/-- A committed number of `n` bytes, least significant byte first (00 R4). -/
def Memory.readNat (m : Memory) (pa n : Nat) : Nat := ofBytes (m.readN pa n)

/-- Write one committed byte, keeping the canonical form. -/
def Memory.setByte (m : Memory) (pa : Nat) (b : Byte) : Memory := { m with mem := SMap.set memDefault m.mem pa b }

/-- The canonical form of memory: addresses strictly rising, no entry equal to what an unlisted address reads as. -/
def Memory.wf (m : Memory) : Bool := SMap.wf memDefault m.mem

/-- Write committed bytes. -/
def Memory.setBytes (m : Memory) : List (Nat × Byte) → Memory
  | [] => m
  | (a, b) :: r => Memory.setBytes (m.setByte a b) r

/-- The bytes `l` at `pa`, `pa + 1`, …. -/
def placed : Nat → List Byte → List (Nat × Byte)
  | _, [] => []
  | pa, b :: r => (pa, b) :: placed (pa + 1) r

/-- Put committed bytes in place; a sector written whole loses its poison mark (log 6). -/
def Memory.putBytes (m : Memory) (l : List (Nat × Byte)) : Memory :=
  let secs := (l.map fun e => e.1 / 128).eraseDups
  let whole := fun sec => (upto (sec * 128) 128).all fun a => l.any fun e => e.1 = a
  { Memory.setBytes m l with poison := m.poison.filter fun sec => !(secs.contains sec && whole sec) }

/-- Record a region as the last writer of the sectors that hold bytes (R71). -/
def Memory.charge (m : Memory) (region : Nat) (l : List (Nat × Byte)) : Memory :=
  { m with writer := (l.map fun e => e.1 / 128).eraseDups.foldl (fun w x => SMap.put w x region) m.writer }

/-- Where a location of one of two exchanged pages goes. -/
def Swapped.other (w : Swapped) (x : Nat) : Nat :=
  if w.a ≤ x ∧ x < w.a + 0x1_0000 then x - w.a + w.b
  else if w.b ≤ x ∧ x < w.b + 0x1_0000 then x - w.b + w.a
  else x

/-- Did the exchange change what an address of an address space names? -/
def Swapped.names (w : Swapped) (asid va : Nat) : Bool :=
  w.asid = asid && (va / 0x1_0000 * 0x1_0000 = w.dst || va / 0x1_0000 * 0x1_0000 = w.shadow)

/-- Where a phase with this start stamp finds an address that the page tables now place at `loc`: later exchanges of its
page are undone (R69). -/
def Memory.view (m : Memory) (start asid va loc : Nat) : Nat :=
  m.swaps.foldl (fun x w => if later start w.stamp && w.names asid va then w.other x else x) loc

/-- The place now of an address that a phase with this start stamp finds at `loc`. -/
def Memory.place (m : Memory) (start asid va loc : Nat) : Nat :=
  m.swaps.reverse.foldl (fun x w => if later start w.stamp && w.names asid va then w.other x else x) loc

/-- The committed byte that a phase with this start stamp reads: the greatest stamp no later than it (R53). -/
def Memory.byteAt (m : Memory) (start pa : Nat) : Byte :=
  m.history.foldl (fun b h => if later start h.stamp then (SMap.find h.old pa).getD b else b) (m.byte pa)

/-- The start stamps of the open phases: tiles on cores, the copies they issued, and saved tiles (R60). -/
def openStarts (s : State) : List Nat :=
  (s.cores.filterMap fun e => e.2.tile.map (·.start)) ++ (s.cores.flatMap fun e => e.2.copies.map (·.start)) ++ (s.ns.saved.filterMap fun x => x.core.tile.map (·.start))

/-- Forget superseded bytes and exchanges that no open phase may still read (R60). -/
def pruneHistory (s : State) : State :=
  let o := openStarts s
  { s with m := { s.m with
      history := s.m.history.filter fun h => o.any fun st => later st h.stamp
      swaps := s.m.swaps.filter fun h => o.any fun st => later st h.stamp
      pastPoison := s.m.pastPoison.filter fun h => o.any fun st => later st h.1 } }

/-- Does a phase with this start stamp find a location poisoned (R71, 17 R495)? -/
def Memory.poisonedAt (m : Memory) (start pa : Nat) : Bool :=
  let sec := pa / 128
  m.poison.contains sec || m.pastPoison.any fun h => later start h.1 && h.2.contains sec

/-- Retained lines of a record, 256 bytes each (R52). -/
def linesOf (l : SMap Byte) : List Nat := (l.map fun e => e.1 / 256).eraseDups

/-- Bytes in use by retained versions (R63 RV_USED counts KiB). -/
def retainedBytes (m : Memory) : Nat := (m.history.map fun h => (linesOf h.old).length * 256).sum

/-- The tiles that hold open versions: those on cores and the saved ones. -/
def openTiles (s : State) : List Tile := s.cores.filterMap (fun e => e.2.tile) ++ s.ns.saved.filterMap fun x => x.core.tile

/-- The lines that L2 has to hold: those of each open version, and those that leases pin (R52). -/
def openLines (s : State) : List Nat :=
  (openTiles s).flatMap (fun t => linesOf t.ver.bytes) ++ (s.m.leases.flatMap (·.lines)).eraseDups

/-- Of these, the lines beyond the room of their slices (R12, R52). -/
def overSlices (l : List Nat) : Nat :=
  ((upto 0 Config.l2Slices).map fun i => (l.filter fun x => (Config.l2Slice x).toNat = i).length - Config.l2SliceLines).sum

/-- Bytes of the lines that spill: where no slice can be full, none do (R52; log 39). -/
def spillBytes (s : State) : Nat :=
  if (openLines s).length ≤ Config.l2SliceLines then 0 else overSlices (openLines s) * 256

/-- KiB in use in the array, the overflow area and by spilled lines, rounded up (R63). -/
def usedKiB (s : State) : Nat := (retainedBytes s.m + spillBytes s + 1023) / 1024

/-- KiB that the array and the overflow area hold together (R52, R63). -/
def retainedCapacity (m : Memory) : Nat := Config.retainedKiB + m.ovfSize * 1024

/-- Bytes that the overflow area has to hold: retained values beyond the array, and spilled lines (R52). -/
def overflowBytes (s : State) : Nat := retainedBytes s.m - Config.retainedKiB * 1024 + spillBytes s

/-- May `s` become `u`: it asks no more of the overflow area, or the area has the room (R52)? -/
def overflowAllows (s u : State) : Bool :=
  decide (overflowBytes u ≤ overflowBytes s) || decide (overflowBytes u ≤ s.m.ovfSize * 2 ^ 20)

/-- Commit bytes of the device's own LPDDR6 with a stamp (R55); `writer` is the region charged (R71). A sector
written whole loses its poison mark (log 6). -/
def commitAt (stamp : Nat) (writer : Option Nat) (l : List (Nat × Byte)) (s : State) : State :=
  let old := l.foldl (fun o e => SMap.put o e.1 (s.m.byte e.1)) ([] : SMap Byte)
  let m := s.m.putBytes l
  let m := match writer with
    | some r => m.charge r l
    | none => m
  pruneHistory { s with m := { m with
    pubCount := stamp
    history := { stamp := stamp, old := old } :: m.history } }

/-- Commit with a new stamp (R55). -/
def commitLocal (writer : Option Nat) (l : List (Nat × Byte)) (s : State) : State :=
  commitAt ((s.m.pubCount + 1) % 2 ^ 48) writer l s

/-! Translation. -/

/-- What an access does (R36). -/
inductive Acc
  | read | write | exec
  deriving DecidableEq, Repr

/-- On whose account an access is translated: the map unit that serves it (none for a block that walks the committed
tables itself, R517), the address space and the privilege. -/
structure Ctx where
  cluster : Option Nat
  asid : Nat
  xroot : Nat
  supv : Bool
  deriving DecidableEq, Repr

/-- The account of a tile on a core. -/
def Region.ctx (r : Region) (cluster : Option Nat) : Ctx := ⟨cluster, r.asid, r.xroot, r.supv⟩

/-- One level of the tree (R34): its number, the low bit and width of its index, and whether it may hold leaves. -/
structure Level where
  num : Nat
  lo : Nat
  n : Nat
  leaf : Bool
  deriving DecidableEq, Repr

/-- The five levels of the page-table tree (R34). -/
def levels : List Level :=
  [⟨1, 48, 8, false⟩, ⟨2, 39, 9, false⟩, ⟨3, 30, 9, true⟩, ⟨4, 21, 9, true⟩, ⟨5, 16, 5, true⟩]

/-- log2 of the page that a leaf of a level covers (R34). -/
def pageLog (level : Nat) : Nat := if level = 3 then 30 else if level = 4 then 21 else 16

/-- Page-table entry fields (R35). -/
def pteV (e : DWord) : Bool := bits e 0 1 = 1
def pteL (e : DWord) : Bool := bits e 1 1 = 1
def pteW (e : DWord) : Bool := bits e 2 1 = 1
def pteX (e : DWord) : Bool := bits e 3 1 = 1
def pteU (e : DWord) : Bool := bits e 4 1 = 1
def pteH (e : DWord) : Bool := bits e 5 1 = 1
def pteTgt (e : DWord) : Nat := (bits e 6 2).toNat
def pteAddr (e : DWord) : Nat := (bits e 8 48).toNat * 256
def pteDev (e : DWord) : Nat := (bits e 56 8).toNat

/-- Walk the committed tables from a table down (R34, R35, R37): the level and leaf, and the leaf's own address. A walk
that reads a poisoned sector consumes it (R71). A table pointer's address is taken as it stands, aligned to its table's
size or not (log 58). -/
def walkFrom (m : Memory) (va : Nat) : List Level → Nat → Except Stop (Nat × DWord × Nat)
  | [], _ => .error (.trap .xlateNotPresent va)
  | l :: r, table =>
    let at_ := table + 8 * nbits va l.lo l.n
    if at_ + 8 > Config.memBytes then .error (.fault (.noSuchPhysical at_))
    else if m.poison.contains (at_ / 128) then .error (.trap .poisonConsumed va)
    else
      let e := BitVec.ofNat 64 (m.readNat at_ 8)
      if !pteV e then .error (.trap .xlateNotPresent va)
      else if pteL e then
        if l.leaf && pteTgt e ≠ 3 then .ok (l.num, e, at_) else .error (.trap .xlateNotPresent va)
      else if pteTgt e ≠ 0 then .error (.trap .xlateNotPresent va)
      else walkFrom m va r (pteAddr e)

/-- Walk from a translation root (R33). -/
def walk (m : Memory) (xroot va : Nat) : Except Stop (Nat × DWord × Nat) := walkFrom m va levels xroot

/-- What a map unit holds: entries of both TLBs (R40). -/
def Cluster.tlb (c : Cluster) : List TlbEnt := c.tlb1 ++ c.tlb2

/-- Keep the entries of both TLBs that pass a test. -/
def Cluster.keepTlb (p : TlbEnt → Bool) (c : Cluster) : Cluster := { c with tlb1 := c.tlb1.filter p, tlb2 := c.tlb2.filter p }

/-- Does an entry translate an address of an address space at a level? -/
def TlbEnt.covers (asid level va : Nat) (e : TlbEnt) : Bool := e.asid = asid && e.level = level && e.vpn = va / 2 ^ pageLog level

/-- The entries of a map unit that match, one for each page size, those of larger pages first (R41). -/
def tlbMatches (c : Cluster) (asid va : Nat) : List TlbEnt :=
  [3, 4, 5].filterMap fun lv => c.tlb.find? (TlbEnt.covers asid lv va)

/-- Put an entry into a TLB of a given capacity; where it is full, one entry makes room (log 18). -/
def tlbPut (cap pick : Nat) (e : TlbEnt) (l : List TlbEnt) : List TlbEnt :=
  if l.length < cap then l ++ [e] else l.eraseIdx (pick % l.length) ++ [e]

/-- Fill the first-level TLB, and on a miss of both the second-level one too (R40). -/
def Cluster.tlbFill (both : Bool) (e : TlbEnt) (c : Cluster) : Cluster :=
  { c with
    tlb1 := tlbPut Config.tlb1Entries (Config.victim c.tlbFills) e c.tlb1
    tlb2 := if both then tlbPut Config.tlb2Entries (Config.victim c.tlbFills) e c.tlb2 else c.tlb2
    tlbFills := c.tlbFills + 1 }

/-- Look a translation up in a map unit, filling it on a miss (R40, R41). The smallest page that matches is used; every
larger one is dropped and counts in MU_SPLIT (log 18). -/
def lookup (x : Ctx) (va : Nat) : Act (Nat × DWord) := do
  let s ← get
  match x.cluster with
  | none =>
    match walk s.m x.xroot va with
    | .ok (lv, e, _) => return (lv, e)
    | .error e => throw e
  | some n =>
    match (tlbMatches (s.clusterAt n) x.asid va).reverse with
    | e :: larger =>
      set (s.updCluster n fun c =>
        let c := { c.keepTlb (fun y => !larger.any fun z => y.covers x.asid z.level va) with
          muSplit := (c.muSplit + larger.length) % 2 ^ 32 }
        if c.tlb1.contains e then c else c.tlbFill false e)
      return (e.level, e.leaf)
    | [] =>
      match walk s.m x.xroot va with
      | .ok (lv, e, _) =>
        set (s.updCluster n (Cluster.tlbFill true ⟨x.asid, lv, va / 2 ^ pageLog lv, e⟩))
        return (lv, e)
      | .error e => throw e

/-- Record the address of a translation fault (R43 MU_FAULTVA). -/
def noteFault (x : Ctx) (va : Nat) : Act Unit :=
  match x.cluster with
  | none => pure ()
  | some n => modify fun s => s.updCluster n fun c => { c with muFaultVa := va % 2 ^ 56 }

/-- Codes of translation faults (R33–R38). -/
def isXlate (c : Code) : Bool := c = .xlateNotPresent || c = .xlatePermission || c = .hostOwned

/-- Fault a translation. -/
def xfault {α : Type} (x : Ctx) (c : Code) (va : Nat) : Act α := do
  if isXlate c then noteFault x va else pure ()
  trap c va

/-- Is the home of a leaf the device's own LPDDR6: a peer leaf that names the device itself is local (R35). -/
def pteLocal (devId : Nat) (e : DWord) : Bool := pteTgt e = 0 || (pteTgt e = 2 && pteDev e = devId)

/-- The location that a leaf gives an address (R35). -/
def locOf (devId level : Nat) (e : DWord) (va : Nat) : Nat :=
  let sz := 2 ^ pageLog level
  let pa := pteAddr e / sz * sz + va % sz
  if pteTgt e = 1 then 2 ^ 56 + pa
  else if pteTgt e = 2 ∧ !pteLocal devId e then (2 + pteDev e) * 2 ^ 56 + pa
  else pa

/-- Is the location in the device's own LPDDR6? -/
def isLocal (loc : Nat) : Bool := decide (loc < 2 ^ 56)
/-- Is the location on the host? -/
def isHost (loc : Nat) : Bool := decide (2 ^ 56 ≤ loc ∧ loc < 2 ^ 57)

/-- Translate an access (R33–R39): its location, or a fault, a hold, or a wait for a page flipping to the host. -/
def translate (x : Ctx) (acc : Acc) (va : Nat) : Act Nat := do
  if va ≥ 2 ^ 56 then xfault x .xlateNotPresent va
  else
    let r ← attempt (lookup x va)
    match r with
    | .error (.trap c v) => xfault x c v
    | .error e => throw e
    | .ok (lv, e) =>
      let s ← get
      if (acc = .write && !pteW e) || (acc = .exec && !pteX e) || (!x.supv && !pteU e) then
        xfault x .xlatePermission va
      else
        let page := va / 2 ^ pageLog lv * 2 ^ pageLog lv
        if pteH e then throw (.held x.asid page va)
        else if acc = .write && s.m.hostFlips.any (fun f => f.asid = x.asid ∧ f.va = page) then waitFor .memory
        else
          let loc := locOf s.devId lv e va
          if isLocal loc && decide (loc ≥ Config.memBytes) then throw (.fault (.noSuchPhysical loc))
          else return loc

/-! Loads. -/

/-- Fill a line of the remote-data cache; where it is full, one line makes room (R52, R59; log 18). -/
def Memory.rdcFill (base : Nat) (bytes : List Byte) (m : Memory) : Memory :=
  let l := m.rdc.filter fun l => l.loc ≠ base
  { m with
    rdc := ⟨base, m.pubCount, bytes⟩ :: (if l.length < Config.rdcLines then l else l.eraseIdx (Config.victim m.rdcFills % l.length))
    rdcFills := m.rdcFills + 1 }

/-- Bytes homed on the host or on a peer: the cached line if it was filled at or after the floor, else a fill from
the home, which for a peer is a request (R57, R59). -/
def remoteByte (floor va loc : Nat) : Act Byte := do
  let s ← get
  let base := loc / 256 * 256
  let hit := s.m.rdc.find? fun l => l.loc = base ∧ !later l.stamp floor
  match hit with
  | some l => return l.bytes.getD (loc % 256) 0
  | none =>
    if isHost loc then
      let bytes := (upto base 256).map fun a => SMap.get 0 s.m.remote a
      set { s with m := s.m.rdcFill base bytes }
      return bytes.getD (loc % 256) 0
    else
      match s.fab.peerFails.find? fun e => e.1 = base with
      | some (_, code) =>
        set { s with fab := { s.fab with peerFails := s.fab.peerFails.filter fun e => e.1 ≠ base } }
        trap code va
      | none => if routeLinks s (peerDev loc) = 0 then trap .xlateNotPresent va else throw (.peer base)

/-- A byte that a load by the tile returns (R53, R57): its own latest write, else the snapshot's or the remote value; a
free one on a page that holds an unexchanged shadow (12 R368). -/
def tileByte (floor : Nat) (t : Tile) (va loc : Nat) : Act Byte := do
  let s ← get
  if s.m.shadows.contains (loc / 0x1_0000) then drawByte
  else
    match SMap.find t.ver.bytes loc with
    | some b => return b
    | none =>
      if isLocal loc then
        if s.m.poisonedAt t.start loc then trap .poisonConsumed va
        else if let some b := SMap.find t.seen loc then return b
        else return s.m.byteAt t.start loc
      else remoteByte floor va loc

/-- Translate an access of the tile on core `c` to where its phase finds the address (R53, R69). -/
def tilePlace (c : Nat) (acc : Acc) (va : Nat) : Act Nat := do
  let t ← tileOf c
  let loc ← translate (t.reg.ctx (some (clusterOf c))) acc va
  let s ← get
  return s.m.view t.start t.reg.asid va loc

/-- Load `n` bytes that lie in one page as a load of core `c` (R53, R133). -/
def loadBytes (c va n : Nat) : Act (List Byte) := do
  let t ← tileOf c
  let loc ← tilePlace c .read va
  let s ← get
  collect (upto loc n) fun a => tileByte (s.coreOf c).rdcFloor t (va + (a - loc)) a

/-- Load bytes that may cross pages, in runs that stay inside 64 KiB. -/
def loadRange (c va n : Nat) : Act (List Byte) := do
  let first := Nat.min n (0x1_0000 - va % 0x1_0000)
  let a ← loadBytes c va first
  let rest ← collect (upto 0 ((n - first + 0xFFFF) / 0x1_0000)) fun i =>
    loadBytes c (va + first + i * 0x1_0000) (Nat.min 0x1_0000 (n - first - i * 0x1_0000))
  return a ++ rest.flatten

/-- Read committed bytes that lie in one page on a block's or a region's own account (R517). -/
def readPage (x : Ctx) (va n : Nat) : Act (List Byte) := do
  let loc ← translate x .read va
  let s ← get
  if isLocal loc then
    match (upto 0 n).find? fun i => s.m.poison.contains ((loc + i) / 128) with
    | some i => trap .poisonConsumed (va + i)
    | none =>
      if s.m.shadows.contains (loc / 0x1_0000) then collect (upto 0 n) fun _ => drawByte
      else return s.m.readN loc n
  else collect (upto loc n) fun a => remoteByte 0 (va + (a - loc)) a

/-- Read committed bytes on a block's or a region's own account, in runs that stay inside 64 KiB (R517). -/
def readAs (x : Ctx) (va n : Nat) : Act (List Byte) := do
  let first := Nat.min n (0x1_0000 - va % 0x1_0000)
  let a ← readPage x va first
  let rest ← collect (upto 0 ((n - first + 0xFFFF) / 0x1_0000)) fun i =>
    readPage x (va + first + i * 0x1_0000) (Nat.min 0x1_0000 (n - first - i * 0x1_0000))
  return a ++ rest.flatten

/-! Open versions. -/

/-- Sectors that a version holds (R62). -/
def verSectors (v : Version) : Nat := ((v.bytes.map fun e => e.1 / 128).eraseDups).length

/-- Bytes that the open versions of a region's tiles hold and reserve (R62). -/
def regionVerBytes (s : State) (region : Nat) : Nat :=
  (((openTiles s).filter fun t => t.reg.id = region).map fun t => verSectors t.ver * 128 + t.ver.reserved).sum

/-- What a store or a publication makes of the state; where it needs room in a full overflow area it waits (R52). -/
def takeRoom (u : State) : Act Unit := do
  let s ← get
  if overflowAllows s u then set u else waitFor .memory

/-- Put located bytes into a version; `via` pairs locations with the addresses through which their pages are written. -/
def Version.write (v : Version) (via : List (Nat × Nat)) (l : List (Nat × Byte)) : Version :=
  { v with
    bytes := l.foldl (fun b e => SMap.put b e.1 e.2) v.bytes
    via := via.foldl (fun m e => SMap.put m (e.1 / 0x1_0000) (e.2 / 0x1_0000)) v.via }

/-- Write located bytes into the open version of the tile on core `c`; beyond VER_BYTES it traps PHASE_OVERFLOW
(R54, R62). -/
def versionWrite (c va : Nat) (via : List (Nat × Nat)) (l : List (Nat × Byte)) : Act Unit := do
  let t ← tileOf c
  let s ← get
  let t' := { t with ver := t.ver.write via l }
  let u := s.updCore c fun k => { k with tile := k.tile.map fun _ => t' }
  let grown := (verSectors t'.ver - verSectors t.ver) * 128
  if grown > 0 && decide (regionVerBytes s t.reg.id + grown > t.reg.verBytes) then trap .phaseOverflow va
  else takeRoom u

/-- Store bytes that lie in one page (R133). -/
def storeBytes (c va : Nat) (l : List Byte) : Act Unit := do
  let loc ← tilePlace c .write va
  versionWrite c va [(loc, va)] (placed loc l)

/-- Bytes by location after locations have moved. -/
def movedBytes (f : Nat → Nat) (l : SMap Byte) : SMap Byte := l.foldl (fun m e => SMap.put m (f e.1) e.2) []

/-- Where a byte of a tile's open version belongs now: with the address through which its page was written (R69; log 39). -/
def Memory.placeOf (m : Memory) (t : Tile) (loc : Nat) : Nat :=
  match SMap.find t.ver.via (loc / 0x1_0000) with
  | some p => m.place t.start t.reg.asid (p * 0x1_0000) loc
  | none => loc

/-- A tile's open version as the page tables place it now (R54, R69). -/
def Memory.versionNow (m : Memory) (t : Tile) : SMap Byte :=
  if m.swaps.isEmpty then t.ver.bytes else movedBytes (m.placeOf t) t.ver.bytes

/-! Near-atomic lines and atomics (R64–R66). -/

/-- Does a cluster other than `cluster` pin the line of a location? -/
def pinnedElsewhere (s : State) (cluster : Option Nat) (loc : Nat) : Bool :=
  s.clusters.any fun e => some e.1 ≠ cluster && e.2.near.any fun l => l.line = loc / 256

/-- Release lines of a cluster to their homes with one stamp, each charged to the region that wrote it last (R65, R71). -/
def releaseLines (cluster : Nat) (p : NearLine → Bool) (s : State) : State :=
  let c := s.clusterAt cluster
  let go := c.near.filter p
  if go.isEmpty then s
  else
    let s := s.updCluster cluster fun c => { c with near := c.near.filter fun l => !p l }
    let s := commitLocal none ((go.map (·.bytes)).flatten) s
    { s with m := go.foldl (fun m l => m.charge l.region l.bytes) s.m }

/-- The committed or pinned value that an atomic of a cluster sees. -/
def nearByte (s : State) (cluster loc : Nat) : Byte :=
  match (s.clusterAt cluster).near.find? fun l => l.line = loc / 256 with
  | some l => (SMap.find l.bytes loc).getD (s.m.byte loc)
  | none => s.m.byte loc

/-- Pin a line, releasing the least recently used one where the unit is full (R65), and write bytes into it. -/
def pinWrite (cluster region loc : Nat) (l : List (Nat × Byte)) (s : State) : State :=
  let line := loc / 256
  let had := (s.clusterAt cluster).near.find? fun x => x.line = line
  let s :=
    match had with
    | some _ => s
    | none =>
      match (s.clusterAt cluster).near with
      | old :: _ =>
        if (s.clusterAt cluster).near.length ≥ Config.nearLines then
          releaseLines cluster (fun x => x.line = old.line) s
        else s
      | [] => s
  let bytes := l.foldl (fun b e => SMap.put b e.1 e.2) ((had.map (·.bytes)).getD [])
  s.updCluster cluster fun c => { c with near := c.near.filter (fun x => x.line ≠ line) ++ [⟨line, region, bytes⟩] }

/-- Scopes of atomics and fences (R64). -/
inductive Scope
  | core | cluster | device | system
  deriving DecidableEq, Repr

/-- The value that an atomic on `n` local bytes reads for an agent of `cluster`: pinned or committed; free bytes on a
page that holds an unexchanged shadow (12 R368). -/
def atomicOld (cluster : Nat) (near : Bool) (loc n : Nat) : Act Nat := do
  let s ← get
  if s.m.shadows.contains (loc / 0x1_0000) then return ofBytes (← collect (upto 0 n) fun _ => drawByte)
  else return if near then ofBytes ((upto loc n).map (nearByte s cluster)) else s.m.readNat loc n

/-- Perform one indivisible atomic on `n` local bytes for an agent of `cluster`: `f` forms the new value, or none
where nothing is written; the old value is returned (R64–R67). -/
def atomicLocal (cluster : Nat) (region : Nat) (scope : Scope) (loc n va : Nat) (f : Nat → Option Nat) : Act Nat := do
  let s ← get
  if pinnedElsewhere s (some cluster) loc then throw (.refused va)
  else if s.m.poison.contains (loc / 128) then trap .poisonConsumed va
  else if scope = .core || scope = .cluster then
    let old ← atomicOld cluster true loc n
    modify (pinWrite cluster region loc (placed loc (bytesOf n ((f old).getD old))))
    return old
  else
    modify (releaseLines cluster fun x => x.line = loc / 256)
    let old ← atomicOld cluster false loc n
    modify (commitLocal (some region) (placed loc (bytesOf n ((f old).getD old))))
    return old

/-! Publication (R54, R55, R69). -/

/-- Of a version's bytes, those homed here. -/
def localBytes (l : SMap Byte) : SMap Byte := l.filter fun e => isLocal e.1
/-- Of a version's bytes, those homed on the host or on peers. -/
def remoteBytes (l : SMap Byte) : SMap Byte := l.filter fun e => !isLocal e.1

/-- Write bytes through to the host, and update cached lines of remote homes (R55, R59). -/
def writeRemote (l : List (Nat × Byte)) (m : Memory) : Memory :=
  { m with
    unstamped := m.unstamped + 1
    remote := (l.filter fun e => isHost e.1).foldl (fun r e => SMap.put r e.1 e.2) m.remote
    rdc := m.rdc.map fun x => { x with
      bytes := (upto 0 x.bytes.length).map fun i =>
        ((l.find? fun e => e.1 = x.loc + i).map (·.2)).getD (x.bytes.getD i 0) } }

/-- Write bytes through to their remote homes: the host's memory at once, a peer's by requests (R55, 13 R384). -/
def commitRemote (tile : Option OnTile) (l : List (Nat × Byte)) (s : State) : State :=
  writePeers tile l { s with m := writeRemote l s.m }

/-- Does a byte lie on a peer to which no link leads (13 R383)? -/
def unroutable (s : State) (loc : Nat) : Bool := decide (2 ^ 57 ≤ loc) && routeLinks s (peerDev loc) = 0

/-- Leaf of a 64 KiB page: its address and value, or none (R69). -/
def leaf64 (m : Memory) (xroot va : Nat) : Option (Nat × DWord) :=
  match walk m xroot va with
  | .ok (5, e, at_) => some (at_, e)
  | _ => none

/-- The committed writes that exchange the ADDR fields of two leaves (R69). -/
def exchangeLeaves (a b : Nat × DWord) : List (Nat × Byte) :=
  let put := fun (x y : DWord) => setNbits x.toNat 8 48 (bits y 8 48).toNat
  placed a.1 (bytesOf 8 (put a.2 b.2)) ++ placed b.1 (bytesOf 8 (put b.2 a.2))

/-- Exchange one pair of pages under the stamp just taken: tables, history of exchanges and TLB entries (R69). -/
def exchangePage (x : Exchange) (off : Nat) (s : State) : State :=
  match leaf64 s.m x.xroot (x.dst + off), leaf64 s.m x.xroot (x.shadow + off) with
  | some a, some b =>
    let l := exchangeLeaves a b
    let old := l.foldl (fun o e => SMap.put o e.1 (s.m.byte e.1)) ([] : SMap Byte)
    let m := Memory.setBytes s.m l
    { s with
      m := { m with
        history := { stamp := m.pubCount, old := old } :: m.history
        swaps := ⟨m.pubCount, x.asid, x.dst + off, x.shadow + off, pteAddr a.2 / 0x1_0000 * 0x1_0000, pteAddr b.2 / 0x1_0000 * 0x1_0000⟩ :: m.swaps }
      clusters := s.clusters.map fun e => (e.1, e.2.keepTlb fun t => !(t.asid = x.asid &&
          (t.vpn * 2 ^ pageLog t.level = x.dst + off || t.vpn * 2 ^ pageLog t.level = x.shadow + off))) }
  | _, _ => s

/-- Put what a copy wrote into its shadow pages (12 R368); they are ordinary pages again. -/
def settleShadow (x : Exchange) (bytes : SMap Byte) (s : State) : State :=
  { s with m := { (s.m.putBytes bytes).charge x.region bytes with shadows := s.m.shadows.filter fun p => !x.pages.contains p } }

/-- Exchange the ranges of a CPYS, page by page. -/
def exchangeAll : List Exchange → State → State
  | [], s => s
  | x :: r, s =>
    exchangeAll r ((upto 0 (x.len / 0x1_0000)).foldl (fun s i => exchangePage x (i * 0x1_0000) s) (settleShadow x x.bytes s))

/-- What a tile's publication makes of the state (R54, R55, R65, R69): pinned lines of the cluster are released, the
version is committed, pages are exchanged, and the tile's next phase begins. -/
def committed (c : Nat) (t : Tile) (s : State) : State :=
  let v := s.m.versionNow t
  let s := releaseLines (clusterOf c) (fun _ => true) s
  let s := commitLocal (some t.reg.id) (localBytes v) s
  let s := commitRemote (some ⟨t.reg.id, t.nid, t.ord, c⟩) (remoteBytes v) s
  let s := exchangeAll t.exchanges s
  pruneHistory (s.updCore c fun k => { k with tile := k.tile.map fun t => { t with
    ver := { t.ver with bytes := [], via := [], reserved := 0 }
    exchanges := []
    tagUpdates := []
    start := s.m.pubCount
    seen := []
    press := none } })

/-- Commit the open version of the tile on core `c` in one step and start a new phase (R53–R55). A line pinned by
another cluster refuses it (R66); a full overflow area makes it wait (R52). -/
def commitVersion (c : Nat) : Act Unit := do
  let t ← tileOf c
  let s ← get
  let v := s.m.versionNow t
  if v.any (fun e => unroutable s e.1) then trap .xlateNotPresent 0
  else if (localBytes v).any (fun e => pinnedElsewhere s (some (clusterOf c)) e.1) then throw (.refused 0)
  else takeRoom (committed c t s)

/-- Begin a new phase without publishing (R53, 05 R147): what the tile has written stays with its addresses. -/
def newPhase (c : Nat) : Act Unit := do
  let s ← get
  set (pruneHistory (s.updCore c fun k => { k with tile := k.tile.map fun t => { t with
    ver := { t.ver with
      bytes := s.m.versionNow t
      via := if s.m.swaps.isEmpty then t.ver.via
        else t.ver.via.foldl (fun v e => SMap.put v (s.m.place t.start t.reg.asid (e.2 * 0x1_0000) (e.1 * 0x1_0000) / 0x1_0000) e.2) [] }
    start := s.m.pubCount, seen := [], press := none } }))

/-- What a phase keeps of places that are overwritten without a stamp (R57). -/
def Memory.keepSeen (m : Memory) (start : Nat) (l : List (Nat × Byte)) (seen : SMap Byte) : SMap Byte :=
  l.foldl (fun k e => if (SMap.find k e.1).isSome then k else SMap.put k e.1 (m.byteAt start e.1)) seen

/-- A core's open phases keep what they read of places that are overwritten without a stamp. -/
def Core.keepSeen (m : Memory) (l : List (Nat × Byte)) (k : Core) : Core :=
  { k with
    tile := k.tile.map fun t => { t with seen := m.keepSeen t.start l t.seen }
    copies := k.copies.map fun x => { x with own := m.keepSeen x.start l x.own } }

/-- Write local bytes without a stamp (R55): phases that are open go on reading what was there (R57). `writer` is the
region charged, none where no region of this device wrote them (R71; log 17). -/
def writeUnstamped (writer : Option Nat) (l : List (Nat × Byte)) (s : State) : State :=
  let m := { s.m.putBytes l with unstamped := s.m.unstamped + 1 }
  { s with
    cores := s.cores.map fun e => (e.1, e.2.keepSeen s.m l)
    ns := { s.ns with saved := s.ns.saved.map fun x => { x with core := x.core.keepSeen s.m l } }
    m := match writer with
      | some r => m.charge r l
      | none => { m with writer := m.writer.filter fun w => !l.any fun e => e.1 / 128 = w.1 } }

/-! Scratchpad and windows (R44–R49). -/

/-- A scratchpad byte. -/
def Core.spByte (k : Core) (a : Nat) : Byte := SMap.get 0 k.sp a

/-- Scratchpad bytes. -/
def Core.spRead (k : Core) (a n : Nat) : List Byte := (upto a n).map k.spByte

/-- Offsets that a core watches, among some that are written (16 R471). -/
def Core.watched (k : Core) (l : List Nat) : List Nat :=
  match k.watch with
  | some (lo, hi) => l.filter fun a => decide (lo ≤ a ∧ a < hi)
  | none => []

/-- Write scratchpad bytes; a sector written whole is no longer poisoned (log 6). -/
def Core.spWrite (k : Core) (a : Nat) (l : List Byte) : Core :=
  { k with
    soiled := k.watched (upto a l.length) ++ k.soiled
    sp := (placed a l).foldl (fun m e => SMap.set 0 m e.1 e.2) k.sp
    spPoison := k.spPoison.filter fun p => !(decide (a ≤ p * 128) && decide (p * 128 + 128 ≤ a + l.length)) }

/-- Descriptor fields (R45). -/
def winVbase (d : QWord) : Nat := (bits d 72 44).toNat * 4096
def winLen (d : QWord) : Nat := (bits d 22 10).toNat
def winSoff (d : QWord) : Nat := (bits d 13 9).toNat
def winLive (d : QWord) : Bool := bits d 7 1 = 1
def winMode (d : QWord) : Nat := (bits d 0 3).toNat

/-- Window modes by number (R45). -/
def modeSnap : Nat := 0
def modeRw : Nat := 1
def modeNofill : Nat := 2
def modeMq : Nat := 3
def modeLocal : Nat := 4

/-- The installed window that holds a scratchpad chunk. -/
def Core.windowAt (k : Core) (chunk : Nat) : Option (Nat × Window) :=
  k.windows.find? fun e => winSoff e.2.desc ≤ chunk && decide (chunk < winSoff e.2.desc + winLen e.2.desc)

/-- State of a scratchpad chunk. -/
def Core.chunk (k : Core) (n : Nat) : Chunk := SMap.get {} k.chunks n

/-- Change a chunk. -/
def Core.updChunk (k : Core) (n : Nat) (f : Chunk → Chunk) : Core := { k with chunks := SMap.put k.chunks n (f (k.chunk n)) }

/-- Virtual address of a chunk of a window. -/
def chunkVa (d : QWord) (chunk : Nat) : Nat := winVbase d + (chunk - winSoff d) * 4096

/-- A window address that passes 2⁵⁶ faults (R45), and the map unit notes it (R43). -/
def pastEnd (c va n : Nat) : Act Unit :=
  if va + n > 2 ^ 56 then xfault ⟨some (clusterOf c), 0, 0, true⟩ .xlateNotPresent va else pure ()

/-- Start the fill of an unfilled chunk with the values that a load returns now (R47). Poison found in the source is
a fault of the fill. TRAP_VA of a fill's fault is the chunk's virtual address (10 R311). -/
def startFill (c : Nat) (d : QWord) (chunk : Nat) : Act Unit := do
  let va := chunkVa d chunk
  pastEnd c va 4096
  let r ← attempt (loadRange c va 4096)
  match r with
  | .ok l => modCoreAt c fun k => k.updChunk chunk fun x => { x with run := .filling, fill := l }
  | .error (.trap .poisonConsumed _) =>
    modCoreAt c fun k => k.updChunk chunk fun x => { x with run := .filling, fill := [], fault := some .poisonConsumed }
  | .error (.trap code _) => trap code va
  | .error e => throw e

/-- Touch the chunks that hold bytes [a, a + n): an unfilled chunk of a window waits for its fill, a fill fault traps
(R46, R47). A NOFILL window has one only after a save (06 R193). -/
def touchChunks (c a n : Nat) : Act Unit :=
  each (upto (a / 4096) ((a + n + 4095) / 4096 - a / 4096)) fun chunk => do
    let s ← get
    let k := s.coreOf c
    match k.windowAt chunk with
    | none => pure ()
    | some (_, w) =>
      if winMode w.desc = modeSnap || winMode w.desc = modeRw || winMode w.desc = modeNofill then
        let x := k.chunk chunk
        match x.run with
        | .valid => pure ()
        | .filling => waitFor .memory
        | .unfilled =>
          match x.fault with
          | some code =>
            modCoreAt c fun k => k.updChunk chunk fun y => { y with fault := none }
            trap code (chunkVa w.desc chunk)
          | none =>
            startFill c w.desc chunk
            waitFor .memory
      else pure ()

/-- Check a scratchpad range against the tile's allocation (R44). -/
def spCheck (c a n : Nat) : Act Unit := do
  let t ← tileOf c
  trapIf (decide (a + n > t.reg.spTile || a + n > Config.scratchBytes)) .scratchRange a

/-- Read scratchpad bytes of a range already checked (R46): windows, poison. -/
def spFetch (c a n : Nat) : Act (List Byte) := do
  touchChunks c a n
  let s ← get
  let k := s.coreOf c
  match (upto (a / 128) ((a + n + 127) / 128 - a / 128)).find? k.spPoison.contains with
  | some sec => trap .poisonConsumed (Nat.max a (sec * 128))
  | none => return k.spRead a n

/-- Read scratchpad bytes as a sequencer does (R44, R46): range, windows, poison. -/
def spLoad (c a n : Nat) : Act (List Byte) := do
  spCheck c a n
  spFetch c a n

/-- Set the dirty bits of the sectors that hold [a, a + n) in windows that are written back (R46). -/
def dirtySectors (k : Core) (a n : Nat) : Core :=
  (upto (a / 128) ((a + n + 127) / 128 - a / 128)).foldl (fun k sec =>
    match k.windowAt (sec / 32) with
    | some (_, w) =>
      if winMode w.desc = modeRw || winMode w.desc = modeNofill then
        k.updChunk (sec / 32) fun x => { x with dirty := x.dirty ||| ((1 : BitVec 32) <<< (sec % 32)) }
      else k
    | none => k) k

/-- Does a store to [a, a + n) meet a SNAP window (R46)? -/
def hitsSnap (k : Core) (a n : Nat) : Bool :=
  (upto (a / 4096) ((a + n + 4095) / 4096 - a / 4096)).any fun ch =>
    match k.windowAt ch with
    | some (_, w) => winMode w.desc = modeSnap
    | none => false

/-- Write scratchpad bytes as a sequencer does (R44, R46). -/
def spStore (c a : Nat) (l : List Byte) : Act Unit := do
  let s ← get
  trapIf (hitsSnap (s.coreOf c) a l.length) .xlatePermission a
  spCheck c a l.length
  touchChunks c a l.length
  modCoreAt c fun k => dirtySectors (k.spWrite a l) a l.length

/-- Write back one dirty sector of a chunk into the open version at its virtual address (R48). -/
def writeBackSector (c : Nat) (d : QWord) (chunk sec : Nat) : Act Unit := do
  let s ← get
  let k := s.coreOf c
  if bits (k.chunk chunk).dirty sec 1 = 1 then
    let va := chunkVa d chunk + sec * 128
    pastEnd c va 128
    storeBytes c va (k.spRead (chunk * 4096 + sec * 128) 128)
    modCoreAt c fun k => k.updChunk chunk fun x => { x with dirty := x.dirty &&& ~~~((1 : BitVec 32) <<< sec) }
  else pure ()

/-- Write back the dirty sectors of chunks of a window; of several faults the lowest code is thrown (R48, 01 R31). -/
def writeBackChunks (c : Nat) (d : QWord) (chunks : List Nat) : Act Unit :=
  if winMode d = modeRw || winMode d = modeNofill then
    eachWorst chunks fun ch => eachWorst (upto 0 32) fun sec => writeBackSector c d ch sec
  else pure ()

/-- Write back every window in ascending number (R48). -/
def writeBackAll (c : Nat) : Act Unit := do
  let s ← get
  eachWorst (s.coreOf c).windows fun e => writeBackChunks c e.2.desc (upto (winSoff e.2.desc) (winLen e.2.desc))

end Sys2Proof.Machine
end

