-- ==== Sys2Proof/Machine/Regions.lean ====
section
/-! DEFINITION. Region control blocks, their inheritance, and accesses on a region's account (06 R166–R168, 02 R38,
R517). -/

namespace Sys2Proof.Machine

/-- A region control block from its 256 bytes (R167). -/
def regionBlockOf (l : List Byte) : RegionBlock :=
  let at_ := fun o n => ofBytes ((l.drop o).take n)
  { parent := nbits (at_ 0x00 2) 0 12
    flags := at_ 0x02 2
    prio := at_ 0x04 1
    cores := at_ 0x05 1
    saveSlots := at_ 0x06 1
    override := at_ 0x08 4
    spTile := at_ 0x10 4
    xsBytes := at_ 0x14 4
    leaseBytes := at_ 0x18 4
    verBytes := nbits (at_ 0x20 8) 0 48
    xroot := nbits (at_ 0x28 8) 11 45 * 2 ^ 11
    shapes := at_ 0x30 8
    saveBase := at_ 0x38 8
    fdNest := at_ 0x40 8
    fqBase := at_ 0x48 8
    fqEntries := at_ 0x50 4
    watchdog := at_ 0x54 4
    yieldDl := at_ 0x58 4
    absence := at_ 0x60 16
    prefetch := at_ 0x70 8 }

/-- The block of a region in memory. -/
def blockInMemory (s : State) (i : Nat) : RegionBlock := regionBlockOf (s.m.readN (s.ns.rbase + 256 * i) 256)

/-- The scheduler's copy of a block, or the block in memory where it keeps none (R166). -/
def regionBlock (s : State) (i : Nat) : RegionBlock :=
  match SMap.find s.ns.regions i with
  | some b => b
  | none => blockInMemory s i

/-- FLAGS of a block (R167). -/
def blockValid (b : RegionBlock) : Bool := nbits b.flags 0 1 = 1
def blockSupv (b : RegionBlock) : Bool := nbits b.flags 1 1 = 1

/-- The region and its ancestors up to region 0, itself first; none where the chain is invalid (R168). -/
def regionChain (s : State) : Nat → Nat → Option (List (Nat × RegionBlock))
  | 0, _ => none
  | fuel + 1, i =>
    let b := regionBlock s i
    if !blockValid b then none
    else if i = 0 then some [(0, b)]
    else (regionChain s fuel b.parent).map ((i, b) :: ·)

/-- The block that gives field group `i`: the nearest in the chain that overrides it, or the root (R168). -/
def groupOwner (i : Nat) : List (Nat × RegionBlock) → Nat × RegionBlock
  | [] => (0, {})
  | [e] => e
  | e :: r => if nbits e.2.override i 1 = 1 then e else groupOwner i r

/-- A region's effective values; `valid` is false where its chain is invalid (R168). SP_TILE and SAVE_BASE are taken as
they stand (log 58). -/
def effRegion (s : State) (i : Nat) : Region :=
  match regionChain s 4096 i with
  | none => { id := i }
  | some ch =>
    let g := fun n => (groupOwner n ch).2
    let fl := (g 16).flags
    { id := i
      valid := true
      supv := ch.all fun e => blockSupv e.2
      haf := nbits fl 2 1 = 1
      late := nbits fl 3 1 = 1
      overrun := nbits fl 4 1 = 1
      prio := nbits (g 0).prio 0 4
      maxPrio := Nat.max (nbits (g 0).prio 4 4) (nbits (g 0).prio 0 4)
      cores := Nat.min (g 1).cores Config.cores
      saveSlots := (g 2).saveSlots
      spTile := (g 3).spTile
      xsBytes := (g 4).xsBytes
      leaseBytes := (g 5).leaseBytes
      verBytes := (g 6).verBytes
      xroot := (g 7).xroot
      asid := (groupOwner 7 ch).1
      shapes := (g 8).shapes
      saveBase := (g 9).saveBase
      fdNest := (g 10).fdNest
      fqBase := (g 11).fqBase
      fqEntries := (g 11).fqEntries
      watchdog := (g 12).watchdog
      yieldDl := if (g 13).yieldDl = 0 then 20000 else (g 13).yieldDl
      absence := (g 14).absence
      prefetch := (g 15).prefetch
      chain := ch.map (·.1) }

/-- Keep copies of a region's block and of its ancestors' where none is kept yet, at most so many (R166). -/
def keepChain : Nat → Nat → State → State
  | 0, _, s => s
  | fuel + 1, i, s =>
    let b := regionBlock s i
    let s := if (SMap.find s.ns.regions i).isSome then s else { s with ns := { s.ns with regions := SMap.put s.ns.regions i b } }
    if i = 0 then s else keepChain fuel b.parent s

/-- Keep copies of the block of a valid region that is used from now on, and of its ancestors' (R166; log 57). -/
def keepBlocks (i : Nat) (s : State) : State :=
  if (regionChain s 4096 i).isSome then keepChain 4096 i s else s

/-- A region's effective values, from blocks that are kept from now on (R166). -/
def useRegion (i : Nat) : Act Region := do
  modify (keepBlocks i)
  let s ← get
  return effRegion s i

/-- Write committed values with a stamp on a block's own account (R517, R170), as device-scope atomics are written; a
peer to which no link leads cannot be written (13 R383). -/
def writeAs (x : Ctx) (region va : Nat) (l : List Byte) : Act Unit := do
  let loc ← translate x .write va
  let s ← get
  if isLocal loc then set (commitLocal (some region) (placed loc l) s)
  else if unroutable s loc then trap .xlateNotPresent va
  else set (commitRemote (some (onBlock region)) (placed loc l) s)

/-- Post a flip request to the samovar unless the page has one (02 R38, 18 R512). -/
def requestFlip (asid va : Nat) (s : State) : State :=
  if s.m.flips.any fun f => f.asid = asid ∧ f.va = va then s
  else { s with
    m := { s.m with flips := { asid := asid, va := va, since := s.cycle } :: s.m.flips }
    sv := { s.sv with flip := s.sv.flip ++ [(asid, va)] } }

/-- Has the flip of a page failed: the host has declined it, or its limit has passed (02 R38)? -/
def flipFailed (s : State) (asid page : Nat) : Bool :=
  s.m.flips.any fun f => f.asid = asid && f.va = page && (f.declined || decide (f.since + s.m.flipLimit ≤ s.cycle))

/-- Drop the flip request for a page. -/
def dropFlip (asid va : Nat) : Act Unit :=
  modMem fun m => { m with flips := m.flips.filter fun f => !(f.asid = asid && f.va = va) }

/-- Do an access on the region's account: a fault leaves it undone and is answered. Where a page has to be flipped first
it waits, until the flip has failed (02 R38). -/
def portTry {α : Type} (a : Act α) : Act (Except (Code × Nat) α) := do
  match ← attemptUndo a with
  | .ok v => return .ok v
  | .error (.trap code va) => return .error (code, va)
  | .error (.held asid page va) =>
    let s ← get
    if flipFailed s asid page then
      dropFlip asid page
      return .error (.hostOwned, va)
    else throw (.held asid page va)
  | .error e => throw e

end Sys2Proof.Machine
end

