-- ==== Sys2Proof/Machine/Nests.lean ====
section
/-! DEFINITION. Nest records, the scheduler's table, enqueueing, the walk of the tile space, dependences, commit of
tiles (06 R172–R186, R199–R203, R518). -/

namespace Sys2Proof.Machine

/-- A little-endian field of a record. -/
def field (l : List Byte) (o n : Nat) : Nat := ofBytes ((l.drop o).take n)

/-- A nest record from its 128 bytes (R172, R173). -/
def nestRecOf (l : List Byte) : NestRec :=
  let c := field l 0 8
  { region := nbits c 0 12
    ndim := nbits c 12 2 + 1
    order := nbits c 16 8
    cohort := nbits c 24 1 = 1
    pdep := nbits c 25 1 = 1
    aff := nbits c 32 16
    pa := nbits c 48 16
    pb := sval 32 (field l 0x4C 4)
    prod := field l 0x36 2
    code := field l 0x08 8
    entry := (upto 0 16).map fun i => field l (0x10 + 2 * i) 2
    ends := (upto 0 3).map fun i => field l (0x30 + 2 * i) 2
    tmpl := field l 0x38 8
    ext := (upto 0 4).map fun i => field l (0x40 + 2 * i) 2
    trip := field l 0x48 4
    dep0 := BitVec.ofNat 64 (field l 0x50 8)
    dep1 := BitVec.ofNat 64 (field l 0x58 8)
    args := (upto 0 4).map fun i => BitVec.ofNat 64 (field l (0x60 + 8 * i) 8) }

/-- Extent of a dimension; 1 above NDIM (R178). -/
def NestRec.extent (r : NestRec) (d : Nat) : Nat := if d < r.ndim then r.ext.getD d 0 else 1

/-- The tile count T (R178). -/
def NestRec.tiles (r : NestRec) : Nat := ((upto 0 4).map r.extent).foldl (· * ·) 1

/-- ORDER[2j + 1 : 2j] (R173). -/
def NestRec.ord (r : NestRec) (j : Nat) : Nat := nbits r.order (2 * j) 2

/-- Indices of ordinal `t` (R178): a map from dimension to index. -/
def NestRec.indices (r : NestRec) (t : Nat) : SMap Nat :=
  ((upto 0 4).foldl (fun (x : Nat × SMap Nat) j =>
    let d := r.ord j
    (x.1 / r.extent d, SMap.put x.2 d (x.1 % r.extent d))) (t, [])).2

/-- Entry k of sequencer q as an address (R172). -/
def NestRec.entryAt (r : NestRec) (q : Seq) (k : Nat) : Nat := r.code + 4 * r.entry.getD (4 * seqNum q + k) 0

/-- The halfword of entry k of sequencer q. -/
def NestRec.entryHalf (r : NestRec) (q : Seq) (k : Nat) : Nat := r.entry.getD (4 * seqNum q + k) 0

/-- END of LD, CMP or ST as an address (R172). -/
def NestRec.endAt (r : NestRec) (q : Seq) : Nat := r.code + 4 * r.ends.getD (seqNum q - 1) 0

/-- Fields of a dependence (R174). -/
def depEn (d : DWord) : Bool := bits d 63 1 = 1
def depKind (d : DWord) : Nat := (bits d 61 1).toNat
def depUnit (d : DWord) : Nat := (bits d 54 7).toNat
def depSem (d : DWord) : Nat := (bits d 48 6).toNat
def depNeed (d : DWord) (t : Nat) : Nat := Nat.min ((bits d 0 32).toNat + (bits d 32 16).toNat * t) (2 ^ 48 - 1)

/-- The semaphore a dependence reads; a core that holds no tile reads 0 (01 R515). -/
def depValue (s : State) (d : DWord) : Nat :=
  if depKind d = 0 then
    let k := s.coreOf (depUnit d)
    if k.tile.isSome then (SMap.get 0 k.sem (depSem d)).toNat else 0
  else (SMap.get 0 (s.clusterAt (depUnit d)).xsem (depSem d)).toNat

/-- Is a dependence met for tile `t` (R174)? -/
def depMet (s : State) (d : DWord) (t : Nat) : Bool := !depEn d || decide (depNeed d t ≤ depValue s d)

/-- Reserved bits of a nest record that must be zero (R173, R174, R172). -/
def nestReservedOk (l : List Byte) : Bool :=
  let c := field l 0 8
  nbits c 14 2 = 0 && nbits c 26 6 = 0 && nbits (field l 0x50 8) 62 1 = 0 && nbits (field l 0x58 8) 62 1 = 0

/-- ORDER is a permutation of 0–3 whose first NDIM + 1 entries are a permutation of 0 to NDIM (R200). -/
def orderOk (r : NestRec) : Bool :=
  ((upto 0 4).map r.ord).eraseDups.length = 4 && (upto 0 r.ndim).all fun j => decide (r.ord j < r.ndim)

/-- prologue ≤ kernel ≤ epilogue, and ≤ END for LD, CMP and ST (R183). -/
def entriesOk (r : NestRec) : Bool :=
  allSeqs.all fun q =>
    decide (r.entryHalf q 0 ≤ r.entryHalf q 1 ∧ r.entryHalf q 1 ≤ r.entryHalf q 2) &&
    (q = .ctl || decide (r.entryHalf q 2 ≤ r.ends.getD (seqNum q - 1) 0))

/-- An enabled dependence names an object (R200). -/
def depOk (d : DWord) : Bool :=
  !depEn d || (if depKind d = 0 then decide (depSem d < 32) else decide (depUnit d < 16))

/-- Counts in the header of a template image (R175). -/
def imageCounts (h : Nat) : List Nat := (upto 0 4).map fun i => nbits h (8 * i) 8

/-- Clusters that AFF allows (R173). -/
def allowedClusters (r : NestRec) : List Nat :=
  (upto 0 Config.clusters).filter fun c => r.aff = 0 || nbits r.aff c 1 = 1

/-- The checks of BADREC (R200); the image header is read through the XROOT of the nest's region (R517). -/
def recordBad (l : List Byte) : Act Bool := do
  let s ← get
  let r := nestRecOf l
  let plain := !nestReservedOk l || !orderOk r || decide (r.tiles > 2 ^ 32 - 1) || !entriesOk r ||
    r.code % 4 ≠ 0 || decide (r.code ≥ 2 ^ 56) || r.tmpl % 16 ≠ 0 || !depOk r.dep0 || !depOk r.dep1
  if plain then return true
  else if r.tmpl = 0 then return false
  else
    match ← portTry (readAs ((effRegion s r.region).ctx none) r.tmpl 8) with
    | .ok h => return (imageCounts (ofBytes h)).any fun n => decide (n > 64)
    | .error _ => return true

/-- Failure codes of the scheduler's commands (R199). -/
inductive NestErr
  | none_ | denied | full | badrec | nofit | state | self
  deriving DecidableEq, Repr

/-- Their numbers. -/
def NestErr.num : NestErr → Nat
  | .none_ => 1 | .denied => 2 | .full => 3 | .badrec => 4 | .nofit => 5 | .state => 6 | .self => 7

/-- What a command writes to `Sd` (R199): −n for a failure. -/
def resultWord : Except NestErr Nat → DWord
  | .ok v => BitVec.ofNat 64 v
  | .error e => 0 - BitVec.ofNat 64 e.num

/-- A slot of the scheduler's table. -/
def State.slot (s : State) (i : Nat) : NestSlot := SMap.get {} s.ns.slots i

/-- Change a slot. -/
def State.updSlot (s : State) (i : Nat) (f : NestSlot → NestSlot) : State :=
  { s with ns := { s.ns with slots := SMap.put s.ns.slots i (f (s.slot i)) } }

/-- The NID of a slot (R176). -/
def slotNid (s : State) (i : Nat) : Nat := (s.slot i).inc * 256 + i

/-- The slot that a NID names, where that nest is in the table (R176). -/
def slotOfNid (s : State) (nid : Nat) : Option Nat :=
  let i := nid % 256
  if (s.slot i).used && slotNid s i = nid then some i else none

/-- Tiles of a nest on cores: (core, ordinal). -/
def tilesOnCores (s : State) (nid : Nat) : List (Nat × Nat) :=
  s.cores.filterMap fun e =>
    match e.2.tile with
    | some t => if t.nid = nid then some (e.1, t.ord) else none
    | none => none

/-- Saved tiles of a nest. -/
def savedTiles (s : State) (nid : Nat) : List Saved := s.ns.saved.filter fun x => x.nid = nid

/-- Tiles of a nest in flight (R177). -/
def inFlight (s : State) (nid : Nat) : Nat := (tilesOnCores s nid).length + (savedTiles s nid).length

/-- Is ordinal `t` committed (R185)? -/
def NestSlot.isCommitted (n : NestSlot) (t : Nat) : Bool := decide (t < n.f) || n.window.contains t

/-- The ordinals still to dispatch, lowest first, as far as the next one: those to run again, then the walker's next
uncommitted ordinal (R178, R185). -/
def nextOrdinal (n : NestSlot) : Option Nat :=
  let t := n.nrec.tiles
  match n.again with
  | a :: _ => some a
  | [] =>
    let skip := (n.window.filter fun o => decide (n.next ≤ o)).length
    let cand := (upto n.next (skip + 1)).find? fun o => !n.isCommitted o
    match cand with
    | some o => if o < t then some o else none
    | none => none

/-- Why a tile is not dispatchable (R179), as NESTS reports it (R203): 0 when it is. -/
def tileReason (s : State) (n : NestSlot) (t : Nat) : Nat :=
  if !depMet s n.nrec.dep0 t then 1
  else if !depMet s n.nrec.dep1 t then 2
  else if n.nrec.pdep && (match slotOfNid s n.nrec.prod with
      | none => false
      | some p => (s.slot p).run ≠ .done && decide ((n.nrec.pa : Int) * t + n.nrec.pb > 0) &&
          decide (((s.slot p).f : Int) < (n.nrec.pa : Int) * t + n.nrec.pb)) then 3
  else if t ≥ n.f + 256 then 4
  else 0

/-- Uncommitted ordinals of a nest, for a cohort (R179, R182). -/
def uncommitted (n : NestSlot) : List Nat := (upto 0 n.nrec.tiles).filter fun t => !n.isCommitted t

/-- Is the next tile, or the whole cohort, dispatchable (R179)? -/
def dispatchReason (s : State) (n : NestSlot) (t : Nat) : Nat :=
  if n.nrec.cohort then ((uncommitted n).map (tileReason s n)).foldl (fun a r => if a = 0 then r else a) 0
  else tileReason s n t

/-- The state of a nest by its number (R177). -/
def nestState (s : State) (i : Nat) : Nat :=
  let n := s.slot i
  if !n.used then 0
  else
    match n.run with
    | .done => 5
    | .flushed => 6
    | .stopping => 4
    | .active =>
      match nextOrdinal n with
      | none => 4
      | some t =>
        if dispatchReason s n t ≠ 0 then 1
        else if inFlight s (slotNid s i) = 0 then 2 else 3

/-- Push owed notices into SV_NDONE while it has room (18 R508); a done nest's slot is then freed (R176). -/
def pushNotices : Nat → State → State
  | 0, s => s
  | k + 1, s =>
    match s.sv.owed with
    | [] => s
    | nid :: r =>
      if s.sv.ndone.length ≥ 64 then s
      else
        let s' := { s with sv := { s.sv with ndone := s.sv.ndone ++ [nid], owed := r } }
        pushNotices k (match slotOfNid s nid with
          | some i => if (s.slot i).run = .done then s'.updSlot i fun n => { n with used := false } else s'
          | none => s')

/-- A nest gives notice (18 R508): no notice is ever lost. -/
def notice (i : Nat) (s : State) : State :=
  let l := s.sv.owed ++ [slotNid s i]
  pushNotices l.length { s with sv := { s.sv with owed := l } }

/-- A nest whose last tile has gone becomes done or flushed and gives notice (R177, R185, R508). -/
def settleNest (i : Nat) (s : State) : State :=
  let n := s.slot i
  if !n.used || inFlight s (slotNid s i) ≠ 0 then s
  else
    match n.run with
    | .active =>
      if n.f ≥ n.nrec.tiles then notice i (s.updSlot i fun n => { n with run := .done, waitSince := s.cycle }) else s
    | .stopping =>
      let s' := notice i (s.updSlot i fun n => { n with run := .flushed, waitSince := s.cycle })
      if n.freeing then s'.updSlot i fun n => { n with used := false } else s'
    | _ => s

/-- The lowest empty slot (log 7). -/
def freeSlot (s : State) : Option Nat := (upto 0 Config.nestSlots).find? fun i => !(s.slot i).used

/-- The next incarnation: 1 to 127, then 1 again (R176). -/
def nextInc (n : Nat) : Nat := if n ≥ 127 then 1 else n + 1

/-- Enter a record in a slot (R176, R200). -/
def enterNest (i : Nat) (r : NestRec) (owner : Nat) (s : State) : State :=
  let reg := effRegion s r.region
  settleNest i (s.updSlot i fun n =>
    { inc := nextInc n.inc, used := true, nrec := r, effPrio := reg.prio
      ageSince := s.cycle, waitSince := s.cycle, owner := owner })

/-- Enqueue a record (R199, R200, R518): `deniedBy` says whether the issuer may name a region; `l` are its 128 bytes,
none where they cannot be read. The checks are made in the order of the failure codes. -/
def enqueue (deniedBy : State → Nat → Bool) (l : Option (List Byte)) (owner : Nat) : Act (Except NestErr Nat) := do
  let s ← get
  match l with
  | none => return .error .badrec
  | some l =>
    let r := nestRecOf l
    if !(effRegion s r.region).valid || deniedBy s r.region then return .error .denied
    else
      match freeSlot s with
      | none => return .error .full
      | some i =>
        if ← recordBad l then return .error .badrec
        else
          let reg := effRegion s r.region
          if r.cohort && (decide (r.tiles > reg.cores) || decide (r.tiles > 8 * (allowedClusters r).length)) then
            return .error .nofit
          else
            modify fun s => enterNest i r owner (keepBlocks r.region s)
            let s ← get
            return .ok (slotNid s i)

/-- Enqueue as the device does in the four places of R518: the issuer region has supervisor rights, and the record is
read as committed values through its XROOT; a page owned by the host is waited for (02 R38). `patch` may replace
arguments. A record that is misaligned or cannot be read answers BADREC before FULL is looked at (log 37). -/
def enqueueAs (issuer : Nat) (va : Nat) (patch : List Byte → List Byte) (owner : Nat) : Act (Except NestErr Nat) := do
  let r ← useRegion issuer
  if !r.valid then return .error .denied
  else if va % 128 ≠ 0 then return .error .badrec
  else
    match ← portTry (do
        let l ← readAs (r.ctx none) va 128
        enqueue (fun _ _ => false) (some (patch l)) owner) with
    | .ok x => return x
    | .error _ => return .error .badrec

/-- Replace bytes of a record from an offset. -/
def patchBytes (o : Nat) (new l : List Byte) : List Byte := l.take o ++ new ++ l.drop (o + new.length)

/-- Raise a core's yield request (R187): it stays until the tile yields, is saved or ends. -/
def raiseYield (c : Nat) (s : State) : State :=
  s.updCore c fun k => { k with tile := k.tile.map fun t => { t with yieldReq := some (t.yieldReq.getD s.cycle) } }

/-- Commit a tile (R185): set its bit, advance F past committed ordinals. -/
def commitTile (i t : Nat) (s : State) : State :=
  s.updSlot i fun n =>
    let w := if n.window.contains t || decide (t < n.f) then n.window else t :: n.window
    let f := (upto n.f (w.length + 1)).foldl (fun f o => if f = o && w.contains o then f + 1 else f) n.f
    { n with f := f, window := w.filter fun o => decide (f ≤ o) }

end Sys2Proof.Machine
end

