-- ==== Sys2Proof/Machine/FaultQueue.lean ====
section
/-! DEFINITION. The fault queues: records, handler nests, and what of them waits for a page or a peer (06 R170, R171). -/

namespace Sys2Proof.Machine

/-- The 32 bytes of a record (R170). -/
def recordBytes (r : Record) : List Byte :=
  bytesOf 8 (r.code + r.seq * 2 ^ 8 + r.region % 2 ^ 12 * 2 ^ 16 + r.nid % 2 ^ 16 * 2 ^ 32 + r.core % 2 ^ 16 * 2 ^ 48) ++
  bytesOf 8 (r.tile % 2 ^ 32) ++ bytesOf 8 r.va ++ bytesOf 8 r.pc

/-- May the queue be used at all (R170)? -/
def fqUsable (r : Region) : Bool :=
  ((upto 4 12).any fun k => r.fqEntries = 2 ^ k) && r.fqBase % 256 = 0

/-- Write a record into a usable queue: its index, or none where the queue is full (R170). -/
def fqPut (r : Region) (rec_ : Record) : Act (Option Nat) := do
  let x := r.ctx none
  let hdr ← readAs x r.fqBase 0x20
  let head := ofBytes (hdr.take 4)
  let tail := ofBytes ((hdr.drop 4).take 4)
  let lost := ofBytes ((hdr.drop 8).take 4)
  if (tail + 2 ^ 32 - head) % 2 ^ 32 = r.fqEntries then
    writeAs x r.id (r.fqBase + 8) (bytesOf 4 (lost + 1))
    return none
  else
    writeAs x r.id (r.fqBase + 0x20 + 32 * (tail % r.fqEntries)) (recordBytes rec_)
    writeAs x r.id (r.fqBase + 4) (bytesOf 4 (tail + 1))
    return some tail

/-- Count a record that no queue could take (R170, R205). -/
def fqLose (s : State) : State := { s with ns := { s.ns with fqLost := (s.ns.fqLost + 1) % 2 ^ 32 } }

/-- An access to a fault queue: a fault of it, or an address that does not exist, is answered with none; a page that has to
be flipped and a line homed on a peer are waited for. -/
def fqTry {α : Type} (a : Act α) : Act (Option α) := do
  match ← attempt (portTry a) with
  | .ok (.ok v) => return some v
  | .ok (.error _) => return none
  | .error (.fault _) => return none
  | .error e => throw e

/-- Do the next thing at a fault queue and say what follows. A record goes to a usable queue, else it counts in
NS_FQLOST; the handler nest gets its index in ARG0 (R170, R171). -/
def fqStep (j : FqJob) : Act (Option FqJob) := do
  let usable := j.r.valid && fqUsable j.r
  match j.todo with
  | .record rec_ handler =>
    let at_ ← if usable then fqTry (fqPut j.r rec_) else pure none
    if at_.isNone then modify fqLose else pure ()
    return if handler then some { j with todo := .handler ((at_.getD none).getD 0xFFFF_FFFF) } else none
  | .handler arg =>
    let r ← if j.r.fdNest = 0 then pure none else fqTry (enqueueAs j.r.id j.r.fdNest (patchBytes 0x60 (bytesOf 8 arg)) 0)
    match r with
    | some (.ok _) => return none
    | _ => return some { j with todo := .noHandler }
  | .noHandler =>
    if usable then
      let x := j.r.ctx none
      let _ ← fqTry (do
        let h ← readAs x (j.r.fqBase + 0xC) 4
        writeAs x j.r.id (j.r.fqBase + 0xC) (bytesOf 4 (ofBytes h + 1)))
      pure ()
    else pure ()
    return none

/-- What is asked for when a block's access has to wait: a page, or a line of a peer. -/
def asked (e : Stop) (s : State) : State :=
  match e with
  | .held asid page _ => requestFlip asid page s
  | .peer loc => requestPeer loc s
  | _ => s

/-- Ask for what a block's access has to wait for. -/
def askFor (e : Stop) : Act Unit :=
  match e with
  | .fault f => throw (.fault f)
  | _ => modify (asked e)

/-- Do at most `n` things of a job; the answer is what of it is left. -/
def fqWork : Nat → FqJob → Act (Option FqJob)
  | 0, j => pure (some j)
  | n + 1, j => do
    match ← attemptUndo (fqStep j) with
    | .ok none => return none
    | .ok (some j) => fqWork n j
    | .error e =>
      modify (asked e)
      return some j

/-- Work on jobs in order, none before an earlier one of the same queue; what is left of them. -/
def fqWorkAll : List FqJob → List FqJob → Act (List FqJob)
  | kept, [] => pure kept
  | kept, j :: r => do
    let left ← if kept.any fun k => k.r.fqBase = j.r.fqBase && k.r.asid = j.r.asid then pure (some j) else fqWork 3 j
    fqWorkAll (kept ++ left.toList) r

/-- Work on what waits at the fault queues. -/
def fqPump : Act Unit := do
  let s ← get
  let left ← fqWorkAll [] s.ns.jobs
  modify fun s => { s with ns := { s.ns with jobs := left } }

/-- Give the scheduler something to do at a fault queue: it is done now, or as soon as what it needs is there. -/
def fqSubmit (j : FqJob) : Act Unit := do
  modify fun s => { s with ns := { s.ns with jobs := s.ns.jobs ++ [j] } }
  fqPump

/-- Post a record to the queue of a region given by its values (R170). -/
def postTo (r : Region) (rec_ : Record) : Act Unit := fqSubmit { r := r, todo := .record rec_ false }

/-- Post a record to its region's fault queue, or to region 0's where the region is invalid (R170). -/
def postRecord (rec_ : Record) : Act Unit := do
  let own ← useRegion rec_.region
  let root ← useRegion 0
  postTo (if own.valid then own else root) rec_

/-- Post a class-A event that names no tile (01 R30). -/
def postEvent (region : Nat) (c : Code) (va : Nat := 0) : Act Unit :=
  postRecord { code := c.num, region := region, va := va }

end Sys2Proof.Machine
end

