-- ==== Sys2Proof/Machine/Operands.lean ====
section
/-! DEFINITION. Operand forms of the sequencers: scalar, predicate, handle and index registers, immediates, effective
addresses, queue registers, tokens and completion objects (01 R19–R24, 04 R96, 05 R119, R121, 09 R274, R275). -/

namespace Sys2Proof.Machine

/-- A scalar register; S0 reads 0 (05 R119). -/
def Core.sreg (k : Core) (n : Nat) : DWord := if n = 0 then 0 else SMap.get 0 k.s n

/-- Write a scalar register; a write of S0 is discarded (04 R96). -/
def Core.setS (k : Core) (n : Nat) (v : DWord) : Core := if n = 0 then k else { k with s := SMap.put k.s n v }

/-- A predicate; P0 is true (05 R119). -/
def Core.preg (k : Core) (n : Nat) : Bool := if n = 0 then true else k.p.getLsbD n

/-- Write a predicate; P0 never changes. -/
def Core.setP (k : Core) (n : Nat) (b : Bool) : Core :=
  if n = 0 then k
  else { k with p := if b then k.p ||| ((1 : BitVec 48) <<< n) else k.p &&& ~~~((1 : BitVec 48) <<< n) }

/-- A handle register (05 R150). -/
def Core.hreg (k : Core) (n : Nat) : Word := SMap.get 0 k.h n

/-- The index bank of LD or ST (07 R225). -/
def Core.streamer (k : Core) (q : Seq) : Streamer := if q = .st then k.sts else k.lds

/-- Change LD's or ST's part. -/
def Core.updStreamer (k : Core) (q : Seq) (f : Streamer → Streamer) : Core :=
  if q = .st then { k with sts := f k.sts } else { k with lds := f k.lds }

/-- An index register of the executing sequencer's bank (04 R96). -/
def Core.nreg (k : Core) (q : Seq) (n : Nat) : DWord := SMap.get 0 (k.streamer q).n n

/-- Write an index register. -/
def Core.setN (k : Core) (q : Seq) (n : Nat) (v : DWord) : Core :=
  k.updStreamer q fun x => { x with n := SMap.put x.n n v }

/-- The address of a scalar access: Sa plus the signed extension word, modulo 2^64 (05 R132). -/
def effAddr (k : Core) (a : BitVec 6) (ext : Word) : DWord := k.sreg a.toNat + sx64 ext

/-! Queue registers. -/

/-- The entries and reservations of a queue register, oldest first. -/
def Core.queue (k : Core) (q : Nat) : List QEnt := SMap.get [] k.q q

/-- Replace a queue register's contents. -/
def Core.setQueue (k : Core) (q : Nat) (l : List QEnt) : Core := { k with q := SMap.put k.q q l }

/-- Entries landed: those before the first reservation (09 R274). -/
def landed (l : List QEnt) : Nat := (l.takeWhile fun e => e.data.isSome).length

/-- The binding of a queue register, LD's for Q0–Q7 and ST's for Q8–Q15 (07 R212, 08 R237). -/
def Core.binding (k : Core) (q : Nat) : Option Binding :=
  if q < 8 then SMap.find k.lds.binds q else SMap.find k.sts.binds q

/-- Set or drop the binding of a queue register. -/
def Core.setBinding (k : Core) (q : Nat) (b : Option Binding) : Core :=
  k.updStreamer (if q < 8 then .ld else .st) fun x => { x with
    binds := match b with
      | some b => SMap.put x.binds q b
      | none => SMap.erase x.binds q }

/-- Reserve one place at the tail of a queue: the reservation's number (09 R274). -/
def reserve (c q : Nat) (st : Bool := false) : Act Nat := do
  let s ← get
  let k := s.coreOf c
  let k' : Core := { k with nextId := k.nextId + 1 }
  set (s.setCore c (k'.setQueue q (k.queue q ++ [{ id := k.nextId, data := none, st := st }])))
  return k.nextId

/-- Land the entry of a reservation. -/
def land (c q rid : Nat) (data : List Byte) : Act Unit :=
  modCoreAt c fun k => k.setQueue q ((k.queue q).map fun e => if e.id = rid then { e with data := some data } else e)

/-- Push an entry that has landed. -/
def pushEntry (c q : Nat) (data : List Byte) : Act Unit := do
  let r ← reserve c q
  land c q r data

/-- A source queue of an ST instruction is empty, and no earlier ST instruction has reserved an entry in it (08 R242). -/
def Core.dry (k : Core) (q : Nat) : Bool :=
  match k.queue q with
  | [] => true
  | e :: r => e.data.isNone && !(e :: r).any (·.st)

/-- The head entry of an unbound source queue of ST: a stall while a reservation is still to land (08 R242). -/
def headEntry (c q : Nat) : Act (List Byte) := do
  let s ← get
  match (s.coreOf c).queue q with
  | [] => trap .qUnderflow
  | e :: _ =>
    match e.data with
    | some d => return d
    | none => waitFor .queue

/-- Remove the head entry. -/
def dropHead (c q : Nat) : Act Unit := modCoreAt c fun k => k.setQueue q ((k.queue q).drop 1)

/-! Tokens (01 R19, 05 R163). -/

/-- The queue from sequencer i to sequencer j (R163). -/
def tokenQueue (i j : Seq) : Nat :=
  let a := seqNum i
  let b := seqNum j
  3 * a + (if b < a then b else b - 1)

/-- A token count. -/
def Core.tokens (k : Core) (i j : Seq) : Nat := SMap.get 0 k.tk (tokenQueue i j)

/-- Set a token count. -/
def Core.setTokens (k : Core) (i j : Seq) (n : Nat) : Core := { k with tk := SMap.put k.tk (tokenQueue i j) n }

/-! Features (17 R488). -/

/-- The offered features. -/
def offered : Nat := 0x7FF

/-- Is a feature fixed as accepted? -/
def accepted (s : State) (i : Nat) : Bool := s.hl.fixed && s.hl.facc0.toNat.testBit i

/-- Do host atomics go out as AtomicOps (17 R488)? -/
def atomicOps (s : State) : Bool := accepted s 6 && s.hl.atomReq

/-- A region's host-atomic fallback bit, as it counts (17 R488). -/
def fallbackBit (s : State) (haf : Bool) : Bool := haf && (atomicOps s || accepted s 7)

/-! Semaphores and arrival bitmaps (01 R20–R24). -/

/-- A semaphore of a core, or of a core's cluster (05 R141). -/
def State.semOf (s : State) (c : Nat) (cluster : Bool) (n : Nat) : BitVec 48 :=
  if cluster then SMap.get 0 (s.clusterAt (clusterOf c)).xsem n else SMap.get 0 (s.coreOf c).sem n

/-- Set a semaphore of a core, or of a core's cluster. -/
def State.setSem (s : State) (c : Nat) (cluster : Bool) (n : Nat) (v : BitVec 48) : State :=
  if cluster then s.updCluster (clusterOf c) fun x => { x with xsem := SMap.put x.xsem n v }
  else s.updCore c fun k => { k with sem := SMap.put k.sem n v }

/-- Add to a semaphore, saturating at 2^48 − 1 with SEM_OVERFLOW posted to `region` (05 R141): the new value. -/
def semAdd (c : Nat) (cluster : Bool) (n v : Nat) (region : Nat) : Act (BitVec 48) := do
  let s ← get
  let t := (s.semOf c cluster n).toNat + v
  let r : BitVec 48 := if t > 2 ^ 48 - 1 then BitVec.ofNat 48 (2 ^ 48 - 1) else BitVec.ofNat 48 t
  set (s.setSem c cluster n r)
  if t > 2 ^ 48 - 1 then postEvent region .semOverflow else pure ()
  return r

/-- Add to a core semaphore on behalf of another agent: discarded where the core holds no tile (01 R515). -/
def semAddRemote (c n v : Nat) : Act Unit := do
  let s ← get
  match (s.coreOf c).tile with
  | none => pure ()
  | some t =>
    let _ ← semAdd c false n v t.reg.id

/-- Set arrival bits on behalf of another agent (01 R515). -/
def arvSet (c n bit : Nat) : Act Unit :=
  modCoreAt c fun k =>
    if k.tile.isSome then { k with arv := SMap.put k.arv n (SMap.get 0 k.arv n ||| ((1 : DWord) <<< bit)) } else k

/-- After an update of a barrier: a generation completes when E > 0, A = E and B = 0 (05 R146). -/
def checkBarrier (b : Barrier) : Barrier :=
  if 0 < b.e ∧ b.a = b.e ∧ b.b = 0 then { b with a := 0, gen := b.gen + 1 } else b

/-- A barrier of a cluster or of the device. -/
def State.barrier (s : State) (cluster : Nat) (device : Bool) (n : Nat) : Barrier :=
  if device then SMap.get {} s.dbar n else SMap.get {} (s.clusterAt cluster).bar n

/-- Update a barrier and check it (05 R146). -/
def State.updBarrier (s : State) (cluster : Nat) (device : Bool) (n : Nat) (f : Barrier → Barrier) : State :=
  let b := checkBarrier (f (s.barrier cluster device n))
  if device then { s with dbar := SMap.put s.dbar n b }
  else s.updCluster cluster fun x => { x with bar := SMap.put x.bar n b }

end Sys2Proof.Machine
end

