-- ==== Sys2Proof/Machine/Units.lean ====
section
/-! DEFINITION. What the units outside a core do when a tile waits for them, publishes or ends: copies, slot tags,
messages, expert tiles (12 R365–R369, R376, 13 R386, 14 R424). -/

namespace Sys2Proof.Machine

/-! Slot tags (12 R365, R366). -/

/-- A tag after `n` more bytes have landed in its slot (R366). -/
def tagAdd (tag n : Nat) : Nat :=
  if nbits tag 0 2 ≥ 2 then setNbits tag 2 1 1
  else
    let landed := Nat.min (nbits tag 8 24 + n) (2 ^ 24 - 1)
    setNbits (setNbits tag 8 24 landed) 0 2 (if landed ≥ nbits tag 32 24 then 2 else 1)

/-- The tag at a place, as a device-scope atomic finds it (R365). -/
def tagOld (loc : Nat) : Act Nat := do
  if isLocal loc then atomicOld 0 false loc 8
  else
    let s ← get
    return ofBytes ((upto loc 8).map fun a => SMap.get 0 s.m.remote a)

/-- The bytes that update a tag at a place (R366). -/
def tagWrite (loc n : Nat) : Act (List (Nat × Byte)) := do
  return placed loc (bytesOf 8 (tagAdd (← tagOld loc) n))

/-- Where the tag at an address lies; a poisoned one is consumed (02 R71), and one on a peer to which no link leads cannot
be written (13 R383). -/
def tagPlace (x : Ctx) (va : Nat) : Act Nat := do
  let loc ← translate x .write va
  let s ← get
  trapIf (unroutable s loc) .xlateNotPresent va
  trapIf (isLocal loc && s.m.poison.contains (loc / 128)) .poisonConsumed va
  return loc

/-- Where a tile's waiting tag updates go, or the fault of one (R367, R377). A pinned line refuses them (02 R66). -/
def tagPlaces (c : Nat) : Act (Except (Code × Nat × Nat) (List (Nat × Nat))) := do
  let t ← tileOf c
  let r ← collect t.tagUpdates fun u => do
    match ← attempt (tagPlace (t.reg.ctx (some (clusterOf c))) u.va) with
    | .ok loc =>
      let s ← get
      if pinnedElsewhere s (some (clusterOf c)) loc then throw (.refused 0)
      else return Except.ok (loc, u.bytes)
    | .error (.trap code va) => return .error (code, va, u.pc)
    | .error e => throw e
  return r.foldl (fun o x =>
    match o, x with
    | .error e, _ => .error e
    | .ok _, .error e => .error e
    | .ok l, .ok y => .ok (l ++ [y])) (.ok [])

/-- Update tags with the stamp of the publication just committed (R367). -/
def writeTags (region : Nat) (l : List (Nat × Nat)) : Act Unit :=
  each l fun e => do
    let w ← tagWrite e.1 e.2
    modify fun s => if isLocal e.1 then commitAt s.m.pubCount (some region) w s else commitRemote (some (onBlock region)) w s

/-! Copies (12 R358–R377). -/

/-- Has the tile on core `c` a copy that has not completed (02 R54, 05 R143)? -/
def copiesPending (s : State) (c : Nat) : Bool := !(s.coreOf c).copies.isEmpty

/-- Take a copy's registered bytes from its barrier (R361, R376). -/
def drainBarrier (c : Nat) (x : Copy) (s : State) : State :=
  if x.done = 3 then s.updBarrier (clusterOf c) x.device x.num fun b => { b with b := b.b - x.n } else s

/-- The shadow pages of an exchange that will not take place hold unpredictable bytes (R369). -/
def garble (x : Exchange) (s : State) : State :=
  let places := x.pages.flatMap fun p => upto (p * 0x1_0000) 0x1_0000
  let bytes := places.zipIdx.map fun e => (e.1, Config.freeByte (s.drawn + e.2))
  settleShadow x bytes { s with drawn := s.drawn + places.length }

/-- The exchange that a shadow copy asks for. -/
def Copy.exchange (x : Copy) (r : Region) : Exchange :=
  { asid := r.asid, xroot := r.xroot, region := r.id, dst := x.dst, shadow := x.extra, len := x.n, pages := x.pages, bytes := x.bytes }

/-- Cancel a tile's outstanding copies (R376), and the exchanges that it asked for (R369). -/
def cancelCopies (c : Nat) (s : State) : State :=
  let k := s.coreOf c
  let s := k.copies.foldl (fun s x => drainBarrier c x s) s
  let lost := (k.copies.filter fun x => x.kind = .shadow).map fun x => x.exchange ((k.tile.map (·.reg)).getD {})
  let asked := (k.tile.map (·.exchanges)).getD []
  let s := (lost ++ asked).foldl (fun s x => garble x s) s
  s.updCore c fun k => { k with copies := [] }

/-! Other units. -/

/-- What other units do when the tile of a nest they enqueued retires (13 R386, 14 R424): a handler's message is
consumed, an expert tile waits to be freed. -/
def tileGone (nid : Nat) (committed : Bool) (s : State) : State :=
  let mine := s.fab.handlers.filter fun h => h.1 = nid
  let s := mine.foldl (fun s h => consumed h.2.2 h.2.1 s) s
  let mark := fun (t : ExpertTile) => if t.nid = some nid && t.gone.isNone then { t with gone := some committed } else t
  { s with
    fab := { s.fab with handlers := s.fab.handlers.filter fun h => h.1 ≠ nid }
    cd := { s.cd with tiles := s.cd.tiles.map mark } }

/-- Base of save slot `i` of a pool (06 R197). -/
def saveSlotAt (r : Region) (i : Nat) : Nat := r.saveBase + i * (0x4_0000 + r.spTile)

/-- Where a saved tile's slot lies. -/
def Saved.slotAt (x : Saved) : Nat := saveSlotAt ((x.core.tile.map (·.reg)).getD {}) x.slot

/-- Mark the header of a slot at an address free: KIND is 0 (06 R198). Save slots are written without a stamp. -/
def freeHeader (region a : Nat) : State → State := writeUnstamped (some region) (placed a (bytesOf 8 0))

/-- Discard saved tiles and free their slots, and with them the exchanges that they asked for (R369); `retire` says that
they will not run again (13 R386). -/
def dropSaved (retire : Bool) (l : List Saved) (s : State) : State :=
  l.foldl (fun s x =>
    let s := if retire then tileGone x.nid false s else s
    let s := ((x.core.tile.map (·.exchanges)).getD []).foldl (fun s y => garble y s) s
    let s := freeHeader ((x.core.tile.map (·.reg.id)).getD 0) x.slotAt s
    { s with
      ns := { s.ns with saved := s.ns.saved.filter fun y => !(y.nid = x.nid && y.ord = x.ord) } }) s

/-- Forget the caddy's held translations that match (14 R418). -/
def forgetHeld (p : HeldPage → Bool) (s : State) : State :=
  let f := fun (e : Nat × TagEnt) => if e.2.held.any p then (e.1, { e.2 with mapd := false, held := [] }) else e
  { s with cd := { s.cd with tags := s.cd.tags.map f } }

/-- Does a held translation belong to an address space, and to the page of an address of it (14 R418)? -/
def HeldPage.covers (asid va : Nat) (h : HeldPage) : Bool := h.asid = asid && va / 2 ^ h.log = h.va / 2 ^ h.log

/-- Does an infuser read that uses a held translation go on (02 R42, 14 R418)? -/
def infuserReads (p : HeldPage → Bool) (s : State) : Bool :=
  s.cd.fetches.any fun f => f.started && !f.flash && !f.failed && (match SMap.find s.cd.tags f.tag with
    | some e => e.held.any p
    | none => false)

/-! Stream ports (16 R470, R471, 01 R516). -/

/-- Fields of PT_CFG and PT_RING (16 R482). -/
def Port.en (p : Port) : Bool := bits p.cfg 63 1 = 1
def Port.region (p : Port) : Nat := (bits p.cfg 48 12).toNat
def Port.core (p : Port) : Nat := (bits p.cfg 41 7).toNat
def Port.semen (p : Port) : Bool := bits p.cfg 36 1 = 1
def Port.sem (p : Port) : Nat := (bits p.cfg 31 5).toNat
def Port.arvn (p : Port) : Nat := (bits p.cfg 37 3).toNat
def Port.slotb (p : Port) : Nat := (bits p.ring 48 16).toNat
def Port.n (p : Port) : Nat := (bits p.ring 32 16).toNat
def Port.rbase (p : Port) : Nat := (bits p.ring 0 21).toNat

/-- The enabled port whose ring a core holds (R479). -/
def portOf (s : State) (core : Nat) : Option (Nat × Port) := s.ports.find? fun e => e.2.en && e.2.core = core

/-- May a tile of a region run on a core (16 R471)? -/
def portAllows (s : State) (core region : Nat) : Bool :=
  match portOf s core with
  | some (_, p) => p.region = region
  | none => true

/-- The core to which a saved context is bound (16 R470). -/
def boundCore (s : State) (x : Saved) : Option Nat :=
  match portOf s x.home with
  | some (_, p) => if some p.region = x.core.tile.map (·.reg.id) then some x.home else none
  | none => none

/-- Is a byte of a core's scratchpad a ring byte (16 R471)? -/
def ringByte (s : State) (core a : Nat) : Bool :=
  match portOf s core with
  | some (_, p) => decide (p.rbase ≤ a ∧ a < p.rbase + p.n * p.slotb)
  | none => false

/-- A core watches its port's ring while a tile of the port's region is saved from it (16 R471). -/
def watchRing (core : Nat) (s : State) : State :=
  let ring := (portOf s core).bind fun e =>
    if s.ns.saved.any (fun x => x.home = core && x.core.tile.any fun t => t.reg.id = e.2.region) then
      some (e.2.rbase, e.2.rbase + e.2.n * e.2.slotb)
    else none
  s.updCore core fun k => { k with watch := ring }

/-- What another tile has written into the ring reaches the tile that returns as unpredictable bytes (16 R471). -/
def spoilRing (core : Nat) : Act Unit := do
  let s ← get
  each ((s.coreOf core).soiled.eraseDups.filter (ringByte s core)) fun a => do
    let b ← drawByte
    modCoreAt core fun k => k.spWrite a [b]
  modCoreAt core fun k => { k with soiled := [] }
  modify (watchRing core)

/-- What a stream port held goes to the tile that starts running on a core (01 R516). -/
def tileStarts (core : Nat) : Act Unit := do
  let s ← get
  match portOf s core, (s.coreOf core).tile with
  | some (i, p), some t =>
    if p.region ≠ t.reg.id then pure ()
    else
      if p.heldSem = 0 then pure ()
      else
        let _ ← semAdd core false p.sem p.heldSem t.reg.id
      modify fun s => { s with ports := SMap.put s.ports i { p with heldSem := 0, heldArv := 0 } }
      modCoreAt core fun k =>
        if p.heldArv = 0 then k else { k with arv := SMap.put k.arv p.arvn (SMap.get 0 k.arv p.arvn ||| p.heldArv) }
  | _, _ => pure ()

end Sys2Proof.Machine
end

