-- ==== Sys2Proof/Machine/Ops.lean ====
section
/-! DEFINITION. The named operations of the sequencers: moving the program counter through the stages of a tile,
taking a trap and returning from it, ending a tile, publishing, and how a step ends (05 R95, R130, R145, R153–R158,
06 R183, R185, R188). -/

namespace Sys2Proof.Machine

/-! Stages (06 R183). -/

/-- Enter the epilogue; a stream without epilogue code has completed. -/
def enterEpilogue (r : NestRec) (q : Seq) (x : SeqState) : SeqState :=
  let e := r.entryAt q 2
  if q ≠ .ctl ∧ e = r.endAt q then
    { x with pc := BitVec.ofNat 64 e, stage := .complete, run := .idle }
  else { x with pc := BitVec.ofNat 64 e, stage := .epilogue, run := .running }

/-- Begin the kernel: iteration 0, or the epilogue where there is nothing to iterate. -/
def enterKernel (r : NestRec) (q : Seq) (x : SeqState) : SeqState :=
  if r.trip = 0 then enterEpilogue r q x
  else if r.entryAt q 1 = r.entryAt q 2 then enterEpilogue r q { x with iters := r.trip }
  else { x with pc := BitVec.ofNat 64 (r.entryAt q 1), stage := .kernel, run := .running }

/-- A sequencer whose next address is `addr`: the stage changes of R183. `hold` says that a sequencer which ends its
iteration here stops at its back-edge (R188). -/
def arrive (r : NestRec) (q : Seq) (hold : Bool) (addr : Nat) (x : SeqState) : SeqState :=
  match x.stage with
  | .prologue =>
    if addr = r.entryAt q 1 then enterKernel r q x
    else { x with pc := BitVec.ofNat 64 addr, run := .running }
  | .kernel =>
    if addr = r.entryAt q 2 then
      let y := { x with iters := x.iters + 1 }
      if y.iters < r.trip then
        { y with pc := BitVec.ofNat 64 (r.entryAt q 1), run := if hold then .atBackEdge else .running, edge := hold }
      else enterEpilogue r q y
    else { x with pc := BitVec.ofNat 64 addr, run := .running }
  | .epilogue =>
    if q ≠ .ctl ∧ addr = r.endAt q then
      { x with pc := BitVec.ofNat 64 addr, stage := .complete, run := .idle }
    else { x with pc := BitVec.ofNat 64 addr, run := .running }
  | .complete => { x with pc := BitVec.ofNat 64 addr }

/-- The highest iteration that any sequencer in its kernel has begun (R188). -/
def highestBegun (k : Core) : Nat :=
  (allSeqs.map fun q =>
    let x := k.seq q
    if x.stage = .kernel then (if x.edge then x.iters - 1 else x.iters) else 0).foldl Nat.max 0

/-- Does sequencer `q`, about to end its iteration, hold at its back-edge: a request is pending, all four are in their
kernels, and its iteration is the highest begun and not the last (R188). -/
def holdsAtBackEdge (k : Core) (t : Tile) (q : Seq) : Bool :=
  t.yieldReq.isSome && allSeqs.all (fun p => (k.seq p).stage = .kernel) &&
  decide ((k.seq q).iters = highestBegun k) && decide (highestBegun k + 1 ≠ t.nrec.trip)

/-- Is a sequencer that was held at its back-edge to stay there: the iteration it has ended is still the highest begun, all
four are in their kernels, and the request is pending (R188)? -/
def stillHeld (k : Core) (q : Seq) : Bool :=
  (k.tile.any fun t => t.yieldReq.isSome && decide (highestBegun k + 1 ≠ t.nrec.trip)) &&
  allSeqs.all (fun p => (k.seq p).stage = .kernel) && decide ((k.seq q).iters = highestBegun k + 1)

/-- Forget what a sequencer was waiting for. -/
def SeqState.clearWaits (x : SeqState) : SeqState :=
  { x with hold := none, refused := none, grantSince := none, granted := none, put := none, hand := none, qwait := none, remote := none, barw := none,
           publishing := none, abandoned := false }

/-- A stop at an instruction boundary: a sequencer that waits abandons its wait (06 R189, R190, R198). -/
def SeqState.abandon (x : SeqState) : SeqState :=
  match x.run with
  | .stalled _ => { x.clearWaits with abandoned := true }
  | _ => x

/-- Sequencer `q` of core `c` has executed an instruction and its next address is `addr` (R183, R196). In the trap
handler the stages stand still (log 8). -/
def State.goto (s : State) (c : Nat) (q : Seq) (addr : DWord) : State :=
  let k := s.coreOf c
  match k.tile with
  | none => s.updSeq c q fun x => { x.clearWaits with pc := addr }
  | some t =>
    let x := (k.seq q).clearWaits
    let y :=
      if q = .ctl && k.trap.mode then { x with pc := addr, run := .running }
      else arrive t.nrec q (holdsAtBackEdge k t q) addr.toNat { x with edge := false }
    s.setCore c { k.setSeq q y with tile := some { t with lastIssue := s.cycle } }

/-- Advance past an instruction of `n` bytes (04 R95). -/
def State.advance (s : State) (c : Nat) (q : Seq) (n : Nat) : State :=
  s.goto c q (((s.coreOf c).seq q).pc + BitVec.ofNat 64 n)

/-- CMP goes on past the bundle at its program counter, `n` bytes long: to the next captured bundle while it replays,
and after the last one to the address that follows it in memory (09 R277, R282). -/
def State.nextBundle (s : State) (c n : Nat) : State :=
  let k := s.coreOf c
  match k.comp.replay with
  | none => s.advance c .cmp n
  | some i =>
    match k.comp.captured[i + 1]? with
    | some b =>
      (s.updCore c fun k => { k with
        comp := { k.comp with replay := some (i + 1) }
        cmp := { k.cmp.clearWaits with pc := BitVec.ofNat 64 b.addr, run := .running }
        tile := k.tile.map fun t => { t with lastIssue := s.cycle } })
    | none =>
      (s.updCore c fun k => { k with
        comp := { k.comp with replay := none, replays := (k.comp.replays + 1) % 2 ^ 32 } }).goto c .cmp (BitVec.ofNat 64 k.comp.lbNext)

/-- Advance the sequencer whose turn it is on core `c`. -/
def advance (q : Seq) (n : Nat) : Act Unit := modify fun s => s.advance s.core q n

/-- Transfer control; an address that is not a multiple of 4 traps ALIGN (04 R95). -/
def branchTo (q : Seq) (addr : DWord) : Act Unit := do
  trapIf (addr.toNat % 4 ≠ 0) .align addr.toNat
  modify fun s => s.goto s.core q addr

/-! The stop for a save (06 R188–R191). -/

/-- The operations at the compute port, by number (11 R325). -/
def Core.computeIds (k : Core) : List Nat := ((k.ops.filter fun o => o.compute).map fun o => o.id) ++ k.mx.mmas.map fun m => m.id

/-- The sequencers have stopped for a save: what waits at the compute port behind the running operation stays unstarted
(11 R354). -/
def Core.startSaving (kind : SaveKind) (cycle : Nat) (k : Core) : Core :=
  { k with
    tile := k.tile.map fun t => { t with saving := some (kind, cycle) }
    mx := { k.mx with parked := if k.computeIds.length < 2 then none else some (k.computeIds.foldl Nat.max 0) } }

/-! The end of a tile (05 R158, 06 R185). -/

/-- MQ windows in which entries have been granted that have not landed: they stay until those have (08 R256). -/
def Core.landingWindows (k : Core) : SMap Window := k.windows.filter fun w => w.2.mq.msgs.any fun m => !m.landed

/-- Take a tile off its core: windows, bindings, queues and engine operations go with it; the template tables stay
where the nest ran no TMPLD (06 R175). -/
def emptyCore (k : Core) : Core :=
  match k.tile with
  | none => k
  | some t =>
    let x := fun (y : SeqState) => { y.clearWaits with run := SeqRun.idle, stage := Stage.complete, pinned := [], edge := false }
    { k with
      ctl := x k.ctl, ld := x k.ld, cmp := x k.cmp, st := x k.st
      tile := none
      tmplKept := if t.tmplRan then none else some t.nrec.tmpl
      lastNid := t.nid
      windows := k.landingWindows, chunks := [], q := [], ops := []
      comp := { k.comp with pushes := [], lateVa := none }
      mx := { k.mx with load := [], mmas := [], parked := none }
      lds := { k.lds with binds := [], direct := [] }
      sts := { k.sts with binds := [], direct := [] }
      trap := { k.trap with mode := false, pend := 0 } }

/-- No instruction of core `c` waits any more for the atomics that it has out on the host or on peers. -/
def forgetAsks (c : Nat) (s : State) : State :=
  { s with
    hostAtoms := s.hostAtoms.map fun a => if a.core = c then { a with live := false } else a
    peerAsks := s.peerAsks.map fun a => if a.who.map (·.1) = some c then { a with who := none } else a }

/-- Discard the tile on core `c`: its copies are cancelled, its windows released without write-back, its version
discarded (05 R158), and the lines that its cluster pins released (02 R65). `retire` says that it will not run again
(13 R386). -/
def discardTile (retire : Bool) (c : Nat) (s : State) : State :=
  match (s.coreOf c).tile with
  | none => s
  | some t =>
    let s := (forgetAsks c (cancelCopies c s)).updCore c emptyCore
    let s := releaseLines (clusterOf c) (fun _ => true) s
    if retire then tileGone t.nid false s else s

/-- End a tile of the nest in slot `i` that another event ends: one whose final publication has committed is committed,
any other is discarded (06 R185, R201). -/
def endTile (i c : Nat) (s : State) : State :=
  match (s.coreOf c).tile with
  | none => s
  | some t => if t.committed then tileGone t.nid true (commitTile i t.ord (s.updCore c emptyCore)) else discardTile true c s

/-- Stop a nest: it dispatches no further tile (06 R185). -/
def stopNest (nid : Nat) (s : State) : State :=
  match slotOfNid s nid with
  | none => s
  | some i => settleNest i (s.updSlot i fun n => { n with run := if n.run = .active then .stopping else n.run })

/-- When a tile of a cohort ends uncommitted, the cohort's other tiles in flight are aborted (06 R185). -/
def abortCohort (nid : Nat) (s : State) : State :=
  match slotOfNid s nid with
  | none => s
  | some i =>
    if (s.slot i).nrec.cohort then
      let s := (tilesOnCores s nid).foldl (fun s e => endTile i e.1 s) s
      dropSaved true (savedTiles s nid) s
    else s

/-- End the tile on core `c` uncommitted with a record: its cohort goes too and its nest stops (05 R158, 06 R185). With
`handler` the fault-domain handler nest is enqueued with the record's index in ARG0 (06 R171). -/
def endWithRecord (handler : Bool) (c : Nat) (code : Nat) (seq : Nat) (va pc : Nat) : Act Unit := do
  let s ← get
  match (s.coreOf c).tile with
  | none => pure ()
  | some t =>
    set (stopNest t.nid (abortCohort t.nid (discardTile true c s)))
    fqSubmit { r := t.reg, todo := .record { code := code, seq := seq, region := t.reg.id, nid := t.nid, core := c
                                             tile := t.ord, va := va, pc := pc } handler }

/-- End the tile as TEND.ABORT does (05 R158). -/
def abortTile (c : Nat) (code : Nat) (seq : Nat) (va pc : Nat) : Act Unit := endWithRecord false c code seq va pc

/-- End the tile as TEND.ESC does (05 R158, 06 R171). -/
def escalateTile (c : Nat) (code : Nat) (seq : Nat) (va pc : Nat) : Act Unit := endWithRecord true c code seq va pc

/-! Taking a trap and returning from it (05 R153–R156). -/

/-- Clocks since a wait began. -/
def clocksSince (cycle : Nat) (since : Option Nat) : Nat := cycle - since.getD cycle

/-- The clock since which an RPUT waits for its grant (08 R264). -/
def SeqState.rputSince (x : SeqState) : Option Nat := if x.put.any fun p => p.dev.isNone then x.grantSince else none

/-- ST_MQSTAT.WAITCLK: clocks that the current or last RPUT has waited (08 R264). -/
def Core.rputWait (cycle : Nat) (k : Core) : Nat :=
  match k.st.rputSince with
  | some since => cycle - since
  | none => k.mqWait

/-- ST gives up a wait for a grant: WAITCLK keeps its clocks (08 R264). -/
def Core.noteWait (cycle : Nat) (k : Core) : Core := { k with mqWait := k.rputWait cycle }

/-- Stop a sequencer at its instruction (R153). -/
def SeqState.stop (x : SeqState) : SeqState := { x.clearWaits with run := .trapped }

/-- Write TRAP_CAUSE, TRAP_PC, TRAP_VA and TRAP_RET, turn trap mode on and continue CTL at the nest's trap entry; with
no entry the tile ends as TEND.ESC does (R153). -/
def enterHandler (c : Nat) (q : Seq) (code : Code) (va : Nat) (imm : BitVec 8) : Act Unit := do
  let s ← get
  let k := s.coreOf c
  match k.tile with
  | none => pure ()
  | some t =>
    let pc := (k.seq q).pc
    if t.nrec.entryHalf .ctl 3 = 0 then escalateTile c code.num (seqNum q) va pc.toNat
    else
      let k := if q = .st then k.noteWait s.cycle else k
      let k := if q = .ctl then k else k.updSeq q SeqState.stop
      let tr := { k.trap with
        mode := true, code := code.num, seq := seqNum q, imm := imm, pc := pc, va := BitVec.ofNat 64 va, ret := k.ctl.pc }
      let ctl := { k.ctl.clearWaits with pc := BitVec.ofNat 64 (t.nrec.entryAt .ctl 3), run := .running }
      set (s.setCore c { k with trap := tr, ctl := ctl })

/-- A class-T condition on sequencer `q` of core `c` (R153, R154). While CTL has an atomic out on the host or on a peer it
completes that instruction first, and the condition is met again (log 8). -/
def takeTrap (c : Nat) (q : Seq) (code : Code) (va : Nat) (imm : BitVec 8) : Act Unit := do
  let s ← get
  let k := s.coreOf c
  if k.trap.mode then
    if q = .ctl then escalateTile c code.num 0 va k.ctl.pc.toNat
    else
      set (s.updCore c fun k =>
        { (if q = .st then k.noteWait s.cycle else k).updSeq q SeqState.stop with trap := { k.trap with pend := k.trap.pend ||| ((1 : BitVec 4) <<< seqNum q) } })
  else if q ≠ .ctl && k.ctl.remote.isSome then set (s.updSeq c q fun x => { x with run := .stalled .memory })
  else enterHandler c q code va imm

/-! Waits. -/

/-- What an access waits for now, counted from when it began to wait for that page or address. -/
def sameHold (old : Option Hold) (new : Hold) : Hold :=
  match old with
  | some h => if h.asid = new.asid ∧ h.page = new.page ∧ (h.page ≠ 0 ∨ h.va = new.va) then h else new
  | none => new

/-- A sequencer waits (05 R163). -/
def stallSeq (c : Nat) (q : Seq) (w : Wait) (s : State) : State :=
  s.updSeq c q fun x => { x with run := .stalled w }

/-- What a stop that is no trap does to the sequencer: it waits, holding what it waits for (R38, R51, R66). -/
def holdSeq (c : Nat) (q : Seq) (e : Stop) (s : State) : State :=
  match e with
  | .wait w => stallSeq c q w s
  | .held asid page va =>
    stallSeq c q .memory (requestFlip asid page (s.updSeq c q fun x => { x with
      hold := some (sameHold x.hold ⟨asid, page, va, 0, s.cycle⟩) }))
  | .refused va =>
    stallSeq c q .memory (s.updSeq c q fun x => { x with refused := some (sameHold x.refused ⟨0, 0, va, 0, s.cycle⟩) })
  | .peer loc => stallSeq c q .memory (requestPeer loc s)
  | _ => s

/-- The outcome of an action that cannot stop by itself: whatever state it left. -/
def outcomeOf (r : EStateM.Result Stop State Unit) : Host.Outcome State Fault Refusal :=
  match r with
  | .ok _ s => .next s
  | .error (.fault f) _ => .fault f
  | .error (.refuse r) _ => .refused r
  | .error _ s => .next s

/-- The outcome of an instruction of sequencer `q` of core `c`: it has executed, or it traps, or it waits. -/
def settle (c : Nat) (q : Seq) (r : EStateM.Result Stop State Unit) : Host.Outcome State Fault Refusal :=
  match r with
  | .ok _ s => .next s
  | .error (.trap code va) s => outcomeOf (takeTrap c q code va 0 s)
  | .error (.fault f) _ => .fault f
  | .error (.refuse r) _ => .refused r
  | .error e s => .next (holdSeq c q e s)

/-- Execute a plain instruction on sequencer `q` of the core whose turn it is: its decode checks, then its effect. -/
def plain (q : Seq) (i : Instr) (a : Act Unit) (s : State) : Host.Outcome State Fault Refusal :=
  settle s.core q ((do trapIf (!fieldsOk q i) .reservedField; a) s)

/-- Take an event: where it does not apply, nothing happens. -/
def event (enabled : State → Bool) (a : Act Unit) (s : State) : Host.Outcome State Fault Refusal :=
  if enabled s then outcomeOf (a s) else .next s

/-! Publication (02 R54, 05 R145). -/

/-- Everything ST still has to do before a publication or a token of its own (08 R259–R261). -/
def stDrained (k : Core) : Bool :=
  k.sts.direct.isEmpty && (k.sts.binds.all fun e => landed (k.queue e.1) = 0)

/-- Has an RPUT of core `c` not landed yet (08 R260)? -/
def putsOut (s : State) (c : Nat) : Bool :=
  s.cores.any fun e => e.2.windows.any fun w => w.2.mq.msgs.any fun m => m.src = some c && !m.landed

/-- Write the windows back for a publication (02 R48). Where that stops, and the version has bytes for a peer to which no
link leads, the lower of the two codes is the one (01 R31, 13 R383). -/
def publishWindows (c : Nat) : Act Unit := do
  match ← attempt (writeBackAll c) with
  | .ok _ => pure ()
  | .error e =>
    let s ← get
    let t ← tileOf c
    if decide (Code.xlateNotPresent.num < e.rank) && (s.m.versionNow t).any (fun x => unroutable s x.1) then
      trap .xlateNotPresent 0
    else throw e

/-- Publish the version of core `c` (R145): after the copies issued before it, the windows are written back, then
everything commits in one step, slot tags with it, and a new phase begins. False where a slot tag could not be updated
and the tile has ended for it (12 R366, R377). -/
def publish (c : Nat) (q : Seq) (kind : PubKind) : Act Bool := do
  let s ← get
  if copiesPending s c then
    set (s.updSeq c q fun x => { x with publishing := some kind })
    waitFor .memory
  else
    publishWindows c
    match ← tagPlaces c with
    | .error (code, va, pc) =>
      escalateTile c code.num 0 va pc
      return false
    | .ok l =>
      let t ← tileOf c
      commitVersion c
      writeTags t.reg.id l
      return true

end Sys2Proof.Machine
end

