-- ==== Sys2Proof/Machine/CtlMem.lean ====
section
/-! DEFINITION. CTL: scalar loads and stores and atomics (05 R132–R138). -/

namespace Sys2Proof.Machine

/-! f8 of LDS and STS (R132). -/

def ldSpace (f8 : BitVec 8) : Nat := (bits f8 3 2).toNat
def ldSigned (f8 : BitVec 8) : Bool := bits f8 2 1 = 1
def ldSize (f8 : BitVec 8) : Nat := 2 ^ (bits f8 0 2).toNat

/-- A loaded value, sign- or zero-extended (R132). -/
def extended (signed : Bool) (l : List Byte) : DWord :=
  if signed then BitVec.ofInt 64 (sval (8 * l.length) (ofBytes l)) else BitVec.ofNat 64 (ofBytes l)

/-- Read the expert store as LDS.XS does (R135, 02 R50). -/
def xsLoad (supv : Bool) (a n : Nat) : Act (List Byte) := do
  trapIf (!supv) .privilege
  trapIf (a % n ≠ 0) .align a
  trapIf (decide (a ≥ Config.expertBytes)) .xlateNotPresent a
  let s ← get
  trapIf (s.m.xsPoison.contains (a / 128)) .poisonConsumed a
  return (upto a n).map fun x => SMap.get 0 s.m.xs x

/-- LDS (R132–R135). -/
def execLds (o : RL) (s : State) : Host.Outcome State Fault Refusal :=
  plain .ctl (.lds o) (do
    let k ← thisCore
    let s ← get
    let t ← tileOf s.core
    let a := (effAddr k o.a o.ext).toNat
    let n := ldSize o.f8
    let l ←
      if ldSpace o.f8 = 2 then xsLoad t.reg.supv a n
      else do
        trapIf (a % n ≠ 0) .align a
        if ldSpace o.f8 = 0 then loadBytes s.core a n else spLoad s.core a n
    modCore fun k => k.setS o.d.toNat (extended (ldSigned o.f8) l)
    advance .ctl 8) s

/-- STS (R132–R134). -/
def execSts (o : RL) (s : State) : Host.Outcome State Fault Refusal :=
  plain .ctl (.sts o) (do
    let k ← thisCore
    let s ← get
    let a := (effAddr k o.a o.ext).toNat
    let n := ldSize o.f8
    let l := bytesOf n (k.sreg o.d.toNat).toNat
    trapIf (a % n ≠ 0) .align a
    if ldSpace o.f8 = 0 then storeBytes s.core a l else spStore s.core a l
    advance .ctl 8) s

/-! Atomics (R136). -/

/-- The new value an atomic forms on `n`-bit operands, none where CAS does not match (R136). -/
def atomNew (op : AtomOp) (n old v w : Nat) : Option Nat :=
  match op with
  | .add => some ((old + v) % 2 ^ n)
  | .and => some (old &&& v)
  | .or => some (old ||| v)
  | .xor => some (old ^^^ v)
  | .min => some (if sval n old ≤ sval n v then old else v)
  | .max => some (if sval n old ≥ sval n v then old else v)
  | .minu => some (Nat.min old v)
  | .maxu => some (Nat.max old v)
  | .swp => some v
  | .cas => if old = v then some w else none

/-- Scope by its code (R136). -/
def scopeOf (n : BitVec 2) : Scope :=
  match n.toNat with
  | 0 => .core | 1 => .cluster | 2 => .device | _ => .system

/-- Does the PCIe completer have this operation (R138)? -/
def pcieHas (op : AtomOp) : Bool := op = .add || op = .swp || op = .cas

/-- Send an atomic to the host: by an AtomicOp where PCIe has one and they are in use, else by the region's fallback,
else it traps with its address (R138, 17 R488; log 12). -/
def hostAtomic (c : Nat) (q : Seq) (haf : Bool) (op : AtomOp) (size va loc v w : Nat) : Act Unit := do
  let s ← get
  let out := pcieHas op && atomicOps s
  if out || fallbackBit s haf then
    let a : HostAtom := { core := c, sq := q, op := op, size := size, loc := loc, v := v, w := w, fallback := !out, since := s.cycle }
    set { s with hostAtoms := s.hostAtoms ++ [a] }
  else trap .hostAtomicUnsupported va

/-- The conditions of an atomic at a virtual address that its operands do not decide (R64, R136–R138). -/
def atomicProbe (c : Nat) (op : AtomOp) (size va : Nat) : Act Unit := do
  trapIf (va % size ≠ 0) .align va
  let t ← tileOf c
  let loc ← translate (t.reg.ctx (some (clusterOf c))) .write va
  let s ← get
  if isLocal loc then
    if pinnedElsewhere s (some (clusterOf c)) loc then throw (.refused va) else pure ()
  else if isHost loc then
    trapIf (!(pcieHas op && atomicOps s) && !fallbackBit s t.reg.haf) .hostAtomicUnsupported va
  else trapIf (unroutable s loc) .xlateNotPresent va

/-- Perform an atomic of a sequencer at a virtual address: the old value (R64, R136–R138). A remote one sends its
request and waits; when the answer is there it is taken. -/
def atomicAt (c : Nat) (q : Seq) (remote : Option Remote) (setRemote : Option Remote → Act Unit) (op : AtomOp)
    (scope : Scope) (size va v w : Nat) : Act Nat := do
  trapIf (va % size ≠ 0) .align va
  match remote with
  | some (.done l) =>
    setRemote none
    return ofBytes l
  | some (.failed code) =>
    setRemote none
    trap code va
  | some (.waiting _) => waitFor .memory
  | none =>
    let t ← tileOf c
    let loc ← translate (t.reg.ctx (some (clusterOf c))) .write va
    if isLocal loc then atomicLocal (clusterOf c) t.reg.id scope loc size va fun old => atomNew op (8 * size) old v w
    else if isHost loc then
      hostAtomic c q t.reg.haf op size va loc v w
      setRemote (some (.waiting 0))
      waitFor .memory
    else
      let s ← get
      if routeLinks s (peerDev loc) = 0 then trap .xlateNotPresent va
      else
        set (askPeer { loc := loc, tag := 0, kind := .atomic op size v w, who := some (c, q) } s)
        setRemote (some (.waiting s.nextTag))
        waitFor .memory

/-- An atomic of CTL that writes Sd and goes on (R136, R137). -/
def ctlAtomic (op : AtomOp) (size scope : Nat) (d a : BitVec 6) (v w : DWord) : Act Unit := do
  let s ← get
  let k := s.coreOf s.core
  let c := s.core
  let old ← atomicAt c .ctl k.ctl.remote (fun r => modCoreAt c fun k => k.updSeq .ctl fun x => { x with remote := r })
    op (scopeOf (BitVec.ofNat 2 scope)) size (k.sreg a.toNat).toNat (v.toNat % 2 ^ (8 * size)) (w.toNat % 2 ^ (8 * size))
  modCore fun k => k.setS d.toNat (BitVec.ofNat 64 old)
  advance .ctl 8

/-- SIZE and SCOPE of ATOM: f8[6] and f8[5:4] are bits 2 and [1:0] of f8[7:4] (R136). -/
def atomSize (hi : BitVec 4) : Nat := if bits hi 2 1 = 1 then 8 else 4
def atomScope (hi : BitVec 4) : Nat := (bits hi 0 2).toNat

/-- The operand Sb that ext[5:0] names (R136). -/
def atomOp (op : AtomOp) (o : RL4) : Act Unit := do
  let k ← thisCore
  ctlAtomic op (atomSize o.hi) (atomScope o.hi) o.d o.a (k.sreg (bits o.ext 0 6).toNat) 0

/-- ATOM.ADD (R136). -/
def execAtomAdd (o : RL4) (s : State) : Host.Outcome State Fault Refusal :=
  plain .ctl (.atomAdd o) (atomOp .add o) s

/-- ATOM.AND (R136). -/
def execAtomAnd (o : RL4) (s : State) : Host.Outcome State Fault Refusal :=
  plain .ctl (.atomAnd o) (atomOp .and o) s

/-- ATOM.OR (R136). -/
def execAtomOr (o : RL4) (s : State) : Host.Outcome State Fault Refusal :=
  plain .ctl (.atomOr o) (atomOp .or o) s

/-- ATOM.XOR (R136). -/
def execAtomXor (o : RL4) (s : State) : Host.Outcome State Fault Refusal :=
  plain .ctl (.atomXor o) (atomOp .xor o) s

/-- ATOM.MIN (R136). -/
def execAtomMin (o : RL4) (s : State) : Host.Outcome State Fault Refusal :=
  plain .ctl (.atomMin o) (atomOp .min o) s

/-- ATOM.MAX (R136). -/
def execAtomMax (o : RL4) (s : State) : Host.Outcome State Fault Refusal :=
  plain .ctl (.atomMax o) (atomOp .max o) s

/-- ATOM.MINU (R136). -/
def execAtomMinu (o : RL4) (s : State) : Host.Outcome State Fault Refusal :=
  plain .ctl (.atomMinu o) (atomOp .minu o) s

/-- ATOM.MAXU (R136). -/
def execAtomMaxu (o : RL4) (s : State) : Host.Outcome State Fault Refusal :=
  plain .ctl (.atomMaxu o) (atomOp .maxu o) s

/-- ATOM.SWP (R136). -/
def execAtomSwp (o : RL4) (s : State) : Host.Outcome State Fault Refusal :=
  plain .ctl (.atomSwp o) (atomOp .swp o) s

/-- CAS (R136). -/
def execCas (o : RL) (s : State) : Host.Outcome State Fault Refusal :=
  plain .ctl (.cas o) (do
    let k ← thisCore
    let hi := bits o.f8 4 4
    ctlAtomic .cas (atomSize hi) (atomScope hi) o.d o.a (k.sreg (bits o.ext 0 6).toNat) (k.sreg (bits o.ext 8 6).toNat)) s

/-! Answers from the host (R138, 17 R496). -/

/-- The atomic that a sequencer has out on the host: the oldest. -/
def hostAtomOf (s : State) (c : Nat) (q : Seq) : Option HostAtom := s.hostAtoms.find? fun a => a.core = c && a.sq = q

/-- Drop it from the list. -/
def dropHostAtom (c : Nat) (q : Seq) (s : State) : State :=
  { s with hostAtoms := s.hostAtoms.eraseP fun a => a.core = c && a.sq = q }

/-- Give the answer to whoever waits: CTL, or the head of ST's direct queue (08 R249). -/
def answerAtomic (c : Nat) (q : Seq) (r : Remote) (s : State) : State :=
  if q = .ctl then s.updSeq c .ctl fun x => { x with remote := some r }
  else s.updCore c fun k => { k with sts := { k.sts with
    direct := match k.sts.direct with
      | op :: l => { op with remote := some r } :: l
      | [] => [] } }

/-- An atomic on the host is finished: whoever waits gets the answer. -/
def finishHostAtom (a : HostAtom) (r : Remote) (s : State) : State :=
  let s := dropHostAtom a.core a.sq s
  if a.live then answerAtomic a.core a.sq r s else s

/-- HOST_ATOMIC_COMPLETION (R138): the completer's value, or the fallback, or the trap. The driver performs a request
only if it stands in the mailbox and its claim has taken effect (18 R511). -/
def execHostAtomicCompletion (s : State) : Host.Outcome State Fault Refusal :=
  event (fun s => match hostAtomOf s s.ev.core s.ev.sq with
    | none => false
    | some a => !a.fallback || (a.seq.isSome && s.sv.claim)) (do
    let s ← get
    let c := s.ev.core
    let q := s.ev.sq
    match hostAtomOf s c q with
    | none => pure ()
    | some a =>
      match s.ev.reply with
      | .value v =>
        let old := v.toNat % 2 ^ (8 * a.size)
        let new := (atomNew a.op (8 * a.size) old a.v a.w).getD old
        set (finishHostAtom a (.done (bytesOf a.size old)) { s with m := writeRemote (placed a.loc (bytesOf a.size new)) s.m })
      | .unsupported =>
        let haf := ((s.coreOf c).tile.map fun t => t.reg.haf).getD false
        if fallbackBit s haf && !a.fallback then
          set { s with hostAtoms := s.hostAtoms.map fun (b : HostAtom) =>
            if b = a then { b with fallback := true, since := s.cycle } else b }
        else set (finishHostAtom a (.failed .hostAtomicUnsupported) s)) s

end Sys2Proof.Machine
end

