-- ==== Sys2Proof/Machine/CtlSync.lean ====
section
/-! DEFINITION. CTL: tokens, semaphores, arrival bitmaps, fences, publication, barriers, windows, handles, templates
and yield (05 R139–R151, R160, R161, 02 R45, R54, 08 R250, R251). -/

namespace Sys2Proof.Machine

/-- The sequencer that executes one of the five rows CTL, LD and ST share (04 R106). -/
def sharer (s : State) : Seq := if s.sq = .cmp then .ctl else s.sq

/-! Tokens (R139, R140). -/

/-- TKWAIT (R139, 01 R19). -/
def execTkwait (o : RI) (s : State) : Host.Outcome State Fault Refusal :=
  plain (sharer s) (.tkwait o) (do
    let q := sharer s
    let k ← thisCore
    let have_ := k.tokens (seqOf o.a.toNat) q
    if have_ < o.imm.toNat then waitFor .token
    else
      modCore fun k => k.setTokens (seqOf o.a.toNat) q (have_ - o.imm.toNat)
      advance q 4) s

/-- Has a sequencer finished what its TKPOST stands for (R140, 07 R226, 08 R259)? -/
def postReady (k : Core) (q : Seq) : Bool :=
  match q with
  | .ld => k.lds.direct.isEmpty
  | .st => stDrained k
  | _ => true

/-- TKPOST (R139, R140, 01 R19). A TKPOST that waits for earlier operations shows code 3 of R163 (log 19). -/
def execTkpost (o : RI) (s : State) : Host.Outcome State Fault Refusal :=
  plain (sharer s) (.tkpost o) (do
    let q := sharer s
    let k ← thisCore
    if !postReady k q && o.imm.toNat ≠ 0 then waitFor .queue
    else
      let n := k.tokens q (seqOf o.a.toNat) + o.imm.toNat
      trapIf (decide (n > 255)) .tokenOverflow
      modCore fun k => k.setTokens q (seqOf o.a.toNat) n
      advance q 4) s

/-! Semaphores (R141). -/

/-- v := (Sa + ext)[47:0] (R141). -/
def semOperand (k : Core) (o : RL) : Nat := ((k.sreg o.a.toNat) + zx64 o.ext).toNat % 2 ^ 48

/-- f8[7] and f8[5:0]: cluster semaphore, number (R141). -/
def semCluster (o : RL) : Bool := bits o.f8 7 1 = 1
def semIndex (o : RL) : Nat := (bits o.f8 0 6).toNat

/-- SEMWAIT (R141). -/
def execSemwait (o : RL) (s : State) : Host.Outcome State Fault Refusal :=
  plain .ctl (.semwait o) (do
    let s ← get
    let k ← thisCore
    let v := s.semOf s.core (semCluster o) (semIndex o)
    if v.toNat < semOperand k o then waitFor .object
    else
      modCore fun k => k.setS o.d.toNat (zx64 v)
      advance .ctl 8) s

/-- SEMADD (R141). -/
def execSemadd (o : RL) (s : State) : Host.Outcome State Fault Refusal :=
  plain .ctl (.semadd o) (do
    let s ← get
    let k ← thisCore
    let t ← tileOf s.core
    let v ← semAdd s.core (semCluster o) (semIndex o) (semOperand k o) t.reg.id
    modCore fun k => k.setS o.d.toNat (zx64 v)
    advance .ctl 8) s

/-- SEMSET (R141). -/
def execSemset (o : RL) (s : State) : Host.Outcome State Fault Refusal :=
  plain .ctl (.semset o) (do
    let s ← get
    let k ← thisCore
    let old := s.semOf s.core (semCluster o) (semIndex o)
    modify fun s => s.setSem s.core (semCluster o) (semIndex o) (BitVec.ofNat 48 (semOperand k o))
    modCore fun k => k.setS o.d.toNat (zx64 old)
    advance .ctl 8) s

/-! Arrival bitmaps (R142). -/

/-- ARVW (R142). -/
def execArvw (o : R3F) (s : State) : Host.Outcome State Fault Refusal :=
  plain .ctl (.arvw o) (do
    let k ← thisCore
    let v := SMap.get 0 k.arv o.a.toNat
    let m := k.sreg o.b.toNat
    let met := if o.f = 0 then v &&& m = m else m = 0 ∨ v &&& m ≠ 0
    if met then
      modCore fun k => k.setS o.d.toNat v
      advance .ctl 4
    else waitFor .object) s

/-- ARVCLR (R142). -/
def execArvclr (o : R3F) (s : State) : Host.Outcome State Fault Refusal :=
  plain .ctl (.arvclr o) (do
    modCore fun k => { k with arv := SMap.put k.arv o.a.toNat (SMap.get 0 k.arv o.a.toNat &&& ~~~(k.sreg o.b.toNat)) }
    advance .ctl 4) s

/-! Fences, acquire and publication (R143–R145). -/

/-- Are chunks of an MFILL still filling? -/
def fillsRunning (k : Core) (o : DirectOp) : Bool :=
  match SMap.find k.windows o.d with
  | some w => (upto (winSoff w.desc + o.addr) (bits o.ext 0 10).toNat).any fun ch => (k.chunk ch).run = .filling
  | none => false

/-- What a fence waits for: on LD every read that has started and is not held (R143, 07 R229, 08 R260, 13 R393). -/
def fenceReady (s : State) (c : Nat) (q : Seq) : Bool :=
  let k := s.coreOf c
  match q with
  | .ctl => !copiesPending s c && (s.clusterAt (clusterOf c)).fi.disps.all fun d => d.core ≠ c
  | .ld => (match k.lds.direct.head? with
      | some o => o.held.isSome && !(o.kind = .mfill && fillsRunning k o)
      | none => true) && k.lds.binds.all fun b => b.2.reading.isEmpty && !(b.2.started && b.2.held.isNone)
  | .st => stDrained k && !putsOut s c
  | .cmp => true

/-- FENCE (R143). -/
def execFence (o : R3F) (s : State) : Host.Outcome State Fault Refusal :=
  plain (sharer s) (.fence o) (do
    let q := sharer s
    let s ← get
    if fenceReady s s.core q then
      if 2 ≤ o.f.toNat then modify fun s => releaseLines (clusterOf s.core) (fun _ => true) s else pure ()
      advance q 4
    else waitFor .memory) s

/-- ACQ (R144, 02 R59). -/
def execAcq (o : R3F) (s : State) : Host.Outcome State Fault Refusal :=
  plain .ctl (.acq o) (do
    let s ← get
    if o.f = 3 then modCore fun k => { k with rdcFloor := s.m.pubCount } else pure ()
    advance .ctl 4) s

/-- The arrival that ends a BARV, once its publication has committed (R147). -/
def barArrive (c : Nat) (device : Bool) (num : Nat) : Act Unit := do
  let s ← get
  let cl := clusterOf c
  let b := s.barrier cl device num
  if b.a = b.e then
    set (s.updSeq c .ctl fun x => { x with granted := some 0, publishing := none })
    waitFor .object
  else
    set (s.updBarrier cl device num fun b => { b with a := b.a + 1 })
    modTile c fun t => { t with
      joined := ⟨device, num, b.gen⟩ :: t.joined.filter fun j => !(j.device = device && j.num = num) }
    modify fun s => s.advance c .ctl 4

/-- What follows the commit of a publication, by the instruction that made it (R145, R147, R158). -/
def published (c : Nat) (q : Seq) (kind : PubKind) : Act Unit :=
  match kind with
  | .publish => modify fun s => s.advance c q 4
  | .barv device num => barArrive c device num
  | .tend => do
    modTile c fun t => { t with committed := true }
    modify fun s => s.updSeq c .ctl fun x => { x.clearWaits with run := .idle }

/-- Publish and finish the instruction that does so. -/
def publishFor (c : Nat) (q : Seq) (kind : PubKind) : Act Unit := do
  if ← publish c q kind then published c q kind else pure ()

/-- PUBLISH (R145; on ST 08 R260, with code 3 of R163 while ST still has operations to do, log 19). -/
def execPublish (s : State) : Host.Outcome State Fault Refusal :=
  plain (sharer s) .publish (do
    let q := sharer s
    let k ← thisCore
    let s ← get
    if q = .st && !stDrained k then waitFor .queue else publishFor s.core q .publish) s

/-- PUBLICATION_COMMIT (02 R54): a publication that waited for the tile's copies commits, and the instruction that
publishes completes. -/
def execPublicationCommit (s : State) : Host.Outcome State Fault Refusal :=
  let c := s.ev.core
  let q := s.ev.sq
  match ((s.coreOf c).seq q).publishing with
  | none => .next s
  | some kind => if copiesPending s c then .next s else settle c q (publishFor c q kind s)

/-- BARV (R147). -/
def execBarv (o : R3F) (s : State) : Host.Outcome State Fault Refusal :=
  plain .ctl (.barv o) (do
    let s ← get
    let device := o.f = 1
    let n := o.a.toNat
    trapIf ((s.barrier (clusterOf s.core) device n).e = 0) .reservedField
    if ((s.coreOf s.core).ctl.granted).isSome then barArrive s.core device n
    else publishFor s.core .ctl (.barv device n)) s

/-- BARW (R147, 02 R48). -/
def execBarw (o : R3F) (s : State) : Host.Outcome State Fault Refusal :=
  plain .ctl (.barw o) (do
    let s ← get
    let device := o.f = 1
    let n := o.a.toNat
    let b := s.barrier (clusterOf s.core) device n
    trapIf (b.e = 0) .reservedField
    let t ← tileOf s.core
    let mine := fun (j : Joined) => j.device = device && j.num = n
    let g := (((t.joined.find? mine).or ((s.coreOf s.core).ctl.barw)).map (·.gen)).getD b.gen
    if g < b.gen then
      writeBackAll s.core
      newPhase s.core
      modTile s.core fun t => { t with joined := t.joined.filter fun j => !mine j }
      advance .ctl 4
    else
      modCore fun k => k.updSeq .ctl fun x => { x with barw := some ⟨device, n, g⟩ }
      waitFor .object) s

/-! Windows, handles and templates (R148–R151). -/

/-- The header of an MQ window (08 R251). -/
def mqHeader (w : MqWin) : List Byte :=
  bytesOf 4 (w.head % 2 ^ 32) ++ bytesOf 4 (w.tail % 2 ^ 32) ++ bytesOf 4 w.n ++ bytesOf 4 w.esz ++ bytesOf 48 0

/-- Change a window's queue and rewrite its header (08 R251). -/
def setMq (c n : Nat) (f : MqWin → MqWin) (s : State) : State :=
  s.updCore c fun k =>
    match SMap.find k.windows n with
    | none => k
    | some w =>
      let q := f w.mq
      { k with windows := SMap.put k.windows n { w with mq := q } }.spWrite (winSoff w.desc * 4096) (mqHeader q)

/-- MQADV (R148, 08 R251). -/
def execMqadv (o : R3F) (s : State) : Host.Outcome State Fault Refusal :=
  plain .ctl (.mqadv o) (do
    let k ← thisCore
    match SMap.find k.windows o.a.toNat with
    | none => trap .reservedField
    | some w =>
      trapIf (winMode w.desc ≠ modeMq) .reservedField
      let n := Nat.min (k.sreg o.b.toNat).toNat (w.mq.tail - w.mq.head)
      modify fun s => setMq s.core o.a.toNat (fun q => { q with head := q.head + n }) s
      modCore fun k => k.setS o.d.toNat (BitVec.ofNat 64 n)
      advance .ctl 4) s

/-- Entry bytes and entries of an MQ window's descriptor (08 R250). -/
def mqEsz (d : QWord) : Nat := 64 * 2 ^ (bits d 72 3).toNat
def mqN (d : QWord) : Nat := winLen d * 4096 / mqEsz d - 1

/-- Reserved bits and modes of a descriptor (02 R45, 08 R250). -/
def winReserved (d : QWord) : Bool :=
  bits d 116 12 ≠ 0 || bits d 32 40 ≠ 0 || bits d 8 5 ≠ 0 || bits d 3 4 ≠ 0 || decide (winMode d > 4) ||
  (winMode d = modeMq && (bits d 72 3 = 7 || bits d 75 41 ≠ 0))

/-- Does a chunk range overlap an installed window? -/
def winOverlaps (k : Core) (d : QWord) : Bool :=
  k.windows.any fun e =>
    decide (winSoff e.2.desc < winSoff d + winLen d) && decide (winSoff d < winSoff e.2.desc + winLen e.2.desc)

/-- Install a window (02 R45, R46). -/
def installWindow (n : Nat) (d : QWord) (k : Core) : Core :=
  let run := if winMode d = modeSnap || winMode d = modeRw then ChunkRun.unfilled else ChunkRun.valid
  let q : MqWin := if winMode d = modeMq then { n := mqN d, esz := mqEsz d } else {}
  let k : Core := { k with
    windows := SMap.put k.windows n { desc := d, mq := q }
    chunks := (upto (winSoff d) (winLen d)).foldl (fun m c => SMap.put m c { run := run }) k.chunks }
  if winMode d = modeMq then k.spWrite (winSoff d * 4096) (mqHeader q) else k

/-- WSET (R149, 02 R45, 08 R250). -/
def execWset (o : R3F) (s : State) : Host.Outcome State Fault Refusal :=
  plain .ctl (.wset o) (do
    let s ← get
    let k ← thisCore
    let t ← tileOf s.core
    let d : QWord := (k.sreg o.b.toNat) ++ (k.sreg o.a.toNat)
    trapIf (winReserved d) .reservedField
    trapIf (winLen d = 0 || decide (winSoff d + winLen d > 512) ||
      decide ((winSoff d + winLen d) * 4096 > t.reg.spTile) || winOverlaps k d ||
      (SMap.find k.windows o.d.toNat).isSome ||
      (winMode d = modeMq && decide (winLen d * 4096 / mqEsz d < 2))) .scratchRange (winSoff d * 4096)
    modCore (installWindow o.d.toNat d)
    advance .ctl 4) s

/-- Remove a window and its chunks. -/
def removeWindow (n : Nat) (k : Core) : Core :=
  match SMap.find k.windows n with
  | none => k
  | some w => { k with
      windows := SMap.erase k.windows n
      chunks := (upto (winSoff w.desc) (winLen w.desc)).foldl (fun m c => SMap.erase m c) k.chunks }

/-- WREL (R149, 02 R48, 08 R256). -/
def execWrel (o : R3F) (s : State) : Host.Outcome State Fault Refusal :=
  plain .ctl (.wrel o) (do
    let s ← get
    let k ← thisCore
    match SMap.find k.windows o.d.toNat with
    | none => advance .ctl 4
    | some w =>
      if w.mq.msgs.isEmpty then
        writeBackChunks s.core w.desc (upto (winSoff w.desc) (winLen w.desc))
        modCore (removeWindow o.d.toNat)
        advance .ctl 4
      else waitFor .memory) s

/-- HSET (R150). -/
def execHset (o : R3F) (s : State) : Host.Outcome State Fault Refusal :=
  plain .ctl (.hset o) (do
    modCore fun k => { k with h := SMap.put k.h o.d.toNat (bits (k.sreg o.a.toNat) 0 32) }
    advance .ctl 4) s

/-- Write an entry of the template tables; one with TOP = 0 empties it (R151). -/
def setTemplate (slot idx : Nat) (t : QWord) (k : Core) : Core :=
  { k with comp := { k.comp with
    tmpl := if bits t 120 8 = 0 then SMap.erase k.comp.tmpl (slot * 64 + idx) else SMap.put k.comp.tmpl (slot * 64 + idx) t } }

/-- TMPLD (R151). -/
def execTmpld (o : RL) (s : State) : Host.Outcome State Fault Refusal :=
  plain .ctl (.tmpld o) (do
    let s ← get
    let k ← thisCore
    let a := (effAddr k o.a o.ext).toNat
    trapIf (a % 16 ≠ 0) .align a
    let l ← spLoad s.core a 16
    modCore (setTemplate (bits o.f8 0 2).toNat o.d.toNat (BitVec.ofNat 128 (ofBytes l)))
    modTile s.core fun t => { t with tmplRan := true }
    advance .ctl 8) s

/-! Yield and no-operation (R160, R161). -/

/-- YIELD (R160, 06 R189). -/
def execYield (s : State) : Host.Outcome State Fault Refusal :=
  plain .ctl .yield (do
    let s ← get
    let k ← thisCore
    advance .ctl 4
    if (k.tile.bind (·.yieldReq)).isSome && !k.trap.mode then
      modCore fun k =>
        let k := k.noteWait s.cycle
        { k with ld := k.ld.abandon, cmp := k.cmp.abandon, st := k.st.abandon }.startSaving .yield s.cycle
    else pure ()) s

/-- NOP (R161). -/
def execNop (s : State) : Host.Outcome State Fault Refusal := plain (sharer s) .nop (advance (sharer s) 4) s

end Sys2Proof.Machine
end

