-- ==== Sys2Proof/Machine/Stream.lean ====
section
/-! DEFINITION. Shape records, the shape cache, walks, and what LD and ST share: held faults, retries and the index
instructions (07 R206–R216, R225, 08 R244–R246). -/

namespace Sys2Proof.Machine

/-! Resolution (R206–R208). -/

/-- A shape record from its 64 bytes (R207). -/
def shapeOf (l : List Byte) : Shape :=
  let cfg := field l 0x08 4
  { base := field l 0x00 8
    esz := nbits cfg 0 2
    sp := nbits cfg 2 1 = 1
    ndim := nbits cfg 4 2
    paden := nbits cfg 6 1 = 1
    pad := field l 0x0C 4
    ext := (upto 0 4).map fun i => field l (0x10 + 4 * i) 4
    stride := (upto 0 4).map fun i => sval 32 (field l (0x20 + 4 * i) 4)
    box := (upto 0 4).map fun i => field l (0x30 + 2 * i) 2 }

/-- Read the header and a record as committed values (R206, R208). -/
def readShape (t : Tile) (c i : Nat) : Act Shape := do
  let x := t.reg.ctx (some (clusterOf c))
  let h ← readAs x t.reg.shapes 4
  trapIf (decide (i > ofBytes h)) .shapeBounds
  let l ← readAs x (t.reg.shapes + 64 * i) 64
  return shapeOf l

/-- Resolve a handle: the shape cache, or the table in memory (R206, R208). -/
def resolve (c h : Nat) : Act Shape := do
  let s ← get
  let k := s.coreOf c
  let t ← tileOf c
  let v := k.hreg h
  let i := (bits v 0 16).toNat
  trapIf (bits v 16 16 ≠ 0) .reservedField
  trapIf (i = 0) .shapeBounds
  let is := fun (e : ShapeEnt) => e.region = t.reg.id && e.index = i
  match k.shapeCache.find? is with
  | some e =>
    modCoreAt c fun k => { k with
      shapeCache := e :: k.shapeCache.filter fun e => !is e
      shHit := (k.shHit + 1) % 2 ^ 32 }
    return e.shape
  | none =>
    let sh ← readShape t c i
    modCoreAt c fun k => { k with
      shapeCache := (⟨t.reg.id, i, sh⟩ :: k.shapeCache).take 256
      shMiss := (k.shMiss + 1) % 2 ^ 32 }
    return sh

/-! Walks (R210, R219). -/

/-- A walk: its record, origin, and the dimension that an index list replaces, if any. -/
structure Walk where
  shape : Shape
  org : List Int
  g : Nat := 0
  listOff : Nat := 0
  listCnt : Nat := 0
  deriving DecidableEq, Repr

/-- The walk of a binding. -/
def Binding.walk (b : Binding) : Walk := ⟨b.shape, b.org, b.g, b.listOff, b.listCnt⟩

/-- Bytes of an element. -/
def Shape.bytes (s : Shape) : Nat := 2 ^ s.esz

/-- Lanes of an entry. -/
def Shape.lanes (s : Shape) : Nat := 512 / s.bytes

/-- Box size of a dimension; 1 above NDIM. -/
def Walk.box (w : Walk) (j : Nat) : Nat :=
  if j > w.shape.ndim then 1 else if w.g = j ∧ j ≠ 0 then w.listCnt else w.shape.box.getD j 0

/-- Chunks that dimension 0 is cut into. -/
def Walk.nch (w : Walk) : Nat := (w.box 0 + w.shape.lanes - 1) / w.shape.lanes

/-- Entries of the walk. -/
def Walk.entries (w : Walk) : Nat := w.nch * ((upto 1 3).map w.box).foldl (· * ·) 1

/-- Position of entry `e` along dimension `j` ≥ 1. -/
def Walk.pos (w : Walk) (e j : Nat) : Nat :=
  e / w.nch / ((upto 1 (j - 1)).map w.box).foldl (· * ·) 1 % w.box j

/-- What a lane of an entry is. -/
inductive Lane
  | pad
  | out
  | at (a : Nat)
  deriving DecidableEq, Repr

/-- Lane `l` of entry `e`, given the coordinates of dimensions 1 to 3 (R210). -/
def Walk.lane (w : Walk) (e : Nat) (c : List Int) (l : Nat) : Lane :=
  let i := e % w.nch * w.shape.lanes + l
  if i ≥ w.box 0 then .pad
  else
    let cs : List Int := (w.org.getD 0 0 + i) :: c
    let dims := upto 0 (w.shape.ndim + 1)
    if dims.any fun j => decide (cs.getD j 0 < 0) || decide (cs.getD j 0 ≥ w.shape.ext.getD j 0) then
      if w.shape.paden then .pad else .out
    else .at (wrapInt 64 (w.shape.base + (dims.map fun j => cs.getD j 0 * w.shape.stride.getD j 0).sum))

/-- The lanes of entry `e`; an index of 0xFFFF_FFFF makes all of them PAD (R219). -/
def walkLanes (c : Nat) (w : Walk) (e : Nat) : Act (List Lane) := do
  let co := (upto 1 3).map fun j => w.org.getD j 0 + (w.pos e j : Int)
  let ls := upto 0 w.shape.lanes
  if w.g = 0 then return ls.map (w.lane e co)
  else
    let v ← spLoad c (w.listOff + 4 * w.pos e w.g) 4
    if ofBytes v = 2 ^ 32 - 1 then return ls.map fun _ => Lane.pad
    else return ls.map (w.lane e (co.set (w.g - 1) (ofBytes v)))

/-- The PAD element (R207). -/
def Shape.padBytes (s : Shape) : List Byte := bytesOf s.bytes s.pad

/-- An entry whose lanes are all PAD. -/
def Shape.padEntry (s : Shape) : List Byte := ((upto 0 s.lanes).map fun _ => s.padBytes).flatten

/-! Lane by lane (R211, R244). -/

/-- The stops among the answers of lanes. -/
def stopsOf {α : Type} (l : List (Nat × Except Stop α)) : List (Nat × Stop) :=
  l.filterMap fun x =>
    match x.2 with
    | .error e => some (x.1, e)
    | .ok _ => none

/-- The values among the answers of lanes. -/
def valuesOf {α : Type} (l : List (Nat × Except Stop α)) : List α :=
  l.filterMap fun x =>
    match x.2 with
    | .error _ => none
    | .ok v => some v

/-- Run an action for every lane; answer all values, or the worst stop with its lane. -/
def byLane {α β : Type} (l : List α) (f : α → Act β) : Act (Except (Nat × Stop) (List β)) := do
  let r ← collect (l.zipIdx) fun x => do
    let y ← attempt (f x.1)
    return (x.2, y)
  match worst (stopsOf r) with
  | some e => return .error e
  | none => return .ok (valuesOf r)

/-- Read the element of one lane (R210, R211). -/
def laneRead (c : Nat) (sh : Shape) (x : Lane) : Act (List Byte) :=
  match x with
  | .pad => return sh.padBytes
  | .out => trap .shapeBounds
  | .at a => do
    trapIf (a % sh.bytes ≠ 0) .align a
    if sh.sp then spLoad c a sh.bytes
    else do
      trapIf (decide (a ≥ 2 ^ 56)) .xlateNotPresent a
      loadBytes c a sh.bytes

/-- Read an entry (R210, R211). -/
def readEntry (c : Nat) (w : Walk) (e : Nat) : Act (Except (Nat × Stop) (List Byte)) := do
  match ← attempt (walkLanes c w e) with
  | .error x => return .error (0, x)
  | .ok ls =>
    match ← byLane ls (laneRead c w.shape) with
    | .ok l => return .ok l.flatten
    | .error x => return .error x

/-- Where a lane of `n` bytes is written: a location for a global shape, an offset for a scratchpad one (R244). -/
def lanePlace (c : Nat) (sp : Bool) (a n : Nat) : Act Nat := do
  trapIf (a % n ≠ 0) .align a
  if sp then
    let s ← get
    trapIf (hitsSnap (s.coreOf c) a n) .xlatePermission a
    spCheck c a n
    touchChunks c a n
    return a
  else
    trapIf (decide (a ≥ 2 ^ 56)) .xlateNotPresent a
    tilePlace c .write a

/-- Check the write of one lane and find its bytes; where both its destination and its source fault, the lowest code
stops it (R244, R245). -/
def laneCheck (c : Nat) (sh : Shape) (x : Lane) (src : Act (List Byte)) : Act (List (Nat × Byte)) :=
  match x with
  | .pad => return []
  | .out => trap .shapeBounds
  | .at a => do
    match ← attempt (lanePlace c sh.sp a sh.bytes), ← attempt src with
    | .ok p, .ok l => return placed p l
    | .error e, .ok _ => throw e
    | .ok _, .error e => throw e
    | .error d, .error e => throw (if e.rank < d.rank then e else d)

/-- The first lane whose bytes take the version beyond its limit (R62, R244). -/
def overflowLane (c : Nat) (l : List (List (Nat × Byte))) : Nat → Act Nat
  | 0 => return 0
  | n + 1 => do
    match ← attemptUndo (versionWrite c 0 [] (l.take n).flatten) with
    | .ok _ => return n
    | .error _ => overflowLane c l n

/-- The lane at which located bytes take the version beyond its limit, if they do, with its address (R62, R244). -/
def overflowOf (c : Nat) (ls : List Lane) (l : List (List (Nat × Byte))) : Act (Option (Nat × Stop)) := do
  match ← attemptUndo (versionWrite c 0 [] l.flatten) with
  | .error (.trap code _) =>
    let n ← overflowLane c l l.length
    let a := match ls[n]? with
      | some (.at a) => a
      | _ => 0
    return some (n, .trap code a)
  | _ => return none

/-- The locations where lanes begin, with the lanes' addresses. -/
def laneVias (ls : List Lane) (l : List (List (Nat × Byte))) : List (Nat × Nat) :=
  (ls.zip l).filterMap fun x =>
    match x.1, x.2 with
    | .at a, (p, _) :: _ => some (p, a)
    | _, _ => none

/-- Put located lane bytes into the scratchpad or the open version. -/
def putLanes (c : Nat) (sp : Bool) (via : List (Nat × Nat)) (l : List (Nat × Byte)) : Act Unit :=
  if sp then modCoreAt c fun k => l.foldl (fun k e => dirtySectors (k.spWrite e.1 [e.2]) e.1 1) k
  else versionWrite c 0 via l

/-- The bytes that lanes would take in global memory, of those whose places can be written. -/
def laneDests (c : Nat) (sh : Shape) (ls : List Lane) : Act (List (List (Nat × Byte))) :=
  collect ls fun x =>
    match x with
    | .at a => do
      match ← attempt (lanePlace c false a sh.bytes) with
      | .ok p => return placed p (bytesOf sh.bytes 0)
      | .error _ => return []
    | _ => return []

/-- Write an entry whole: its lanes with their source bytes, or the worst stop (R237, R244; 01 R31; log 11). -/
def writeEntry (c : Nat) (w : Walk) (e : Nat) (src : Nat → Act (List Byte)) (lanes : Nat) :
    Act (Except (Nat × Stop) Unit) := do
  match ← attempt (walkLanes c w e) with
  | .error x => return .error (0, x)
  | .ok ls =>
    let ls := ls.take lanes
    match ← byLane ls.zipIdx (fun x => laneCheck c w.shape x.1 (src x.2)) with
    | .error x =>
      if !w.shape.sp && decide (Code.phaseOverflow.num < x.2.rank) then
        let l ← laneDests c w.shape ls
        return .error ((← overflowOf c ls l).getD x)
      else return .error x
    | .ok l =>
      match ← attempt (putLanes c w.shape.sp (laneVias ls l) l.flatten) with
      | .ok _ => return .ok ()
      | .error x => return .error ((← overflowOf c ls l).getD (0, x))

/-- Of an entry that is dropped, write the lanes below the one that faulted, but for those that fault themselves
(R246). -/
def writeBelow (c : Nat) (w : Walk) (e : Nat) (src : Nat → Act (List Byte)) (lanes : Nat) : Act Unit := do
  match ← attempt (walkLanes c w e) with
  | .error _ => pure ()
  | .ok ls => each ((ls.take lanes).zipIdx) fun x => do
    match ← attempt (laneCheck c w.shape x.1 (src x.2)) with
    | .ok l =>
      let _ ← attempt (putLanes c w.shape.sp (laneVias [x.1] [l]) l)
      pure ()
    | .error _ => pure ()

/-! Held faults (R214–R216, 08 R245, R246). -/

/-- Where a head waits without a fault. -/
structure HeadWait where
  hold : Option Hold := none
  refused : Option Hold := none
  held : Option HeldFault := none
  deriving DecidableEq, Repr

/-- What a stop makes of a queue's head: a held fault, or a wait that will be tried again (R214, R215). -/
def headStop (lane entry : Nat) (e : Stop) (old : HeadWait) : Act HeadWait := do
  let s ← get
  match e with
  | .trap code va => return { held := some ⟨code, if code = .shapeBounds then 0 else va, lane, entry, false⟩ }
  | .held asid page va =>
    modify (requestFlip asid page)
    return { old with hold := some (sameHold old.hold ⟨asid, page, va, lane, s.cycle⟩) }
  | .refused va => return { old with refused := some (sameHold old.refused ⟨0, 0, va, lane, s.cycle⟩) }
  | .peer loc =>
    modify (requestPeer loc)
    return old
  | .wait _ => return old
  | .fault f => throw (.fault f)
  | .refuse r => throw (.refuse r)

/-- Waits of a binding and of a direct operation. -/
def Binding.waits (b : Binding) : HeadWait := ⟨b.hold, b.refused, b.held⟩
def Binding.setWaits (b : Binding) (h : HeadWait) : Binding := { b with hold := h.hold, refused := h.refused, held := h.held }
def DirectOp.waits (b : DirectOp) : HeadWait := ⟨b.hold, b.refused, b.held⟩
def DirectOp.setWaits (b : DirectOp) (h : HeadWait) : DirectOp := { b with hold := h.hold, refused := h.refused, held := h.held }

/-- Has an operation of a direct queue begun: a part of it is done, or the next one waits (07 R231, 08 R262)? -/
def DirectOp.begun (o : DirectOp) : Bool :=
  decide (0 < o.done) || o.started || o.padded || o.hold.isSome || o.refused.isSome || o.remote.isSome

/-- The head of a direct queue. -/
def Core.directHead (k : Core) (q : Seq) : Option DirectOp := (k.streamer q).direct.head?

/-- Change the head of a direct queue. -/
def Core.updDirect (k : Core) (q : Seq) (f : DirectOp → DirectOp) : Core :=
  k.updStreamer q fun x => { x with direct := match x.direct with
    | [] => []
    | o :: r => f o :: r }

/-- Remove the head of a direct queue. -/
def Core.dropDirect (k : Core) (q : Seq) : Core := k.updStreamer q fun x => { x with direct := x.direct.drop 1 }

/-- QUEUE of a held fault: 0–7 a bound queue, 8 the direct queue (R215, 08 R245). -/
def heldQueue (k : Core) (q : Seq) : Option (Nat × HeldFault) :=
  let base := if q = .st then 8 else 0
  let b := (upto 0 8).filterMap fun i =>
    match k.binding (base + i) with
    | some b => if b.reading.isEmpty then b.held.map fun h => (i, h) else none
    | none => none
  let d := ((k.directHead q).bind (·.held)).map fun h => ((8 : Nat), h)
  (b ++ d.toList).find? fun x => !x.2.reported

/-- Mark a held fault as reported. -/
def markReported (q : Seq) (queue : Nat) (k : Core) : Core :=
  let rep := fun (h : HeldFault) => { h with reported := true }
  if queue = 8 then k.updDirect q fun o => { o with held := o.held.map rep }
  else
    let n := if q = .st then 8 + queue else queue
    k.setBinding n ((k.binding n).map fun b => { b with held := b.held.map rep })

/-- Must LD or ST take a trap for a held fault before it executes anything more (R215, 08 R245)? -/
def heldDue (k : Core) (q : Seq) : Bool :=
  (q = .ld || q = .st) && k.tile.isSome && (heldQueue k q).isSome && (k.seq q).run ≠ .trapped

/-- Report the fault held first in LD or ST: AQFAULT, then the trap at the next instruction boundary (R215, R154). While CTL
has an atomic out, the fault waits (05 R153; log 8). -/
def reportHeld (c : Nat) (q : Seq) : Act Unit := do
  let s ← get
  let k := s.coreOf c
  match heldQueue k q with
  | none => pure ()
  | some (n, h) =>
    if !k.trap.mode && k.ctl.remote.isSome then pure ()
    else
    modCoreAt c fun k => (markReported q n k).updStreamer q fun x => { x with
      aq := { x.aq with lane := h.lane, queue := n, entry := h.entry } }
    takeTrap c q h.code h.va 0

/-- HELD_FAULT_TRAP (R215, 08 R245): a sequencer that is not stopped already reports its held fault. -/
def execHeldFaultTrap (s : State) : Host.Outcome State Fault Refusal :=
  event (fun s => heldDue (s.coreOf s.ev.core) s.ev.sq)
    (reportHeld s.ev.core s.ev.sq) s

/-- Forget the reported faults of LD or ST, so that their heads are tried again (R216). -/
def unhold (q : Seq) (k : Core) : Core :=
  let f := fun (h : Option HeldFault) => h.filter fun h => !h.reported
  (k.updStreamer q fun x => { x with
    binds := x.binds.map fun e => (e.1, { e.2 with held := f e.2.held }) }).updDirect q fun o => { o with held := f o.held }

/-! Issue. -/

/-- The origin in N(b) to N(b+3) (R218). -/
def origin (k : Core) (q : Seq) (b : Nat) : List Int := (upto b 4).map fun i => (k.nreg q i).toInt

/-- Take the lowest code among the conditions that hold (01 R31). -/
def trapLowest (l : List (Bool × Code × Nat)) : Act Unit :=
  match worst ((l.filter (·.1)).map fun x => (0, Stop.trap x.2.1 x.2.2)) with
  | some (_, e) => throw e
  | none => pure ()

/-- Resolve a handle together with the other conditions of its instruction, the lowest code first (R206, 01 R31). -/
def resolveWith (c h : Nat) (l : List (Bool × Code × Nat)) (m : Shape → List (Bool × Code × Nat)) : Act Shape := do
  match ← attempt (resolve c h) with
  | .ok sh =>
    trapLowest (l ++ m sh)
    return sh
  | .error (.trap code va) =>
    trapLowest ((true, code, va) :: l)
    return {}
  | .error e => throw e

/-- The conditions of GATH and SCAT at issue (R219, 08 R241). -/
def listTraps (t : Tile) (off cnt : Nat) : List (Bool × Code × Nat) :=
  [(off % 4 ≠ 0, .align, off),
   (decide (off + 4 * cnt > t.reg.spTile) || decide (off + 4 * cnt > Config.scratchBytes), .scratchRange, off)]

/-- Wait while a direct queue is full (R214, 08 R236). -/
def directRoom (q : Seq) : Act Unit := do
  let k ← thisCore
  if (k.streamer q).direct.length ≥ 8 then waitFor .queue else pure ()

/-- Put an operation in a direct queue and go on. -/
def enterDirect (q : Seq) (len : Nat) (o : DirectOp) : Act Unit := do
  modCore fun k => k.updStreamer q fun x => { x with direct := x.direct ++ [o] }
  advance q len

/-! Index instructions of LD and ST (R225). -/

/-- The stream sequencer whose turn it is. -/
def indexer (s : State) : Seq := if s.sq = .st then .st else .ld

/-- NLI (R225). -/
def execNli (o : RL) (s : State) : Host.Outcome State Fault Refusal :=
  plain (indexer s) (.nli o) (do
    modCore fun k => k.setN (indexer s) o.d.toNat (effAddr k o.a o.ext)
    advance (indexer s) 8) s

/-- NADD (R225). -/
def execNadd (o : R3F) (s : State) : Host.Outcome State Fault Refusal :=
  plain (indexer s) (.nadd o) (do
    let q := indexer s
    modCore fun k => k.setN q o.d.toNat (k.nreg q o.a.toNat + (k.nreg q o.b.toNat <<< o.f.toNat))
    advance q 4) s

/-- NADDI (R225). -/
def execNaddi (o : RI) (s : State) : Host.Outcome State Fault Refusal :=
  plain (indexer s) (.naddi o) (do
    let q := indexer s
    modCore fun k => k.setN q o.d.toNat (k.nreg q o.a.toNat + sx64 o.imm)
    advance q 4) s

/-- A comparison of index registers (R225). -/
def ncmp (q : Seq) (o : R3) (f : DWord → DWord → Bool) : Act Unit := do
  modCore fun k => k.setP o.d.toNat (f (k.nreg q o.a.toNat) (k.nreg q o.b.toNat))
  advance q 4

/-- NCMP.EQ (R225). -/
def execNcmpEq (o : R3) (s : State) : Host.Outcome State Fault Refusal :=
  plain (indexer s) (.ncmpEq o) (ncmp (indexer s) o fun a b => decide (a = b)) s

/-- NCMP.NE (R225). -/
def execNcmpNe (o : R3) (s : State) : Host.Outcome State Fault Refusal :=
  plain (indexer s) (.ncmpNe o) (ncmp (indexer s) o fun a b => decide (a ≠ b)) s

/-- NCMP.LT (R225). -/
def execNcmpLt (o : R3) (s : State) : Host.Outcome State Fault Refusal :=
  plain (indexer s) (.ncmpLt o) (ncmp (indexer s) o fun a b => a.slt b) s

/-- NCMP.LE (R225). -/
def execNcmpLe (o : R3) (s : State) : Host.Outcome State Fault Refusal :=
  plain (indexer s) (.ncmpLe o) (ncmp (indexer s) o fun a b => a.sle b) s

/-- NCMP.LTU (R225). -/
def execNcmpLtu (o : R3) (s : State) : Host.Outcome State Fault Refusal :=
  plain (indexer s) (.ncmpLtu o) (ncmp (indexer s) o fun a b => a.ult b) s

/-- NCMP.LEU (R225). -/
def execNcmpLeu (o : R3) (s : State) : Host.Outcome State Fault Refusal :=
  plain (indexer s) (.ncmpLeu o) (ncmp (indexer s) o fun a b => a.ule b) s

/-- NBR (R225, 04 R95). -/
def execNbr (o : BOff) (s : State) : Host.Outcome State Fault Refusal :=
  plain (indexer s) (.nbr o) (do
    let k ← thisCore
    branchTo (indexer s) ((k.seq (indexer s)).pc + (sx64 o.off <<< 2))) s

/-- NLOOP (R225). -/
def execNloop (o : RL) (s : State) : Host.Outcome State Fault Refusal :=
  plain (indexer s) (.nloop o) (do
    let q := indexer s
    let k ← thisCore
    let n := k.nreg q o.d.toNat
    if n.toNat ≤ 1 then
      modCore fun k => k.setN q o.d.toNat 0
      advance q 8
    else
      let a := (k.seq q).pc + sx64 o.ext
      trapIf (a.toNat % 4 ≠ 0) .align a.toNat
      modCore fun k => k.setN q o.d.toNat (n - 1)
      branchTo q a) s

end Sys2Proof.Machine
end

