-- ==== Sys2Proof/Machine/Copy.lean ====
section
/-! DEFINITION. The copy engines: CPY, CPYS, CPYT, CPYD, leases, and the progress of copies (12). -/

namespace Sys2Proof.Machine

/-! Acceptance (R359–R361). -/

/-- Fields of a copy command (R359). -/
def cpSrcSp (o : Cmd) : Bool := bits o.f8 0 2 = 1
def cpSpace (o : Cmd) : Nat := (bits o.f8 2 2).toNat
def cpDone (o : Cmd) : Nat := (bits o.f8 4 2).toNat
def cpArv (o : Cmd) : Bool := bits o.f8 6 1 = 1
def cpNum (o : Cmd) : Nat := (bits o.imm 0 6).toNat
def cpDevice (o : Cmd) : Bool := bits o.imm 6 1 = 1

/-- The copy that a command asks for, from the operand registers (R359, R361). It reads what a load by the core returns
as it is issued: the tile's own bytes, what its phase has kept, and its snapshot (02 R68). -/
def copyOf (k : Core) (t : Tile) (kind : CopyKind) (o : Cmd) : Copy :=
  let r := fun i => (k.sreg (o.a.toNat + i)).toNat
  { kind := kind
    src := r 0, srcSp := cpSrcSp o, dst := r 1, space := cpSpace o
    n := nbits (r 2) 0 40, extra := r 3
    done := cpDone o, device := cpDevice o, num := cpNum o
    arv := if cpArv o then some ((bits o.imm 8 3).toNat, (bits o.imm 12 6).toNat) else none
    start := t.start, floor := k.rdcFloor, own := t.ver.bytes.foldl (fun m e => SMap.put m e.1 e.2) t.seen
    pc := k.ctl.pc.toNat }

/-- Chunks of a copy's destination (R361). -/
def Copy.chunks (x : Copy) : Nat := (x.n + 511) / 512

/-- Is the range beyond the tile's allocation (R44, R360)? -/
def outsideSp (t : Tile) (a n : Nat) : Bool :=
  decide (0 < n) && (decide (a + n > t.reg.spTile) || decide (a + n > Config.scratchBytes))

/-- Do two ranges meet? -/
def rangesMeet (a n b m : Nat) : Bool := decide (0 < n ∧ 0 < m ∧ a < b + m ∧ b < a + n)

/-- The pages of a range are local 64 KiB leaves with W = 1 and H = 0 (02 R35, R69): their physical page numbers. -/
def shadowRange (s : State) (r : Region) (a n : Nat) : Option (List Nat) :=
  if a + n > 2 ^ 56 then none
  else
    (upto 0 (n / 0x1_0000)).foldl (fun o i =>
      match o, leaf64 s.m r.xroot (a + i * 0x1_0000) with
      | some l, some (_, e) =>
        if pteLocal s.devId e && pteW e && !pteH e then some (l ++ [pteAddr e / 0x1_0000]) else none
      | _, _ => none) (some [])

/-- The physical shadow pages of a CPYS, where its ranges meet the conditions of R69 and no range of an earlier CPYS of
the tile that has still to be exchanged (R360). -/
def shadowPages (s : State) (k : Core) (t : Tile) (x : Copy) : Option (List Nat) :=
  let others := (k.copies.filter fun y => y.kind = .shadow).map (fun y => (y.dst, y.extra, y.n)) ++
    t.exchanges.map fun e => (e.dst, e.shadow, e.len)
  let meets := others.any fun e =>
    rangesMeet x.dst x.n e.1 e.2.2 || rangesMeet x.dst x.n e.2.1 e.2.2 ||
    rangesMeet x.extra x.n e.1 e.2.2 || rangesMeet x.extra x.n e.2.1 e.2.2
  if x.n % 0x1_0000 ≠ 0 || x.dst % 0x1_0000 ≠ 0 || x.extra % 0x1_0000 ≠ 0 || meets then none
  else
    match shadowRange s t.reg x.dst x.n with
    | none => none
    | some _ => shadowRange s t.reg x.extra x.n

/-- The conditions of R360 that the operands decide, with their addresses. -/
def copyTraps (s : State) (k : Core) (t : Tile) (x : Copy) : List (Bool × Code × Nat) :=
  let high := fun a => decide (a ≥ 2 ^ 56)
  [(match x.arv with
    | some (_, b0) => decide (b0 + x.chunks > 64)
    | none => false, .reservedField, 0),
   (x.done = 3 && decide ((s.barrier (clusterOf s.core) x.device x.num).b + x.n > 2 ^ 48 - 1), .reservedField, 0),
   (x.kind = .infused && overSubscribed x.extra, .reservedField, 0),
   (x.space = 2 && !t.reg.supv, .privilege, 0),
   (!x.srcSp && high x.src, .xlateNotPresent, x.src),
   (x.space = 0 && high x.dst, .xlateNotPresent, x.dst),
   (x.kind = .shadow && high x.extra, .xlateNotPresent, x.extra),
   (x.space = 2 && decide (x.dst + x.n > 2 ^ 28), .xlateNotPresent, x.dst),
   (x.srcSp && outsideSp t x.src x.n, .scratchRange, x.src),
   (x.space = 1 && outsideSp t x.dst x.n, .scratchRange, x.dst),
   (x.space = 1 && decide (0 < x.n) && hitsSnap k x.dst x.n, .xlatePermission, x.dst),
   (x.kind = .shadow && (shadowPages s k t x).isNone, .xlatePermission, x.dst),
   (x.kind = .tagged && x.extra % 8 ≠ 0, .align, x.extra),
   (x.space = 0 && decide (regionVerBytes s t.reg.id + x.n > t.reg.verBytes), .phaseOverflow, x.dst)]

/-- Does a page still belong to an exchange that an open phase starts before (02 R70)? -/
def stillRead (s : State) (pages : List Nat) : Bool :=
  s.m.swaps.any fun w => pages.contains (w.a / 0x1_0000) || pages.contains (w.b / 0x1_0000)

/-- Accept a copy (R361): the reservation, the barrier's registration, the read snapshot. CTL stalled at a full engine
queue shows code 3 (05 R163; log 19). -/
def acceptCopy (kind : CopyKind) (o : Cmd) : Act Unit := do
  let k ← thisCore
  let s ← get
  let t ← tileOf s.core
  if k.copies.length ≥ 16 then waitFor .queue
  else
    trapIf (nbits (k.sreg (o.a.toNat + 2)).toNat 40 24 ≠ 0) .reservedField
    let x := copyOf k t kind o
    trapLowest (copyTraps s k t x)
    let x := if kind = .shadow then
        let pages := (shadowPages s k t x).getD []
        { x with pages := pages, released := !stillRead s pages }
      else x
    modMem fun m => { m with shadows := x.pages ++ m.shadows }
    if x.space = 0 then modTile s.core fun t => { t with ver := { t.ver with reserved := t.ver.reserved + x.n } }
    else pure ()
    if x.done = 3 then modify fun s => s.updBarrier (clusterOf s.core) x.device x.num fun b => { b with b := b.b + x.n }
    else pure ()
    modCore fun k => { k with copies := k.copies ++ [x] }
    advance .ctl 8

/-- CPY (R361). -/
def execCpy (o : Cmd) (s : State) : Host.Outcome State Fault Refusal := plain .ctl (.cpy o) (acceptCopy .plain o) s

/-- CPYS (R368). -/
def execCpys (o : Cmd) (s : State) : Host.Outcome State Fault Refusal := plain .ctl (.cpys o) (acceptCopy .shadow o) s

/-- CPYT (R361, R366). -/
def execCpyt (o : Cmd) (s : State) : Host.Outcome State Fault Refusal := plain .ctl (.cpyt o) (acceptCopy .tagged o) s

/-- CPYD (R373, R374). -/
def execCpyd (o : Cmd) (s : State) : Host.Outcome State Fault Refusal := plain .ctl (.cpyd o) (acceptCopy .infused o) s

/-! Progress (R361, R362). -/

/-- Translate an address of a copy to where a phase with this start stamp finds it (02 R68, R69). -/
def copyPlace (c start : Nat) (acc : Acc) (va : Nat) : Act Nat := do
  let t ← tileOf c
  let loc ← translate (t.reg.ctx (some (clusterOf c))) acc va
  let s ← get
  return s.m.view start t.reg.asid va loc

/-- The locations of `n` bytes, of which at most the last lie in another 64 KiB page, and the address of each. -/
def spanLocs (c start : Nat) (acc : Acc) (va n : Nat) : Act (List (Nat × Nat)) := do
  let first := Nat.min n (0x1_0000 - va % 0x1_0000)
  let a ← copyPlace c start acc va
  let rest ← if first < n then do
      let b ← copyPlace c start acc (va + first)
      pure (upto b (n - first))
    else pure []
  return (upto a first ++ rest).zip (upto va n)

/-- Source bytes in global memory: what a load by the core returned when the copy was accepted (02 R68). -/
def copyLoad (c : Nat) (x : Copy) (va n : Nat) : Act (List Byte) := do
  let t ← tileOf c
  let locs ← spanLocs c x.start .read va n
  let t := { t with start := x.start, ver := { t.ver with bytes := x.own } }
  collect locs fun e => tileByte x.floor t e.2 e.1

/-- Where block `k` of a compressed source starts, passing the blocks before it; a malformed header stops the search
(R374). -/
def blockAt (c : Nat) (x : Copy) : Nat → Act Nat
  | 0 => return x.src
  | k + 1 => do
    let a ← blockAt c x k
    let h ← copyLoad c x a 8
    match blockLen (ofBytes h) with
    | some n => return a + n
    | none => trap .expertImageBad a

/-- The bytes that land in chunk `j` of the destination. Scratchpad bytes that the copy itself has overwritten are taken
as they were (R362). -/
def chunkSource (c : Nat) (x : Copy) (j : Nat) : Act (List Byte) := do
  let n := Nat.min 512 (x.n - 512 * j)
  if x.kind = .infused then
    let a ← blockAt c x (j / 8)
    let h ← copyLoad c x a 8
    match blockLen (ofBytes h) with
    | none => trap .expertImageBad a
    | some len =>
      let l ← copyLoad c x a len
      match decodeBlock x.extra l with
      | none => trap .expertImageBad a
      | some out => return (out.drop (512 * (j % 8))).take n
  else if x.srcSp then
    let a := x.src + 512 * j
    return (← spLoad c a n).zipIdx.map fun e => (SMap.find x.bytes (a + e.2)).getD e.1
  else copyLoad c x (x.src + 512 * j) n

/-- Does a scratchpad copy have a byte both in its source and in its destination (R362)? -/
def Copy.shares (x : Copy) (a : Nat) : Bool := x.srcSp && x.space = 1 && decide (x.src ≤ a ∧ a < x.src + x.n)

/-- Bytes of a scratchpad copy that its source and its destination share are left open (R362). -/
def overlapBytes (x : Copy) (a : Nat) (l : List Byte) : Act (List Byte) :=
  collect l.zipIdx fun e => if x.shares (a + e.2) then drawByte else pure e.1

/-- The source bytes that a chunk at an offset overwrites, kept for the chunks that still read them. -/
def Copy.keepSource (x : Copy) (k : Core) (a n : Nat) : SMap Byte :=
  ((upto a n).filter fun b => x.shares b && (SMap.find x.bytes b).isNone).foldl (fun m b => SMap.put m b (k.spByte b)) x.bytes

/-- Land the bytes of a chunk, and answer what the copy keeps beside it. -/
def chunkLand (c : Nat) (x : Copy) (j : Nat) (l : List Byte) : Act (SMap Byte) := do
  let t ← tileOf c
  let a := x.dst + 512 * j
  if x.kind = .shadow then
    let locs ← spanLocs c t.start .write (x.extra + 512 * j) l.length
    return (locs.zip l).foldl (fun b e => SMap.put b e.1.1 e.2) x.bytes
  else if x.space = 0 then
    let locs ← spanLocs c t.start .write a l.length
    let s ← get
    takeRoom (s.updCore c fun k => { k with tile := k.tile.map fun t =>
      { t with ver := { t.ver.write locs ((locs.map (·.1)).zip l) with reserved := t.ver.reserved - l.length } } })
    return x.bytes
  else if x.space = 1 then
    touchChunks c a l.length
    let s ← get
    let l ← overlapBytes x a l
    modCoreAt c fun k => dirtySectors (k.spWrite a l) a l.length
    return x.keepSource (s.coreOf c) a l.length
  else
    modMem fun m => { m with
      xs := (placed a l).foldl (fun b e => SMap.set 0 b e.1 e.2) m.xs
      xsPoison := m.xsPoison.filter fun p => !(decide (a ≤ p * 128) && decide (p * 128 + 128 ≤ a + l.length)) }
    return x.bytes

/-- Change copy `i` of a core. -/
def updCopy (c i : Nat) (f : Copy → Copy) : Act Unit :=
  modCoreAt c fun k => { k with copies := k.copies.zipIdx.map fun e => if e.2 = i then f e.1 else e.1 }

/-- What a stop makes of a copy: a fault that will end its tile, or a wait (R377). -/
def copyStop (c i : Nat) (x : Copy) (e : Stop) : Act Unit := do
  let s ← get
  match e with
  | .trap code va => updCopy c i fun y => { y with fault := some (code, va) }
  | .held asid page va => do
    modify (requestFlip asid page)
    updCopy c i fun y => { y with hold := some (sameHold x.hold ⟨asid, page, va, 0, s.cycle⟩) }
  | .refused va => updCopy c i fun y => { y with refused := some (sameHold x.refused ⟨0, 0, va, 0, s.cycle⟩) }
  | .peer loc => modify (requestPeer loc)
  | .wait _ => pure ()
  | .fault f => throw (.fault f)
  | .refuse r => throw (.refuse r)

/-- Count a block that the infuser has decoded, with its first chunk (R378). -/
def countBlock (c : Nat) (x : Copy) (j : Nat) (bad : Bool) : Act Unit :=
  if x.kind = .infused then
    modify fun s => s.updCluster (clusterOf c) fun y =>
      if bad then { y with ceBad := (y.ceBad + 1) % 2 ^ 32 }
      else if x.landed.any fun l => l / 8 = j / 8 then y
      else { y with ceBlocks := (y.ceBlocks + 1) % 2 ^ 32 }
  else pure ()

/-- COPY_CHUNK_ARRIVAL (R361): chunk `num` of copy `idx` of core `core` lands, and its arrival bit is set. -/
def execCopyChunkArrival (s : State) : Host.Outcome State Fault Refusal :=
  let c := s.ev.core
  let i := s.ev.idx
  let j := s.ev.num
  match (s.coreOf c).copies[i]? with
  | none => .next s
  | some x =>
    event (fun _ => decide (j < x.chunks) && !x.landed.contains j && x.fault.isNone && x.released) (do
      match ← attempt (do
          let l ← chunkSource c x j
          let b ← chunkLand c x j l
          return (l.length, b)) with
      | .ok (n, b) =>
        countBlock c x j false
        updCopy c i fun y => { y with landed := j :: y.landed, bytes := b, hold := none, refused := none }
        modify fun s => s.updCluster (clusterOf c) fun y => { y with ceBytes := (y.ceBytes + n) % 2 ^ 64 }
        match x.arv with
        | some (m, b0) => arvSet c m (b0 + j)
        | none => pure ()
      | .error e =>
        match e with
        | .trap .expertImageBad _ => countBlock c x j true
        | _ => pure ()
        copyStop c i x e) s

/-- SHADOW_WRITE_RELEASE (02 R70): a CPYS may write its shadow pages. -/
def execShadowWriteRelease (s : State) : Host.Outcome State Fault Refusal :=
  let c := s.ev.core
  match (s.coreOf c).copies[s.ev.idx]? with
  | none => .next s
  | some x => event (fun s => !x.released && !stillRead s x.pages) (updCopy c s.ev.idx fun y => { y with released := true }) s

/-- The slot-tag update of a CPYT at completion, or its deferral to the publication (R361, R363, R367). -/
def completeTag (c : Nat) (x : Copy) : Act Unit := do
  let t ← tileOf c
  if x.kind ≠ .tagged || x.n = 0 then pure ()
  else if x.space = 0 then
    modTile c fun t => { t with tagUpdates := t.tagUpdates ++
      [{ asid := t.reg.asid, xroot := t.reg.xroot, region := t.reg.id, supv := t.reg.supv, va := x.extra, bytes := x.n, pc := x.pc }] }
  else
    let loc ← tagPlace (t.reg.ctx (some (clusterOf c))) x.extra
    let s ← get
    if pinnedElsewhere s none loc then
      if (s.clusterAt (clusterOf c)).near.any fun l => l.line = loc / 256 then
        set (releaseLines (clusterOf c) (fun l => l.line = loc / 256) s)
      else throw (.refused x.extra)
    else pure ()
    let w ← tagWrite loc x.n
    modify (if isLocal loc then commitLocal (some t.reg.id) w else commitRemote (some (onBlock t.reg.id)) w)

/-- The updates of a copy that has landed whole (R361). -/
def completeCopy (c : Nat) (x : Copy) : Act Unit := do
  completeTag c x
  let t ← tileOf c
  if x.done = 1 || x.done = 2 then
    let _ ← semAdd c (x.done = 2) x.num x.n t.reg.id
    pure ()
  else modify (drainBarrier c x)
  if x.kind = .shadow then modTile c fun t => { t with exchanges := t.exchanges ++ [x.exchange t.reg] } else pure ()
  modCoreAt c fun k => { k with copies := k.copies.drop 1 }

/-- COPY_COMPLETE (R361, R375): the oldest copy of core `core` has landed whole. -/
def execCopyComplete (s : State) : Host.Outcome State Fault Refusal :=
  let c := s.ev.core
  match (s.coreOf c).copies with
  | [] => .next s
  | x :: _ =>
    event (fun _ => x.fault.isNone && (upto 0 x.chunks).all x.landed.contains) (do
      match ← attempt (completeCopy c x) with
      | .ok _ => pure ()
      | .error e => copyStop c 0 x e) s

/-- COPY_FAULT (R377): the tile of core `core` ends for the fault of copy `idx`. -/
def execCopyFault (s : State) : Host.Outcome State Fault Refusal :=
  let c := s.ev.core
  match (s.coreOf c).copies[s.ev.idx]? with
  | none => .next s
  | some x =>
    match x.fault with
    | none => .next s
    | some (code, va) => event (fun _ => true) (escalateTile c code.num 0 va x.pc) s

/-! Leases (R370–R372). -/

/-- Has a lease's life run out (R371)? -/
def Lease.over (x : Lease) (cycle : Nat) : Bool := x.life ≠ 0 && decide (x.since + x.life * 16384 ≤ cycle)

/-- The leases that hold. -/
def liveLeases (s : State) : List Lease := s.m.leases.filter fun x => !x.over s.cycle

/-- The physical lines of a range, or none where some page is absent, not local or owned by the host (R370). -/
def leaseLines (x : Ctx) (a n : Nat) : Act (Option (List Nat)) := do
  let dev := (← get).devId
  let first := a / 256 * 256
  let last := (a + n + 255) / 256 * 256
  let l ← collect (upto (first / 0x1_0000) ((last + 0xFFFF) / 0x1_0000 - first / 0x1_0000)) fun p => do
    let va := p * 0x1_0000
    let lo := Nat.max va first
    let hi := Nat.min (va + 0x1_0000) last
    if va ≥ 2 ^ 56 then return none
    else
      match ← attempt (lookup x va) with
      | .ok (lv, e) =>
        if pteLocal dev e && !pteH e then return some (upto (locOf dev lv e lo / 256) ((hi - lo) / 256)) else return none
      | .error (.trap .xlateNotPresent _) => return none
      | .error e => throw e
  return l.foldl (fun o y =>
    match o, y with
    | some l, some m => some (l ++ m)
    | _, _ => none) (some [])

/-- LEASE's result (R370): a handle, or the failure with the lowest number. -/
def leaseResult (s : State) (r : Region) (lines : Option (List Nat)) : Except Nat Nat :=
  let live := liveLeases s
  let mine := live.filter fun x => x.region = r.id
  match (upto 0 8).find? fun h => mine.all fun x => x.handle ≠ h with
  | none => .error 1
  | some h =>
    match lines with
    | none => .error 4
    | some l =>
      let own := (mine.flatMap (·.lines) ++ l).eraseDups
      let all_ := (live.flatMap (·.lines) ++ l).eraseDups
      if own.length * 256 > r.leaseBytes then .error 2
      else if (upto 0 16).any fun i => decide ((all_.filter fun x => (Config.l2Slice x).toNat = i).length * 256 > 3 * 2 ^ 20) then .error 3
      else .ok h

/-- LEASE (R370). -/
def execLease (o : Cmd) (s : State) : Host.Outcome State Fault Refusal :=
  plain .ctl (.lease o) (do
    let k ← thisCore
    let s ← get
    let t ← tileOf s.core
    let a := (k.sreg o.a.toNat).toNat
    let n := (k.sreg (o.a.toNat + 1)).toNat
    trapIf (n = 0 || decide (n > 8 * 2 ^ 20)) .reservedField
    let lines ← leaseLines (t.reg.ctx (some (clusterOf s.core))) a n
    let s ← get
    match leaseResult s t.reg lines with
    | .ok h =>
      modMem fun m => { m with leases := (m.leases.filter fun x => !x.over s.cycle) ++
        [{ region := t.reg.id, handle := h, lines := lines.getD [], since := s.cycle, life := o.imm.toNat }] }
      modCore fun k => k.setS o.d.toNat (BitVec.ofNat 64 h)
    | .error e => modCore fun k => k.setS o.d.toNat (0 - BitVec.ofNat 64 e)
    advance .ctl 8) s

/-- LREL (R372). -/
def execLrel (o : Cmd) (s : State) : Host.Outcome State Fault Refusal :=
  plain .ctl (.lrel o) (do
    let s ← get
    let t ← tileOf s.core
    let h := (bits o.imm 0 3).toNat
    let is := fun (x : Lease) => x.region = t.reg.id && x.handle = h
    match (liveLeases s).find? is with
    | none => modCore fun k => k.setS o.d.toNat (0 - 1)
    | some x =>
      if bits o.f8 0 1 = 1 then
        modCore fun k => k.setS o.d.toNat
          (if x.life = 0 then BitVec.ofNat 64 (2 ^ 63 - 1) else BitVec.ofNat 64 (x.since + x.life * 16384 - s.cycle))
      else
        modMem fun m => { m with leases := m.leases.filter fun y => !is y }
        modCore fun k => k.setS o.d.toNat 0
    advance .ctl 8) s

/-- LEASE_EXPIRY (R371): lease `idx` of region `num`. -/
def execLeaseExpiry (s : State) : Host.Outcome State Fault Refusal :=
  let is := fun (x : Lease) => x.region = s.ev.num && x.handle = s.ev.idx && x.over s.cycle
  event (fun s => s.m.leases.any is) (modMem fun m => { m with leases := m.leases.filter fun x => !is x }) s

end Sys2Proof.Machine
end

