-- ==== Sys2Proof/Machine/StreamLd.lean ====
section
/-! DEFINITION. LD: bindings, single loads, boxes into the scratchpad, fills, and their progress
(07 R212–R224, R228, R229). -/

namespace Sys2Proof.Machine

/-! Binding (R212, R218–R220). -/

/-- Bind a queue of LD: entries it held and any earlier binding go (R212). -/
def bindLd (q : Nat) (b : Binding) (k : Core) : Core := (k.setQueue q []).setBinding q (some b)

/-- SBIND on LD (R218). -/
def execSbindLd (o : R3F) (s : State) : Host.Outcome State Fault Refusal :=
  plain .ld (.sbindLd o) (do
    let s ← get
    let sh ← resolve s.core o.a.toNat
    modCore fun k => bindLd o.d.toNat
      { kind := if o.f = 1 then .cyc else .once, shape := sh, org := origin k .ld o.b.toNat } k
    advance .ld 4) s

/-- GATH (R219). -/
def execGath (o : R3F) (s : State) : Host.Outcome State Fault Refusal :=
  plain .ld (.gath o) (do
    let s ← get
    let k ← thisCore
    let t ← tileOf s.core
    let v := (k.nreg .ld (o.b.toNat + o.f.toNat)).toNat
    let off := nbits v 0 32
    let cnt := nbits v 32 32
    let sh ← resolveWith s.core o.a.toNat (listTraps t off cnt) fun sh => [(decide (o.f.toNat > sh.ndim), .reservedField, 0)]
    modCore fun k => bindLd o.d.toNat
      { kind := .list, shape := sh, org := origin k .ld o.b.toNat, g := o.f.toNat, listOff := off, listCnt := cnt } k
    advance .ld 4) s

/-- SUNB on LD (R220): landed entries stay, the rest and the held head go. -/
def execSunbLd (o : R3F) (s : State) : Host.Outcome State Fault Refusal :=
  plain .ld (.sunbLd o) (do
    modCore fun k => k.setBinding o.d.toNat none
    advance .ld 4) s

/-! The direct queue (R221–R223). -/

/-- LDQ (R221). -/
def execLdq (o : R3F) (s : State) : Host.Outcome State Fault Refusal :=
  plain .ld (.ldq o) (do
    let s ← get
    let k ← thisCore
    let d := o.d.toNat
    trapIf (k.binding d).isSome .reservedField
    directRoom .ld
    let sh ← resolveWith s.core o.a.toNat [((k.queue d).length ≥ 4, .qOverflow, 0)] fun _ => []
    let r ← reserve s.core d
    enterDirect .ld 4 { kind := .ldq, d := d, shape := sh, org := origin k .ld o.b.toNat, rid := some r }) s

/-- f8[3:0] and ext[9:0] of LDT, STT, MFILL and MWB (R217, 08 R236). -/
def boxB (o : RL) : Nat := (bits o.f8 0 4).toNat
def boxN (o : RL) : Nat := (bits o.ext 0 10).toNat

/-- The conditions of LDT and STT at issue on the scratchpad range of E × rowb bytes (R222, 08 R243). -/
def boxTraps (t : Tile) (a rowb : Nat) (w : Walk) : List (Bool × Code × Nat) :=
  [(decide (a + w.entries * rowb > t.reg.spTile) || decide (a + w.entries * rowb > Config.scratchBytes), .scratchRange, a)]

/-- LDT (R222). -/
def execLdt (o : RL) (s : State) : Host.Outcome State Fault Refusal :=
  plain .ld (.ldt o) (do
    let s ← get
    let k ← thisCore
    let t ← tileOf s.core
    let a := (k.nreg .ld o.d.toNat).toNat
    let org := origin k .ld (boxB o)
    directRoom .ld
    let sh ← resolveWith s.core o.a.toNat [(a % 32 ≠ 0, .align, a)] fun sh => boxTraps t a (boxN o) ⟨sh, org, 0, 0, 0⟩
    enterDirect .ld 8 { kind := .ldt, d := o.d.toNat, ext := o.ext, addr := a, shape := sh, org := org }) s

/-- The window conditions of MFILL and MWB at issue (R223, 08 R257). -/
def windowTraps (k : Core) (w first n : Nat) : Act QWord :=
  match SMap.find k.windows w with
  | none => trap .reservedField
  | some x => do
    trapIf (decide (first + n > winLen x.desc)) .scratchRange first
    return x.desc

/-- MFILL (R223). -/
def execMfill (o : RL) (s : State) : Host.Outcome State Fault Refusal :=
  plain .ld (.mfill o) (do
    let k ← thisCore
    let first := (k.nreg .ld o.a.toNat).toNat
    let d ← windowTraps k o.d.toNat first (boxN o)
    if winMode d = modeSnap || winMode d = modeRw then
      directRoom .ld
      enterDirect .ld 8 { kind := .mfill, d := o.d.toNat, ext := o.ext, addr := first }
    else advance .ld 8) s

/-- PREF (R224): a hint that changes no visible state. -/
def execPref (o : RL) (s : State) : Host.Outcome State Fault Refusal :=
  plain .ld (.pref o) (advance .ld 8) s

/-! Progress of streams (R212–R215). -/

/-- May the generator read the next entry: the entry four before it has been popped (R212, R213)? -/
def mayRead (k : Core) (q : Nat) (b : Binding) : Bool :=
  let e := b.walk.entries
  e ≠ 0 && b.held.isNone && decide ((k.queue q).length + b.reading.length < 4) &&
  (b.kind = .cyc || decide (b.issued < e))

/-- May a stream or a direct operation go on: in a save only what has begun does (R231, 06 R191)? -/
def mayProceed (k : Core) (begun : Bool) : Bool := k.tile.any fun t => t.saving.isNone || begun

/-- Read the next entry of a stream, or hold its fault (R212, R215). -/
def streamRead (c q : Nat) : Act Unit := do
  let s ← get
  match (s.coreOf c).binding q with
  | none => pure ()
  | some b =>
    let e := b.issued % b.walk.entries
    match ← readEntry c b.walk e with
    | .ok l =>
      modCoreAt c fun k => k.setBinding q (some { b with
        issued := b.issued + 1, reading := b.reading ++ [l], started := false, hold := none })
    | .error (lane, x) =>
      let h ← headStop lane e x b.waits
      modCoreAt c fun k => k.setBinding q (some ({ b with started := true }.setWaits h))

/-- STREAM_ENTRY_READ (R212). -/
def execStreamEntryRead (s : State) : Host.Outcome State Fault Refusal :=
  event (fun s =>
    let k := s.coreOf s.ev.core
    decide (s.ev.num < 8) &&
      (match k.binding s.ev.num with
       | some b => mayRead k s.ev.num b && mayProceed k b.started
       | none => false))
    (do
      let s ← get
      streamRead s.ev.core s.ev.num) s

/-- STREAM_ENTRY_LAND (R212): an entry becomes visible whole. -/
def execStreamEntryLand (s : State) : Host.Outcome State Fault Refusal :=
  event (fun s => decide (s.ev.num < 8)) (do
    let s ← get
    let c := s.ev.core
    let q := s.ev.num
    match (s.coreOf c).binding q with
    | none => pure ()
    | some b =>
      match b.reading with
      | [] => pure ()
      | l :: r =>
        pushEntry c q l
        modCoreAt c fun k => k.setBinding q (some { b with reading := r, deliv := b.deliv + 1 })) s

/-! Progress of the direct queue (R214, R215, R221–R223). -/

/-- Stop the head of a direct queue where it is: hold its fault, or wait with what it has begun (R231). -/
def directStop (c : Nat) (q : Seq) (lane entry : Nat) (e : Stop) : Act Unit := do
  let s ← get
  match (s.coreOf c).directHead q with
  | none => pure ()
  | some o =>
    let h ← headStop lane entry e o.waits
    modCoreAt c fun k => k.updDirect q fun o => { o.setWaits h with started := o.started || h.held.isNone }

/-- Count a part of the head's work as done. -/
def directStep (c : Nat) (q : Seq) : Act Unit :=
  modCoreAt c fun k => k.updDirect q fun o => { o with done := o.done + 1, padded := false, hold := none, refused := none }

/-- The head of a direct queue has finished. -/
def directDone (c : Nat) (q : Seq) : Act Unit := modCoreAt c fun k => k.dropDirect q

/-- Parts that LD's direct operation has: the entry, the box's entries, or the chunks. -/
def ldParts (o : DirectOp) : Nat :=
  match o.kind with
  | .ldt => (Walk.mk o.shape o.org 0 0 0).entries
  | .mfill => (bits o.ext 0 10).toNat
  | _ => 1

/-- Do one part of LD's direct operation (R221–R223). -/
def ldPart (c : Nat) (o : DirectOp) : Act (Except (Nat × Stop) Unit) := do
  let w : Walk := ⟨o.shape, o.org, 0, 0, 0⟩
  match o.kind with
  | .ldq =>
    let r ← if w.entries = 0 then pure (.ok o.shape.padEntry) else readEntry c w 0
    match r with
    | .ok l =>
      land c o.d (o.rid.getD 0) l
      return .ok ()
    | .error e => return .error e
  | .ldt =>
    match ← (if o.padded then pure (.ok o.shape.padEntry) else readEntry c w o.done) with
    | .ok l =>
      let n := (bits o.ext 0 10).toNat
      match ← attempt (spStore c (o.addr + n * o.done) (l.take n)) with
      | .ok _ => return .ok ()
      | .error e => return .error (0, e)
    | .error e => return .error e
  | _ =>
    let s ← get
    let k := s.coreOf c
    match SMap.find k.windows o.d with
    | none => return .ok ()
    | some x =>
      let ch := winSoff x.desc + o.addr + o.done
      match (k.chunk ch).run with
      | .valid => return .ok ()
      | .filling => return .error (0, .wait .memory)
      | .unfilled =>
        match (k.chunk ch).fault with
        | some code =>
          modCoreAt c fun k => k.updChunk ch fun y => { y with fault := none }
          return .error (0, .trap code (chunkVa x.desc ch))
        | none =>
          match ← attempt (startFill c x.desc ch) with
          | .ok _ => return .error (0, .wait .memory)
          | .error e => return .error (0, e)

/-- Do the next part of LD's direct operation; false where it stops. -/
def ldStep (c : Nat) : Act Bool := do
  let s ← get
  match (s.coreOf c).directHead .ld with
  | none => return false
  | some o =>
    match ← ldPart c o with
    | .ok _ =>
      directStep c .ld
      return true
    | .error (lane, e) =>
      directStop c .ld lane o.done e
      return false

/-- Run LD's direct operation as far as it goes. -/
def ldRun (c : Nat) : Nat → Act Unit
  | 0 => directDone c .ld
  | n + 1 => do
    if ← ldStep c then ldRun c n else pure ()

/-- Start the fills of MFILL's chunks that have not begun (R223). -/
def startFills (c : Nat) (o : DirectOp) : Act Unit := do
  if o.kind = .mfill && !o.started then
    modCoreAt c fun k => k.updDirect .ld fun o => { o with started := true }
    each (upto 0 (bits o.ext 0 10).toNat) fun i => do
      let s ← get
      let k := s.coreOf c
      match SMap.find k.windows o.d with
      | none => pure ()
      | some x =>
        let ch := winSoff x.desc + o.addr + i
        if (k.chunk ch).run = .unfilled && (k.chunk ch).fault.isNone then
          let _ ← attempt (startFill c x.desc ch)
          pure ()
        else pure ()
  else pure ()

/-- LD_DIRECT_OP_COMPLETE (R214). -/
def execLdDirectOpComplete (s : State) : Host.Outcome State Fault Refusal :=
  event (fun s => ((s.coreOf s.ev.core).directHead .ld).any fun o =>
      o.held.isNone && mayProceed (s.coreOf s.ev.core) o.begun) (do
    let s ← get
    let c := s.ev.core
    match (s.coreOf c).directHead .ld with
    | none => pure ()
    | some o =>
      startFills c o
      ldRun c (ldParts o - o.done)) s

/-! Retry after a trap (R216). -/

/-- Deliver the held entry with every lane set to PAD, or drop the held fill (R216); where the scratchpad does not take an
LDT's PAD entry, it is delivered once it does. -/
def padHeld (c : Nat) : Act Unit := do
  let s ← get
  let k := s.coreOf c
  let q := k.lds.aq.queue
  if q < 8 then
    match k.binding q with
    | some b =>
      if b.held.isSome then
        pushEntry c q b.shape.padEntry
        modCoreAt c fun k => k.setBinding q (some { b with
          issued := b.issued + 1, deliv := b.deliv + 1, started := false, held := none })
      else pure ()
    | none => pure ()
  else
    match k.directHead .ld with
    | some o =>
      if o.held.isSome then
        if o.kind = .ldt then
          modCoreAt c fun k => k.updDirect .ld fun o => { o with held := none, padded := true }
          let _ ← ldStep c
        else
          if o.kind = .ldq then land c o.d (o.rid.getD 0) o.shape.padEntry else pure ()
          modCoreAt c fun k => k.updDirect .ld fun o => { o with held := none }
          directStep c .ld
        let s ← get
        match (s.coreOf c).directHead .ld with
        | some o => if o.held.isNone && decide (o.done ≥ ldParts o) then directDone c .ld else pure ()
        | none => pure ()
      else pure ()
    | none => pure ()

end Sys2Proof.Machine
end

