-- ==== Sys2Proof/Machine/StreamSt.lean ====
section
/-! DEFINITION. ST: bindings, single stores, boxes, vector atomics, window write-back, and their progress
(08 R235–R249, R257, R258). -/

namespace Sys2Proof.Machine

/-! Binding (R237–R241). -/

/-- Is ST in the middle of an entry of this binding: begun, not finished, not held (R240)? -/
def writingEntry (b : Binding) : Bool := decide (b.issued > b.deliv) && b.held.isNone

/-- What SUNB does to a queue of ST: the binding ends, a held fault leaves ST_AQFAULT (R240). -/
def unbindSt (q : Nat) : Act Unit := do
  let k ← thisCore
  match k.binding q with
  | none => pure ()
  | some b =>
    if writingEntry b then waitFor .queue
    else
      modCore fun k => (k.setBinding q none).updStreamer .st fun x =>
        { x with aq := if b.held.isSome && x.aq.queue + 8 = q then {} else x.aq }

/-- Bind a queue of ST (R237, R239–R241). -/
def bindSt (q : Nat) (b : Binding) : Act Unit := do
  unbindSt q
  modCore fun k =>
    let k := (k.setQueue q []).updStreamer .st fun x => { x with past := SMap.erase x.past q }
    if b.kind ≠ .cyc && b.walk.entries = 0 then k.updStreamer .st fun x => { x with past := SMap.put x.past q b }
    else k.setBinding q (some b)

/-- SBIND on ST (R237). -/
def execSbindSt (o : R3F) (s : State) : Host.Outcome State Fault Refusal :=
  plain .st (.sbindSt o) (do
    let s ← get
    let k ← thisCore
    let sh ← resolve s.core o.a.toNat
    bindSt o.d.toNat { kind := if o.f = 1 then .cyc else .once, shape := sh, org := origin k .st o.b.toNat }
    advance .st 4) s

/-- SCAT (R241). -/
def execScat (o : R3F) (s : State) : Host.Outcome State Fault Refusal :=
  plain .st (.scat o) (do
    let s ← get
    let k ← thisCore
    let t ← tileOf s.core
    let v := (k.nreg .st (o.b.toNat + o.f.toNat)).toNat
    let off := nbits v 0 32
    let cnt := nbits v 32 32
    let sh ← resolveWith s.core o.a.toNat (listTraps t off cnt) fun sh => [(decide (o.f.toNat > sh.ndim), .reservedField, 0)]
    bindSt o.d.toNat
      { kind := .list, shape := sh, org := origin k .st o.b.toNat, g := o.f.toNat, listOff := off, listCnt := cnt }
    advance .st 4) s

/-- SUNB on ST (R240). -/
def execSunbSt (o : R3F) (s : State) : Host.Outcome State Fault Refusal :=
  plain .st (.sunbSt o) (do
    unbindSt o.d.toNat
    advance .st 4) s

/-! Issue of direct operations (R242, R243, R247, R248, R257). -/

/-- Entries of the data buffer that are free (R235, R242). -/
def bufferFree (k : Core) : Nat := 4 - ((k.sts.direct.map fun o => o.data.length).sum)

/-- STQ (R242). -/
def execStq (o : R3F) (s : State) : Host.Outcome State Fault Refusal :=
  plain .st (.stq o) (do
    let s ← get
    let k ← thisCore
    let d := o.d.toNat
    trapIf (k.binding d).isSome .reservedField
    directRoom .st
    if bufferFree k = 0 then waitFor .queue else pure ()
    let sh ← resolveWith s.core o.a.toNat [(k.dry d, .qUnderflow, 0)] fun _ => []
    let l ← headEntry s.core d
    if o.f = 0 then dropHead s.core d else pure ()
    enterDirect .st 4 { kind := .stq, guard := s.guard, d := d, a := o.a.toNat, f8 := o.b ++ o.f, shape := sh, org := origin k .st o.b.toNat, data := [l] }) s

/-- STT (R243). -/
def execStt (o : RL) (s : State) : Host.Outcome State Fault Refusal :=
  plain .st (.stt o) (do
    let s ← get
    let k ← thisCore
    let t ← tileOf s.core
    let a := (k.nreg .st o.d.toNat).toNat
    let org := origin k .st (boxB o)
    directRoom .st
    let sh ← resolveWith s.core o.a.toNat [(a % 32 ≠ 0, .align, a)] fun sh => boxTraps t a (boxN o) ⟨sh, org, 0, 0, 0⟩
    enterDirect .st 8 { kind := .stt, guard := s.guard, d := o.d.toNat, a := o.a.toNat, f8 := o.f8, ext := o.ext, addr := a, shape := sh, org := org }) s

/-- MWB (R257). -/
def execMwb (o : RL) (s : State) : Host.Outcome State Fault Refusal :=
  plain .st (.mwb o) (do
    let s ← get
    let k ← thisCore
    let first := (k.nreg .st o.a.toNat).toNat
    let d ← windowTraps k o.d.toNat first (boxN o)
    if (winMode d = modeRw || winMode d = modeNofill) && boxN o ≠ 0 then
      directRoom .st
      enterDirect .st 8 { kind := .mwb, guard := s.guard, d := o.d.toNat, a := o.a.toNat, f8 := o.f8, ext := o.ext, addr := first }
    else advance .st 8) s

/-- Fields of ATOMV (R247); `hi` is f8[7:4]. -/
def atomvSp (hi : BitVec 4) : Bool := bits hi 3 1 = 1
def atomvRet (ext : Word) : Bool := bits ext 8 1 = 1
def atomvV (ext : Word) : Nat := (bits ext 0 4).toNat
def atomvB (ext : Word) : Nat := (bits ext 16 4).toNat

/-- Issue an ATOMV in scratchpad form (R248). -/
def atomvIssueSp (op : AtomOp) (o : RL4) (sel : BitVec 4) : Act Unit := do
  let s ← get
  let k ← thisCore
  let t ← tileOf s.core
  let a := (k.nreg .st o.a.toNat).toNat
  trapIf (a % 512 ≠ 0) .align a
  trapIf (decide (a + 1536 > t.reg.spTile) || decide (a + 1536 > Config.scratchBytes)) .scratchRange a
  directRoom .st
  enterDirect .st 8
    { kind := .atomv, guard := s.guard, op := op, d := o.d.toNat, a := o.a.toNat, f8 := o.hi ++ sel, ext := o.ext, addr := a
      org := [((k.nreg .st (atomvB o.ext)).toNat : Int)] }

/-- Issue an ATOMV in queue form (R248): the sources are popped and the result's place reserved. -/
def atomvIssueQ (op : AtomOp) (o : RL4) (sel : BitVec 4) : Act Unit := do
  let s ← get
  let k ← thisCore
  let qa := o.a.toNat
  let qv := atomvV o.ext
  let d := o.d.toNat
  let ret := atomvRet o.ext
  trapLowest [((k.binding qa).isSome || (k.binding qv).isSome || (ret && (k.binding d).isSome), .reservedField, 0),
    (k.dry qa || k.dry qv, .qUnderflow, 0),
    (ret && decide ((k.queue d).length ≥ 4), .qOverflow, 0)]
  directRoom .st
  if bufferFree k < (if qa = qv then 1 else 2) then waitFor .queue else pure ()
  let x ← headEntry s.core qa
  let y ← headEntry s.core qv
  dropHead s.core qa
  if qa ≠ qv then dropHead s.core qv else pure ()
  let rid ← if ret then (do
      let r ← reserve s.core d true
      pure (some r)) else pure none
  enterDirect .st 8
    { kind := .atomv, guard := s.guard, op := op, d := d, a := qa, f8 := o.hi ++ sel, ext := o.ext, rid := rid
      org := [((k.nreg .st (atomvB o.ext)).toNat : Int)], data := if qa = qv then [x] else [x, y] }

/-- Issue an ATOMV (R247, R248). -/
def atomvIssue (op : AtomOp) (sel : BitVec 4) (o : RL4) : Act Unit :=
  if atomvSp o.hi then atomvIssueSp op o sel else atomvIssueQ op o sel

/-- ATOMV.ADD (R248). -/
def execAtomvAdd (o : RL4) (s : State) : Host.Outcome State Fault Refusal :=
  plain .st (.atomvAdd o) (atomvIssue .add 0 o) s

/-- ATOMV.AND (R248). -/
def execAtomvAnd (o : RL4) (s : State) : Host.Outcome State Fault Refusal :=
  plain .st (.atomvAnd o) (atomvIssue .and 1 o) s

/-- ATOMV.OR (R248). -/
def execAtomvOr (o : RL4) (s : State) : Host.Outcome State Fault Refusal :=
  plain .st (.atomvOr o) (atomvIssue .or 2 o) s

/-- ATOMV.XOR (R248). -/
def execAtomvXor (o : RL4) (s : State) : Host.Outcome State Fault Refusal :=
  plain .st (.atomvXor o) (atomvIssue .xor 3 o) s

/-- ATOMV.MIN (R248). -/
def execAtomvMin (o : RL4) (s : State) : Host.Outcome State Fault Refusal :=
  plain .st (.atomvMin o) (atomvIssue .min 4 o) s

/-- ATOMV.MAX (R248). -/
def execAtomvMax (o : RL4) (s : State) : Host.Outcome State Fault Refusal :=
  plain .st (.atomvMax o) (atomvIssue .max 5 o) s

/-- ATOMV.MINU (R248). -/
def execAtomvMinu (o : RL4) (s : State) : Host.Outcome State Fault Refusal :=
  plain .st (.atomvMinu o) (atomvIssue .minu 6 o) s

/-- ATOMV.MAXU (R248). -/
def execAtomvMaxu (o : RL4) (s : State) : Host.Outcome State Fault Refusal :=
  plain .st (.atomvMaxu o) (atomvIssue .maxu 7 o) s

/-- ATOMV.SWP (R248). -/
def execAtomvSwp (o : RL4) (s : State) : Host.Outcome State Fault Refusal :=
  plain .st (.atomvSwp o) (atomvIssue .swp 8 o) s

/-! Progress of streams (R237–R239, R245). -/

/-- Lane `l` of an entry's 512 bytes. -/
def laneOf (sh : Shape) (data : List Byte) (l : Nat) : List Byte := (data.drop (l * sh.bytes)).take sh.bytes

/-- Write the entry at the head of a bound queue (R237–R239, R245). -/
def streamWrite (c q : Nat) : Act Unit := do
  let s ← get
  let k := s.coreOf c
  match k.binding q, (k.queue q).head? with
  | some b, some ⟨_, some data, _⟩ =>
    let n := b.walk.entries
    let r ← if n = 0 then pure (.ok ())
      else writeEntry c b.walk (b.deliv % n) (fun l => pure (laneOf b.shape data l)) b.shape.lanes
    match r with
    | .ok _ =>
      dropHead c q
      let b := { b with deliv := b.deliv + 1, issued := b.deliv + 1, hold := none, refused := none }
      modCoreAt c fun k =>
        if b.kind ≠ .cyc && b.deliv = n then
          (k.setBinding q none).updStreamer .st fun x => { x with past := SMap.put x.past q b }
        else k.setBinding q (some b)
    | .error (lane, e) =>
      let h ← headStop lane b.deliv e b.waits
      modCoreAt c fun k => k.setBinding q (some ({ b with issued := b.deliv + 1 }.setWaits h))
  | _, _ => pure ()

/-- ST_STREAM_ENTRY_WRITE (R237). -/
def execStStreamEntryWrite (s : State) : Host.Outcome State Fault Refusal :=
  event (fun s => decide (8 ≤ s.ev.num ∧ s.ev.num < 16) &&
      (match (s.coreOf s.ev.core).binding s.ev.num with
       | some b => b.held.isNone && mayProceed (s.coreOf s.ev.core) (writingEntry b)
       | none => false))
    (do
      let s ← get
      streamWrite s.ev.core s.ev.num) s

/-! Progress of the direct queue (R242–R249, R257). -/

/-- Lanes of an ATOMV (R248). -/
def atomvSize (o : DirectOp) : Nat := if bits o.f8 6 1 = 1 then 8 else 4

/-- Parts of ST's direct operation: the entry, the box's entries, the lanes and the result, or the chunks. -/
def stParts (o : DirectOp) : Nat :=
  match o.kind with
  | .stt => (Walk.mk o.shape o.org 0 0 0).entries
  | .atomv => 512 / atomvSize o + 1
  | .mwb => (bits o.ext 0 10).toNat
  | _ => 1

/-- Element `j` of size `z` of ATOMV's index or value operand (R248). -/
def atomvElem (c : Nat) (o : DirectOp) (value : Bool) (j : Nat) : Act Nat := do
  let z := atomvSize o
  if bits o.f8 7 1 = 1 then
    let l ← spLoad c (o.addr + (if value then 512 else 0) + j * z) z
    return ofBytes l
  else
    let e := if value then o.data.getD 1 (o.data.getD 0 []) else o.data.getD 0 []
    return ofBytes ((e.drop (j * z)).take z)

/-- Perform lane `j` of ATOMV (R248, R249): the old value, 0 for an inactive lane. Where its value operand and its
address both fault, the lowest code stops it (01 R31). -/
def atomvLane (c : Nat) (o : DirectOp) (j : Nat) : Act Nat := do
  let z := atomvSize o
  let idx ← atomvElem c o false j
  if idx = 2 ^ (8 * z) - 1 then return 0
  else
    let a := wrapInt 64 (o.org.getD 0 0 + (idx * z : Nat))
    let v ← match ← attempt (atomvElem c o true j) with
      | .ok v => pure v
      | .error e => do
        match ← (if o.remote.isSome then pure (.ok ()) else attempt (atomicProbe c o.op z a)) with
        | .ok _ => throw e
        | .error x => throw (if x.rank < e.rank then x else e)
    atomicAt c .st o.remote (fun r => modCoreAt c fun k => k.updDirect .st fun o => { o with remote := r })
      o.op (scopeOf (bits o.f8 4 2)) z a v 0

/-- Deliver ATOMV's results (R248). -/
def atomvResult (c : Nat) (o : DirectOp) : Act Unit := do
  let l := (o.res.map (bytesOf (atomvSize o))).flatten
  if bits o.f8 7 1 = 1 then spStore c (o.addr + 1024) l
  else
    match o.rid with
    | some r => land c o.d r l
    | none => pure ()

/-- The bytes of lane `l` of an STT's entry. -/
def sttSource (c : Nat) (o : DirectOp) (l : Nat) : Act (List Byte) :=
  spLoad c (o.addr + (bits o.ext 0 10).toNat * o.done + l * o.shape.bytes) o.shape.bytes

/-- Do one part of ST's direct operation. -/
def stPart (c : Nat) (o : DirectOp) : Act (Except (Nat × Stop) Unit) := do
  let w : Walk := ⟨o.shape, o.org, 0, 0, 0⟩
  match o.kind with
  | .stq =>
    if w.entries = 0 then return .ok ()
    else writeEntry c w 0 (fun l => pure (laneOf o.shape (o.data.getD 0 []) l)) o.shape.lanes
  | .stt =>
    let n := (bits o.ext 0 10).toNat
    writeEntry c w o.done (sttSource c o) (n / o.shape.bytes)
  | .atomv =>
    if o.done < 512 / atomvSize o then
      match ← attempt (atomvLane c o o.done) with
      | .ok v =>
        modCoreAt c fun k => k.updDirect .st fun o => { o with res := o.res ++ [v] }
        return .ok ()
      | .error e => return .error (o.done, e)
    else
      match ← attempt (atomvResult c o) with
      | .ok _ => return .ok ()
      | .error e => return .error (0, e)
  | _ =>
    let s ← get
    match SMap.find (s.coreOf c).windows o.d with
    | none => return .ok ()
    | some x =>
      match ← attempt (writeBackChunks c x.desc [winSoff x.desc + o.addr + o.done]) with
      | .ok _ => return .ok ()
      | .error e => return .error (0, e)

/-- Run ST's direct operation as far as it goes. -/
def stRun (c : Nat) : Nat → Act Unit
  | 0 => directDone c .st
  | n + 1 => do
    let s ← get
    match (s.coreOf c).directHead .st with
    | none => pure ()
    | some o =>
      match ← stPart c o with
      | .ok _ =>
        directStep c .st
        stRun c n
      | .error (lane, e) => directStop c .st lane o.done e

/-- ST_DIRECT_OP_COMPLETE (R245). -/
def execStDirectOpComplete (s : State) : Host.Outcome State Fault Refusal :=
  event (fun s => ((s.coreOf s.ev.core).directHead .st).any fun o =>
      o.held.isNone && mayProceed (s.coreOf s.ev.core) o.begun) (do
    let s ← get
    match (s.coreOf s.ev.core).directHead .st with
    | none => pure ()
    | some o => stRun s.ev.core (stParts o - o.done)) s

/-! Retry after a trap (R246). -/

/-- The lanes of a held direct operation's entry that its fault left to be written (R246). -/
def dropLanes (c : Nat) (o : DirectOp) (lane : Nat) : Act Unit :=
  let w : Walk := ⟨o.shape, o.org, 0, 0, 0⟩
  match o.kind with
  | .stq => writeBelow c w 0 (fun l => pure (laneOf o.shape (o.data.getD 0 []) l)) lane
  | .stt => writeBelow c w o.done (sttSource c o) (Nat.min lane ((bits o.ext 0 10).toNat / o.shape.bytes))
  | _ => pure ()

/-- Take the held head without doing it; of an entry the lanes below the fault are written (R246). -/
def dropHeld (c : Nat) : Act Unit := do
  let s ← get
  let k := s.coreOf c
  let n := k.sts.aq.queue
  if n < 8 then
    let q := 8 + n
    match k.binding q with
    | some b =>
      match b.held with
      | none => pure ()
      | some h =>
        match (k.queue q).head? with
        | some ⟨_, some data, _⟩ =>
          writeBelow c b.walk (b.deliv % b.walk.entries) (fun l => pure (laneOf b.shape data l)) h.lane
        | _ => pure ()
        dropHead c q
        let b := { b with deliv := b.deliv + 1, issued := b.deliv + 1, held := none }
        modCoreAt c fun k =>
          if b.kind ≠ .cyc && b.deliv = b.walk.entries then
            (k.setBinding q none).updStreamer .st fun x => { x with past := SMap.put x.past q b }
          else k.setBinding q (some b)
    | none => pure ()
  else
    match k.directHead .st with
    | some o =>
      match o.held with
      | none => pure ()
      | some h =>
        dropLanes c o h.lane
        modCoreAt c fun k => k.updDirect .st fun o => { o with
          held := none, res := if o.kind = .atomv then o.res ++ [0] else o.res }
        directStep c .st
        if o.done + 1 ≥ stParts o then directDone c .st else pure ()
    | none => pure ()

/-- RFT.RETRY and RFT.REDIRECT on LD or ST: PADIT or DROPIT act and clear, then the held heads are tried again
(R216, R246). -/
def retryHeads (c : Nat) (q : Seq) (dropping : Bool) : Act Unit := do
  let s ← get
  if dropping && ((s.coreOf c).streamer q).aq.it then
    if q = .st then dropHeld c else padHeld c
    modCoreAt c fun k => k.updStreamer q fun x => { x with aq := { x.aq with it := false } }
  else pure ()
  modCoreAt c (unhold q)

/-! Message-queue windows and remote puts (R250–R256). -/

/-- May an RPUT or message of a tile of `region` take an entry of this window (R253)? Once its tile's end has waited for the
entries granted, it grants no more (R256). -/
def mqFree (s : State) (region core win : Nat) : Bool :=
  let k := s.coreOf core
  match k.tile, SMap.find k.windows win with
  | some t, some w => winMode w.desc = modeMq && t.reg.id = region && t.saving.isNone && !t.committed &&
      k.ctl.publishing ≠ some .tend &&
      decide (w.mq.res - w.mq.head < w.mq.n)
  | _, _ => false

/-- Grant an entry: s := RES, RES := RES + 1 (R253). -/
def mqTake (core win : Nat) (m : Nat → MqMsg) (s : State) : State :=
  setMq core win (fun q => { q with res := q.res + 1, msgs := q.msgs ++ [m q.res] }) s

/-- ST_MQBOUND; 0 acts as 1 (R264). -/
def mqBoundOf (k : Core) : Nat := Nat.max 1 k.mqBound

/-- The bytes of an entry: a message cut or filled with zeros (R253, 13 R388). -/
def entryBytes (esz : Nat) (l : List Byte) : List Byte := (l.take esz) ++ bytesOf (esz - l.length) 0

/-- Try the grant of an RPUT; once an entry is free for it, its source is read, and ST goes on (R253, R254). -/
def tryPut (c : Nat) (p : PutAsk) : Act Unit := do
  let t ← tileOf c
  let s ← get
  let x := (s.coreOf c).st
  if mqFree s t.reg.id p.core p.win then
    modCoreAt c fun k => { k with
      mqWait := if x.granted.isSome then k.mqWait else clocksSince s.cycle x.grantSince
      st := { k.st with grantSince := none, put := none, granted := some 0 } }
    let l ← spLoad c p.src p.size
    let s ← get
    let esz := ((SMap.find (s.coreOf p.core).windows p.win).map (·.mq.esz)).getD 0
    modify (mqTake p.core p.win fun n => { s := n, data := some (entryBytes esz l), sem := p.sem, src := some c })
    modCoreAt c fun k => { k with mqGrants := (k.mqGrants + 1) % 2 ^ 32 }
    modify fun s => s.advance c .st 8
  else if x.grantSince.isSome && decide (clocksSince s.cycle x.grantSince ≥ mqBoundOf (s.coreOf c)) then
    modCoreAt c (Core.noteWait s.cycle)
    trap .mqFullTimeout
  else
    modCoreAt c fun k => k.updSeq .st fun x => { x with grantSince := some (x.grantSince.getD s.cycle), put := some p }
    waitFor .object

/-- RPUT (R252–R254). -/
def execRput (o : RL) (s : State) : Host.Outcome State Fault Refusal :=
  plain .st (.rput o) (do
    let s ← get
    let k ← thisCore
    let a := (k.nreg .st o.d.toNat).toNat
    let core := clusterOf s.core * Config.coresPerCluster + (k.nreg .st o.a.toNat).toNat % 8
    let size := 64 * 2 ^ (bits o.ext 12 3).toNat
    trapIf (a % 64 ≠ 0) .align a
    tryPut s.core
      { core := core, win := (bits o.ext 0 5).toNat, src := a, size := size
        sem := if bits o.ext 8 1 = 1 then some (bits o.ext 16 5).toNat else none }) s

/-- Advance TAIL past the entries that have landed in order, updating their semaphores (R255). -/
def advanceTail (core win : Nat) : Nat → Act Unit
  | 0 => pure ()
  | n + 1 => do
    let s ← get
    match SMap.find (s.coreOf core).windows win with
    | none => pure ()
    | some w =>
      match w.mq.msgs.find? fun m => m.s = w.mq.tail && m.landed with
      | none => pure ()
      | some m =>
        set (setMq core win (fun q => { q with tail := q.tail + 1, msgs := q.msgs.filter fun x => x.s ≠ m.s }) s)
        match m.job with
        | some j => modify (consumed j (clusterOf core))
        | none => pure ()
        match m.sem with
        | some i => semAddRemote core i 1
        | none => pure ()
        advanceTail core win n

/-- Land a message's bytes in its entry (R251, R253, R255). Where its tile has ended, the window goes with the last of
them (R256). -/
def landMsg (core win n : Nat) : Act Unit := do
  let s ← get
  match SMap.find (s.coreOf core).windows win with
  | none => pure ()
  | some w =>
    match w.mq.msgs.find? fun m => m.s = n && !m.landed with
    | none => pure ()
    | some m =>
      match m.data with
      | none => pure ()
      | some l =>
        modCoreAt core fun k => k.spWrite (winSoff w.desc * 4096 + w.mq.esz * (1 + n % w.mq.n)) l
        modify (setMq core win fun q => { q with msgs := q.msgs.map fun x => if x.s = n then { x with landed := true } else x })
        advanceTail core win w.mq.msgs.length
        modCoreAt core fun k => if k.tile.isNone then { k with windows := k.landingWindows } else k

/-- MQ_ENTRY_LAND (R255): of window `num` of core `core`, the message granted entry number `idx`, once what its sender
sent before it has come (13 R380). -/
def execMqEntryLand (s : State) : Host.Outcome State Fault Refusal :=
  event (fun s => ((SMap.find (s.coreOf s.ev.core).windows s.ev.num).any fun w =>
      w.mq.msgs.any fun m => m.s = s.ev.idx && m.data.isSome && !m.landed && !(m.sent.any (sentBefore s))))
    (landMsg s.ev.core s.ev.num s.ev.idx) s

end Sys2Proof.Machine
end

