-- ==== Sys2Proof/Machine/MemEvents.lean ====
section
/-! DEFINITION. What memory does by itself: held and refused accesses, pages flipped to the host, fills and write-backs
of windows, uncorrectable errors, invalidations (02 R38, R39, R42, R47, R48, R66, R71, 06 R166, 07 R233). -/

namespace Sys2Proof.Machine

/-! Held and refused accesses (R38, R66). Whose access: 0 sequencer `sq`, 1 queue `idx`, 2 the direct queue of `sq`,
3 copy `idx`. -/

/-- What an accessor of core `c` waits for. -/
def waitsAt (k : Core) (kind : Nat) (q : Seq) (i : Nat) : HeadWait :=
  match kind with
  | 0 => ⟨(k.seq q).hold, (k.seq q).refused, none⟩
  | 1 => ((k.binding i).map (·.waits)).getD {}
  | 2 => ((k.directHead q).map (·.waits)).getD {}
  | _ => ((k.copies[i]?).map fun x => ⟨x.hold, x.refused, none⟩).getD {}

/-- The accessor tries again (R38). -/
def retryAt (c kind : Nat) (q : Seq) (i : Nat) : Act Unit :=
  match kind with
  | 0 => modCoreAt c fun k => k.updSeq q fun x => { x with
      hold := none, refused := none, run := match x.run with
        | .stalled _ => .running
        | r => r }
  | 1 => modCoreAt c fun k => k.setBinding i ((k.binding i).map fun b => { b with hold := none, refused := none })
  | 2 => modCoreAt c fun k => k.updDirect q fun o => { o with hold := none, refused := none }
  | _ => updCopy c i fun x => { x with hold := none, refused := none }

/-- The accessor faults (R38, R66, 07 R215, 12 R377); the map unit notes the address of a translation fault (R43). -/
def faultAt (c kind : Nat) (q : Seq) (i : Nat) (code : Code) (h : Hold) : Act Unit := do
  if isXlate code then modify fun s => s.updCluster (clusterOf c) fun x => { x with muFaultVa := h.va % 2 ^ 56 } else pure ()
  match kind with
  | 0 => do
    retryAt c 0 q i
    takeTrap c q code h.va 0
  | 1 => modCoreAt c fun k => k.setBinding i ((k.binding i).map fun b => { b with
      hold := none, refused := none
      held := some ⟨code, h.va, h.lane, if i < 8 then b.issued % b.walk.entries else b.deliv, false⟩ })
  | 2 => modCoreAt c fun k => k.updDirect q fun o => { o with
      hold := none, refused := none, held := some ⟨code, h.va, h.lane, o.done, false⟩ }
  | _ => updCopy c i fun x => { x with hold := none, refused := none, fault := some (code, h.va) }

/-- Does the leaf of a page say that the device owns it (R35, R38)? -/
def deviceOwned (s : State) (asid va : Nat) : Bool :=
  match walk s.m (effRegion s asid).xroot va with
  | .ok (_, e, _) => !pteH e
  | .error _ => true

/-- HELD_ACCESS_RETRY (R38). -/
def execHeldAccessRetry (s : State) : Host.Outcome State Fault Refusal :=
  let e := s.ev
  match (waitsAt (s.coreOf e.core) e.num e.sq e.idx).hold with
  | none => .next s
  | some h => event (fun s => deviceOwned s h.asid h.page) (do
      dropFlip h.asid h.page
      retryAt e.core e.num e.sq e.idx) s

/-- FLIP_LIMIT_EXPIRY (R38): with `flag` the host has declined the flip. With `num` 4 the access is a block's, which waits
for flip `idx`: it faults when it is tried again. -/
def execFlipLimitExpiry (s : State) : Host.Outcome State Fault Refusal :=
  let e := s.ev
  if e.num = 4 then
    event (fun s => e.flag && decide (e.idx < s.m.flips.length)) (modMem fun m => { m with
      flips := m.flips.zipIdx.map fun f => if f.2 = e.idx then { f.1 with declined := true } else f.1 }) s
  else
  match (waitsAt (s.coreOf e.core) e.num e.sq e.idx).hold with
  | none => .next s
  | some h => event (fun s => e.flag || decide (h.since + s.m.flipLimit ≤ s.cycle)) (do
      dropFlip h.asid h.page
      faultAt e.core e.num e.sq e.idx .hostOwned h) s

/-- SCOPE_REFUSAL_TIMEOUT (R66). -/
def execScopeRefusalTimeout (s : State) : Host.Outcome State Fault Refusal :=
  let e := s.ev
  match (waitsAt (s.coreOf e.core) e.num e.sq e.idx).refused with
  | none => .next s
  | some h => event (fun s => decide (h.since + s.m.scopeHold ≤ s.cycle))
      (faultAt e.core e.num e.sq e.idx .scopeRefusalTimeout h) s

/-! Pages flipped to the host (R39). -/

/-- Drop entries of every map unit that match (R42). -/
def invalidate (p : TlbEnt → Bool) (s : State) : State :=
  { s with clusters := s.clusters.map fun e => (e.1, e.2.keepTlb fun t => !p t) }

/-- Entries of an address space whose page holds an address (R43 KIND 0). -/
def tlbCovers (asid va : Nat) (t : TlbEnt) : Bool := t.asid = asid && t.vpn = va / 2 ^ pageLog t.level

/-- Requests for flips of pages that the device owns by now are answered (R38). -/
def dropFlipped (s : State) : State :=
  { s with m := { s.m with flips := s.m.flips.filter fun f => !deviceOwned s f.asid f.va } }

/-- Invalidate the translations that match, in the map units and in the caddy, once no infuser read uses one of them
(R42, 14 R418). -/
def mapInvalidate (p : TlbEnt → Bool) (h : HeldPage → Bool) : Act Unit := do
  let s ← get
  if infuserReads h s then waitFor .memory else set (dropFlipped (forgetHeld h (invalidate p s)))

/-- Does an open version hold bytes of a range (R39)? -/
def versionHolds (s : State) (lo n : Nat) : Bool :=
  (openTiles s).any fun t => (s.m.versionNow t).any fun e => decide (lo ≤ e.1 ∧ e.1 < lo + n)

/-- Write what the device still keeps of a range to its home, and drop it from L2 and the remote-data cache: pinned lines,
retained versions, leases (R39). -/
def dropRange (lo n : Nat) (s : State) : State :=
  let in_ := fun a => decide (lo ≤ a ∧ a < lo + n)
  let s := s.clusters.foldl (fun s e => releaseLines e.1 (fun l => in_ (l.line * 256)) s) s
  { s with m := { s.m with
      history := s.m.history.map fun h => { h with old := h.old.filter fun b => !in_ b.1 }
      rdc := s.m.rdc.filter fun l => !in_ l.loc
      writer := s.m.writer.filter fun w => !in_ (w.1 * 128)
      leases := s.m.leases.filter fun x => !x.lines.any fun l => in_ (l * 256) } }

/-- FLIP_TO_HOST_FINISH (R39): page `idx` of those marked. -/
def execFlipToHostFinish (s : State) : Host.Outcome State Fault Refusal :=
  match s.m.hostFlips[s.ev.idx]? with
  | none => .next s
  | some f =>
    let unmark := fun (s : State) => { s with m := { s.m with hostFlips := s.m.hostFlips.filter (· ≠ f) } }
    match walk s.m (effRegion s f.asid).xroot f.va with
    | .error _ => .next (unmark s)
    | .ok (lv, e, at_) =>
      let lo := locOf s.devId lv e (f.va / 2 ^ pageLog lv * 2 ^ pageLog lv)
      let n := 2 ^ pageLog lv
      event (fun s => !versionHolds s lo n && !infuserReads (HeldPage.covers f.asid f.va) s) (do
        modify fun s => commitLocal none (placed at_ (bytesOf 8 (e ||| 0x20).toNat)) (dropRange lo n s)
        mapInvalidate (tlbCovers f.asid f.va) (HeldPage.covers f.asid f.va)
        modify fun s => unmark { s with sv := { s.sv with acks := s.sv.acks ++ [(f.asid, f.va)] } }) s

/-! Windows (R47, R48). -/

/-- WINDOW_FILL_DONE (R47): scratchpad chunk `num` of core `core`. -/
def execWindowFillDone (s : State) : Host.Outcome State Fault Refusal :=
  let c := s.ev.core
  let n := s.ev.num
  event (fun s => ((s.coreOf c).chunk n).run = .filling) (modCoreAt c fun k =>
    let x := k.chunk n
    if x.fault.isSome then k.updChunk n fun x => { x with run := .unfilled, fill := [] }
    else (k.spWrite (4096 * n) x.fill).updChunk n fun x => { x with run := .valid, fill := [] }) s

/-- DEVICE_WRITEBACK (R48): window `idx` of core `core`; a sector that cannot be written back now stays dirty. -/
def execDeviceWriteback (s : State) : Host.Outcome State Fault Refusal :=
  let c := s.ev.core
  match SMap.find (s.coreOf c).windows s.ev.idx with
  | none => .next s
  | some w =>
    event (fun _ => winMode w.desc = modeRw || winMode w.desc = modeNofill)
      (each (upto (winSoff w.desc) (winLen w.desc)) fun ch => each (upto 0 32) fun sec => do
        match ← attemptUndo (writeBackSector c w.desc ch sec) with
        | .error (.fault f) => throw (.fault f)
        | _ => pure ()) s

/-! Errors (R71). -/

/-- DIRTY_EVICT_UNCORRECTABLE (R71): dirty sector `num` of local memory. -/
def execDirtyEvictUncorrectable (s : State) : Host.Outcome State Fault Refusal :=
  match SMap.find s.m.writer s.ev.num with
  | none => .next s
  | some r => event (fun _ => true) (do
      postEvent r .uncorrectableData
      modMem fun m => { m with
        poison := if m.poison.contains s.ev.num then m.poison else s.ev.num :: m.poison
        writer := SMap.erase m.writer s.ev.num }) s

end Sys2Proof.Machine
end

