-- ==== Sys2Proof/Machine/Numbers.lean ====
section
/-! DEFINITION. Number formats, exact values, rounding, saturation, the draw hash and flags (03). -/

namespace Sys2Proof.Machine

/-- Data formats (R72). -/
inductive Fmt
  | int (n : Nat)
  | uint (n : Nat)
  | fp4 | e4m3 | e5m2 | bf16 | fp16 | fp32
  | e8m0
  deriving DecidableEq, Repr

/-- The format of an FMT code; none for 0xF (R72). -/
def fmtOf (code : Nat) : Option Fmt :=
  match code with
  | 0 => some (.int 4) | 1 => some (.int 8) | 2 => some (.int 16) | 3 => some (.int 32)
  | 4 => some (.uint 4) | 5 => some (.uint 8) | 6 => some (.uint 16) | 7 => some (.uint 32)
  | 8 => some .fp4 | 9 => some .e4m3 | 10 => some .e5m2 | 11 => some .bf16 | 12 => some .fp16 | 13 => some .fp32
  | 14 => some .e8m0
  | _ => none

/-- Bits of an element (R72). -/
def Fmt.width : Fmt → Nat
  | .int n => n | .uint n => n
  | .fp4 => 4 | .e4m3 => 8 | .e5m2 => 8 | .bf16 => 16 | .fp16 => 16 | .fp32 => 32 | .e8m0 => 8

/-- Is it one of the six floating formats of R76? -/
def Fmt.isFloat : Fmt → Bool
  | .fp4 => true | .e4m3 => true | .e5m2 => true | .bf16 => true | .fp16 => true | .fp32 => true
  | _ => false

/-- Is it an integer format (R74)? -/
def Fmt.isInt : Fmt → Bool
  | .int _ => true | .uint _ => true
  | _ => false

/-- Rounding modes (R72). -/
inductive RM
  | rne | rtz | rdn | rup | rna | stoch
  deriving DecidableEq, Repr

/-- The mode of an RM code; none for 6 and 7 (R72). -/
def rmOf (code : Nat) : Option RM :=
  match code with
  | 0 => some .rne | 1 => some .rtz | 2 => some .rdn | 3 => some .rup | 4 => some .rna | 5 => some .stoch
  | _ => none

/-- An exact value: ±m × 2^e with signed zeros, an infinity, or NaN. -/
inductive Val
  | num (neg : Bool) (m : Nat) (e : Int)
  | inf (neg : Bool)
  | nan
  deriving DecidableEq, Repr

/-- Flags in the order of ARITH_FLAGS (R87). -/
abbrev Flags := BitVec 4
def flagISAT : Flags := 1
def flagOF : Flags := 2
def flagNV : Flags := 4
def flagDZ : Flags := 8

/-! Floating formats (R76). -/

/-- Exponent bits, mantissa bits, largest finite code, infinity code (0 where there is none), canonical NaN. -/
structure FloatParams where
  eb : Nat
  mb : Nat
  max : Nat
  inf : Nat
  nan : Nat
  deriving DecidableEq, Repr

/-- The table of R76. -/
def Fmt.params : Fmt → FloatParams
  | .fp4 => ⟨2, 1, 0x7, 0, 0⟩
  | .e4m3 => ⟨4, 3, 0x7E, 0, 0x7F⟩
  | .e5m2 => ⟨5, 2, 0x7B, 0x7C, 0x7E⟩
  | .bf16 => ⟨8, 7, 0x7F7F, 0x7F80, 0x7FC0⟩
  | .fp16 => ⟨5, 10, 0x7BFF, 0x7C00, 0x7E00⟩
  | _ => ⟨8, 23, 0x7F7F_FFFF, 0x7F80_0000, 0x7FC0_0000⟩

/-- Exponent bias: 2^(eb − 1) − 1. -/
def FloatParams.bias (p : FloatParams) : Int := 2 ^ (p.eb - 1) - 1

/-- The value of a floating code (R76). -/
def decodeFloat (p : FloatParams) (x : Nat) : Val :=
  let neg := nbits x (p.eb + p.mb) 1 = 1
  let mag := nbits x 0 (p.eb + p.mb)
  if mag ≤ p.max then
    let ex := mag / 2 ^ p.mb
    let man := mag % 2 ^ p.mb
    if ex = 0 then .num neg man (1 - p.bias - p.mb)
    else .num neg (2 ^ p.mb + man) (ex - p.bias - p.mb)
  else if p.inf ≠ 0 ∧ mag = p.inf then .inf neg
  else .nan

/-- An integer as a value. -/
def valInt (i : Int) : Val := .num (decide (i < 0)) i.natAbs 0

/-- The exact value of a code (R83). -/
def decodeVal (f : Fmt) (x : Nat) : Val :=
  match f with
  | .int n => valInt (sval n x)
  | .uint n => .num false (x % 2 ^ n) 0
  | .e8m0 => if x % 256 = 255 then .nan else .num false 1 ((x % 256 : Nat) - 127)
  | f => decodeFloat f.params x

/-! Exact operations. -/

/-- Is the value a zero? -/
def Val.isZero : Val → Bool
  | .num _ m _ => m = 0
  | _ => false

/-- Sign; NaN counts as positive. -/
def Val.neg? : Val → Bool
  | .num s _ _ => s | .inf s => s | .nan => false

/-- The value with the other sign. -/
def Val.flip : Val → Val
  | .num s m e => .num (!s) m e | .inf s => .inf (!s) | .nan => .nan

/-- The magnitude. -/
def Val.abs : Val → Val
  | .num _ m e => .num false m e | .inf _ => .inf false | .nan => .nan

/-- The signed integer that m × 2^e is a multiple of 2^lo of. -/
def scaled (neg : Bool) (m : Nat) (e lo : Int) : Int :=
  let x : Int := (m * 2 ^ (e - lo).toNat : Nat)
  if neg then -x else x

/-- Exact sum and its flags (R78, R80). -/
def addVal (rm : RM) (x y : Val) : Val × Flags :=
  match x, y with
  | .nan, _ => (.nan, 0)
  | _, .nan => (.nan, 0)
  | .inf a, .inf b => if a = b then (.inf a, 0) else (.nan, flagNV)
  | .inf a, _ => (.inf a, 0)
  | _, .inf b => (.inf b, 0)
  | .num a m d, .num b n e =>
    if m = 0 ∧ n = 0 then (.num (if a = b then a else rm = .rdn) 0 0, 0)
    else
      let lo := min d e
      let s := scaled a m d lo + scaled b n e lo
      if s = 0 then (.num (rm = .rdn) 0 0, 0) else (.num (decide (s < 0)) s.natAbs lo, 0)

/-- Exact product and its flags (R78). -/
def mulVal (x y : Val) : Val × Flags :=
  match x, y with
  | .nan, _ => (.nan, 0)
  | _, .nan => (.nan, 0)
  | .inf a, .inf b => (.inf (a != b), 0)
  | .inf a, .num b n _ => if n = 0 then (.nan, flagNV) else (.inf (a != b), 0)
  | .num a m _, .inf b => if m = 0 then (.nan, flagNV) else (.inf (a != b), 0)
  | .num a m d, .num b n e => (.num (a != b) (m * n) (d + e), 0)

/-- Compare two values that are not NaN: x < y. -/
def Val.lt : Val → Val → Bool
  | .nan, _ => false
  | _, .nan => false
  | .inf a, .inf b => a && !b
  | .inf a, _ => a
  | _, .inf b => !b
  | .num a m d, .num b n e =>
    let lo := min d e
    decide (scaled a m d lo < scaled b n e lo)

/-- Numeric equality; zeros are equal, NaN is equal to nothing. -/
def Val.eqv (x y : Val) : Bool := x ≠ .nan && y ≠ .nan && !Val.lt x y && !Val.lt y x

/-! Rounding (R79, R83, R84). -/

/-- Does rounding `m / 2^k` to an integer go away from zero? `odd` is the parity of the truncated result, `x` the
draw of STOCH. -/
def awayFrom (rm : RM) (neg odd : Bool) (rem k x : Nat) : Bool :=
  match rm with
  | .rne => decide (2 * rem > 2 ^ k) || (2 * rem = 2 ^ k && odd)
  | .rtz => false
  | .rdn => neg && rem ≠ 0
  | .rup => !neg && rem ≠ 0
  | .rna => decide (2 * rem ≥ 2 ^ k)
  | .stoch => rem ≠ 0 && decide (x / 256 < rem * 2 ^ 24 / 2 ^ k)

/-- The magnitude code of `m × 2^e`, m ≠ 0, with the exponent range unbounded above. -/
def roundMag (p : FloatParams) (rm : RM) (x : Nat) (neg : Bool) (m : Nat) (e : Int) : Nat :=
  let top : Int := Nat.log2 m + e
  let qe := max top (1 - p.bias) - p.mb
  let biased := (qe + p.mb + p.bias - 1).toNat
  if qe ≤ e then biased * 2 ^ p.mb + m * 2 ^ (e - qe).toNat
  else
    let k := (qe - e).toNat
    let n := m / 2 ^ k
    let n := if awayFrom rm neg (n % 2 = 1) (m % 2 ^ k) k x then n + 1 else n
    biased * 2 ^ p.mb + n

/-- A code with its sign. -/
def signed (p : FloatParams) (neg : Bool) (mag : Nat) : Nat := (if neg then 2 ^ (p.eb + p.mb) else 0) + mag

/-- Does an overflow give the largest finite value rather than an infinity (R79)? -/
def overflowsToMax (p : FloatParams) (rm : RM) (neg sat : Bool) : Bool :=
  sat || p.inf = 0 ||
  (match rm with
   | .rtz => true | .stoch => true
   | .rdn => !neg | .rup => neg
   | _ => false)

/-- Round to a floating format: the code and the flags (R79). `x` is the draw that STOCH uses. -/
def roundFloat (f : Fmt) (rm : RM) (sat : Bool) (x : Nat) (v : Val) : Nat × Flags :=
  let p := f.params
  match v with
  | .nan => if f = .fp4 then (0, flagNV) else (p.nan, 0)
  | .inf neg => if sat || p.inf = 0 then (signed p neg p.max, flagOF) else (signed p neg p.inf, 0)
  | .num neg m e =>
    if m = 0 then (signed p neg 0, 0)
    else
      let c := roundMag p rm x neg m e
      if c ≤ p.max then (signed p neg c, 0)
      else (signed p neg (if overflowsToMax p rm neg sat then p.max else p.inf), flagOF)

/-- Clamp to an integer format (R83). -/
def satInt (f : Fmt) (i : Int) : Int × Flags :=
  let (lo, hi) : Int × Int := match f with
    | .int n => (-(2 ^ (n - 1)), 2 ^ (n - 1) - 1)
    | _ => (0, 2 ^ f.width - 1)
  if i < lo then (lo, flagISAT) else if i > hi then (hi, flagISAT) else (i, 0)

/-- Round a value to an integer in a mode; infinities are passed on as integers beyond every format (R80). -/
def roundInt (rm : RM) (x : Nat) (v : Val) : Int × Flags :=
  match v with
  | .nan => (0, flagNV)
  | .inf neg => (if neg then -(2 ^ 64) else 2 ^ 64, 0)
  | .num neg m e =>
    let n :=
      if 0 ≤ e then m * 2 ^ e.toNat
      else
        let k := (-e).toNat
        let n := m / 2 ^ k
        if awayFrom rm neg (n % 2 = 1) (m % 2 ^ k) k x then n + 1 else n
    (if neg then -(n : Int) else n, 0)

/-- Round a value to any format: the code and the flags (R79, R80, R83). -/
def roundTo (f : Fmt) (rm : RM) (sat : Bool) (x : Nat) (v : Val) : Nat × Flags :=
  if f.isInt then
    let (i, a) := roundInt rm x v
    let (j, b) := satInt f i
    (wrapInt f.width j, a ||| b)
  else roundFloat f rm sat x v

/-- round_rne to FP32 as a value (R83). -/
def rneF32 (v : Val) : Val × Flags :=
  let (c, fl) := roundFloat .fp32 .rne false 0 v
  (decodeFloat Fmt.fp32.params c, fl)

/-- to_fp32 (R83): exact for floating formats and E8M0, RNE for integers. -/
def toFp32 (f : Fmt) (x : Nat) : Val := (rneF32 (decodeVal f x)).1

/-! The draw hash (R85, R86). -/

/-- Rotations of a word. -/
def ror32 (x : Word) (n : Nat) : Word := (x >>> n) ||| (x <<< (32 - n))
def rol32 (x : Word) (n : Nat) : Word := (x <<< n) ||| (x >>> (32 - n))

/-- The four words that draw_hash turns round. -/
structure Hash where
  x : Word
  y : Word
  k : Word
  l : Word
  deriving DecidableEq, Repr

/-- One round of R86. -/
def hashRound (h : Hash) (i : Nat) : Hash :=
  let x := (ror32 h.x 8 + h.y) ^^^ h.k
  let y := rol32 h.y 3 ^^^ x
  let l := (ror32 h.l 8 + h.k) ^^^ (0x9E37_79B9 + BitVec.ofNat 32 i)
  { x := x, y := y, l := l, k := rol32 h.k 3 ^^^ l }

/-- draw_hash (R86). -/
def drawHash (key ctr : DWord) : Word :=
  let h := (upto 0 20).foldl hashRound ⟨bits ctr 32 32, bits ctr 0 32, bits key 0 32, bits key 32 32⟩
  h.x ^^^ rol32 h.y 16

/-- A draw counter (R85). -/
def drawCtr (pos : Nat) (purpose : Nat) : DWord := BitVec.ofNat 64 (pos % 2 ^ 56 * 256 + purpose % 256)

/-- The draw of stochastic rounding at a position (R84). -/
def stochDraw (seed : Word) (pos : Nat) : Nat := (drawHash (zx64 seed) (drawCtr pos 1)).toNat

end Sys2Proof.Machine
end

