-- ==== Sys2Proof/Machine/Functions.lean ====
section
/-! DEFINITION. Quotients, roots and the elementary functions of the special-function unit, as exact values known well
enough to be rounded once (03 R83, R84, 10 R314, R320, R321, 11 R347). A value that no dyadic number gives exactly is
stood for by a neighbour that lies strictly between the same two rounding boundaries (log 13). -/

namespace Sys2Proof.Machine

/-- A number strictly between `m × 2^e` and `(m + 1) × 2^e`. -/
def sticky (neg : Bool) (m : Nat) (e : Int) : Val := .num neg (2 * m + 1) (e - 1)

/-- Bits kept of a quotient or root beyond its leading one. -/
def quotBits : Nat := 128

/-- Quotient of two magnitudes n ≠ 0, d ≠ 0. -/
def quotMag (neg : Bool) (n : Nat) (a : Int) (d : Nat) (b : Int) : Val :=
  let s := quotBits + Nat.log2 d
  let q := n * 2 ^ s / d
  if q * d = n * 2 ^ s then .num neg q (a - b - s) else sticky neg q (a - b - s)

/-- Quotient under IEEE rules, without DZ (R296). -/
def divVal (x y : Val) : Val × Flags :=
  match x, y with
  | .nan, _ => (.nan, 0)
  | _, .nan => (.nan, 0)
  | .inf _, .inf _ => (.nan, flagNV)
  | .inf a, .num b _ _ => (.inf (a != b), 0)
  | .num a _ _, .inf b => (.num (a != b) 0 0, 0)
  | .num a m d, .num b n e =>
    if n = 0 then (if m = 0 then (.nan, flagNV) else (.inf (a != b), 0))
    else if m = 0 then (.num (a != b) 0 0, 0)
    else (quotMag (a != b) m d n e, 0)

/-- Integer square root, rounded down, from the bits of the root downward. -/
def isqrt (x : Nat) : Nat → Nat → Nat
  | 0, r => r
  | n + 1, r => let t := r + 2 ^ n; isqrt x n (if t * t ≤ x then t else r)

/-- 1 / √(m × 2^e) for m ≠ 0. -/
def rsqrtMag (m : Nat) (e : Int) : Val :=
  let (m, e) : Nat × Int := if e % 2 = 0 then (m, e) else (2 * m, e - 1)
  let s := quotBits + Nat.log2 m
  let t := 2 ^ (2 * s) / m
  let r := isqrt t (s + 1) 0
  if r * r * m = 2 ^ (2 * s) then .num false r (-(e / 2) - s) else sticky false r (-(e / 2) - s)

/-! Fixed point with 320 fractional bits. -/

/-- Fractional bits. -/
def fixBits : Nat := 320

/-- A magnitude in fixed point, rounded down. -/
def toFix (m : Nat) (e : Int) : Nat :=
  let k := e + fixBits
  if 0 ≤ k then m * 2 ^ k.toNat else m / 2 ^ (-k).toNat

/-- A fixed-point result as a value: its last 32 bits are not trusted. -/
def fromFix (neg : Bool) (x : Nat) (k : Int) : Val := sticky neg (x / 2 ^ 32) (k + 32 - fixBits)

/-- Terms z^(2i+1)/(2i+1) of the inverse hyperbolic tangent, `p` the current power. -/
def atanhSeries (z2 : Nat) : Nat → Nat → Nat → Nat
  | 0, _, _ => 0
  | n + 1, p, i => p / (2 * i + 1) + atanhSeries z2 n (p * z2 / 2 ^ fixBits) (i + 1)

/-- artanh of a fixed-point number of magnitude at most 1/3. -/
def atanhFix (z : Nat) : Nat := atanhSeries (z * z / 2 ^ fixBits) 110 z 0

/-- ln 2 in fixed point. -/
def ln2Fix : Nat := 2 * atanhFix (2 ^ fixBits / 3)

/-- Terms r^i/i! of the exponential, `t` the current term. -/
def expSeries (r : Nat) : Nat → Nat → Nat → Nat
  | 0, _, _ => 0
  | n + 1, t, i => t + expSeries r n (t * r / 2 ^ fixBits / (i + 1)) (i + 1)

/-- e^r for 0 ≤ r < 1 in fixed point. -/
def expFix (r : Nat) : Nat := expSeries r 80 (2 ^ fixBits) 0

/-- e^x, or its reciprocal, for x = y / 2^320 ≥ 0: a fixed-point mantissa and an exponent. -/
def expParts (neg : Bool) (y : Nat) : Nat × Int :=
  let k := y / ln2Fix
  let r := y % ln2Fix
  if !neg then (expFix r, k)
  else if r = 0 then (2 ^ fixBits, -(k : Int))
  else (expFix (ln2Fix - r), -(k : Int) - 1)

/-- Larger than every exponent a format has. -/
def farExp : Int := 4096

/-- e^x for a finite x ≠ 0. -/
def expMag (neg : Bool) (m : Nat) (e : Int) : Val :=
  let top : Int := Nat.log2 m + e
  if top > 11 then (if neg then .num false 1 (-farExp) else .num false 1 farExp)
  else if top < -200 then (if neg then sticky false (2 ^ 100 - 1) (-100) else sticky false (2 ^ 100) (-100))
  else
    let (x, k) := expParts neg (toFix m e)
    fromFix false x k

/-- 2^x for a finite x ≠ 0; exact for an integer x. -/
def exp2Mag (neg : Bool) (m : Nat) (e : Int) : Val :=
  let top : Int := Nat.log2 m + e
  if top > 12 then (if neg then .num false 1 (-farExp) else .num false 1 farExp)
  else if top < -200 then (if neg then sticky false (2 ^ 100 - 1) (-100) else sticky false (2 ^ 100) (-100))
  else
    let y := toFix m e
    let k := y / 2 ^ fixBits
    let f := y % 2 ^ fixBits
    if f = 0 then .num false 1 (if neg then -(k : Int) else k)
    else
      let g := if neg then 2 ^ fixBits - f else f
      fromFix false (expFix (g * ln2Fix / 2 ^ fixBits)) (if neg then -(k : Int) - 1 else k)

/-- ln of m × 2^e in fixed point, with its sign: e' ln 2 plus twice the artanh of (y − 1)/(y + 1). -/
def lnFix (m : Nat) (e : Int) : Int :=
  let t := Nat.log2 m
  let up := decide (m * 2 ≥ 3 * 2 ^ t)
  let k : Int := t + e + (if up then 1 else 0)
  let one := 2 ^ (t + (if up then 1 else 0))
  let z := (if m ≥ one then m - one else one - m) * 2 ^ fixBits / (m + one)
  let l : Int := 2 * atanhFix z
  k * ln2Fix + (if m ≥ one then l else -l)

/-- ln of m × 2^e, m ≠ 0 and the value not 1. -/
def lnMag (m : Nat) (e : Int) : Val :=
  let l := lnFix m e
  fromFix (decide (l < 0)) l.natAbs 0

/-- log₂ of m × 2^e, m ≠ 0: exact for a power of two. -/
def log2Mag (m : Nat) (e : Int) : Val :=
  let t := Nat.log2 m
  if m = 2 ^ t then
    let k := (t : Int) + e
    .num (decide (k < 0)) k.natAbs 0
  else
    let l := lnFix m e
    fromFix (decide (l < 0)) (l.natAbs * 2 ^ fixBits / ln2Fix) 0

/-- Just below 1. -/
def below1 : Val := sticky false (2 ^ 100 - 1) (-100)

/-- tanh of a finite x ≠ 0. -/
def tanhMag (neg : Bool) (m : Nat) (e : Int) : Val :=
  let top : Int := Nat.log2 m + e
  let v :=
    if top < -30 then sticky false (m * 2 ^ 64 - 1) (e - 64)
    else if top ≥ 5 then below1
    else
      let (x, k) := expParts true (2 * toFix m e)
      let q := x / 2 ^ (-k).toNat
      fromFix false ((2 ^ fixBits - q) * 2 ^ fixBits / (2 ^ fixBits + q)) 0
  match v with
  | .num _ m e => .num neg m e
  | v => v

/-- 1 / (1 + e^−x) of a finite x ≠ 0. -/
def sigmMag (neg : Bool) (m : Nat) (e : Int) : Val :=
  let top : Int := Nat.log2 m + e
  if top > 11 then (if neg then .num false 1 (-farExp) else below1)
  else if top < -200 then (if neg then sticky false (2 ^ 100 - 1) (-101) else sticky false (2 ^ 100) (-101))
  else if top ≥ 6 && !neg then below1
  else
    let (x, k) := expParts neg (toFix m e)
    if neg then
      let q := x / 2 ^ (-k).toNat
      fromFix false (x * 2 ^ fixBits / (2 ^ fixBits + q)) k
    else fromFix false (x * 2 ^ k.toNat * 2 ^ fixBits / (2 ^ fixBits + x * 2 ^ k.toNat)) 0

/-! The six functions with their special inputs (R321). -/

/-- e^x or 2^x. -/
def expVal (base2 : Bool) (x : Val) : Val × Flags :=
  match x with
  | .nan => (.nan, 0)
  | .inf neg => (if neg then .num false 0 0 else .inf false, 0)
  | .num neg m e => (if m = 0 then .num false 1 0 else if base2 then exp2Mag neg m e else expMag neg m e, 0)

/-- ln x or log₂ x. -/
def logVal (base2 : Bool) (x : Val) : Val × Flags :=
  match x with
  | .nan => (.nan, 0)
  | .inf neg => if neg then (.nan, flagNV) else (.inf false, 0)
  | .num neg m e =>
    if m = 0 then (.inf true, flagDZ)
    else if neg then (.nan, flagNV)
    else if Val.eqv x (.num false 1 0) then (.num false 0 0, 0)
    else (if base2 then log2Mag m e else lnMag m e, 0)

/-- 1 / x. -/
def rcpVal (x : Val) : Val × Flags :=
  match x with
  | .nan => (.nan, 0)
  | .inf neg => (.num neg 0 0, 0)
  | .num neg m e => if m = 0 then (.inf neg, flagDZ) else (quotMag neg 1 0 m e, 0)

/-- 1 / √x. -/
def rsqVal (x : Val) : Val × Flags :=
  match x with
  | .nan => (.nan, 0)
  | .inf neg => if neg then (.nan, flagNV) else (.num false 0 0, 0)
  | .num neg m e => if m = 0 then (.inf neg, flagDZ) else if neg then (.nan, flagNV) else (rsqrtMag m e, 0)

/-- tanh x. -/
def tanhVal (x : Val) : Val × Flags :=
  match x with
  | .nan => (.nan, 0)
  | .inf neg => (.num neg 1 0, 0)
  | .num neg m e => (if m = 0 then .num neg 0 0 else tanhMag neg m e, 0)

/-- 1 / (1 + e^−x). -/
def sigmVal (x : Val) : Val × Flags :=
  match x with
  | .nan => (.nan, 0)
  | .inf neg => (if neg then .num false 0 0 else .num false 1 0, 0)
  | .num neg m e => (if m = 0 then .num false 1 (-1) else sigmMag neg m e, 0)

end Sys2Proof.Machine
end

