-- ==== Sys2Proof/Machine/Lanes.lean ====
section
/-! DEFINITION. Vector operands, lanes and masks, and how an operation of an engine answers (10 R287–R295). -/

namespace Sys2Proof.Machine

/-! Operands (R290). -/

/-- An operand field's value: a vector register, a queue register or a lane mask (R290). -/
inductive Opnd
  | v (n : Nat)
  | q (n : Nat)
  | k (n : Nat)
  deriving DecidableEq, Repr

/-- The operand of a field; none for 56–63 (R290). -/
def opndOf (n : Nat) : Option Opnd :=
  if n < 32 then some (.v n) else if n < 48 then some (.q (n - 32)) else if n < 56 then some (.k (n - 48)) else none

/-- A vector register (R287). -/
def Core.vreg (k : Core) (n : Nat) : List Byte := SMap.get (bytesOf 512 0) k.v n

/-- A lane mask; K0 is all ones (R287). -/
def Core.kreg (k : Core) (n : Nat) : QWord := if n = 0 then BitVec.ofNat 128 (2 ^ 128 - 1) else SMap.get 0 k.k n

/-- The head entry of a queue register; 512 zero bytes stand in where none has landed. -/
def Core.qhead (k : Core) (n : Nat) : List Byte :=
  match k.queue n with
  | ⟨_, some d, _⟩ :: _ => d
  | _ => bytesOf 512 0

/-- The 512 bytes that an operand field gives as a source. -/
def Core.source (k : Core) (field : Nat) : List Byte :=
  if field < 32 then k.vreg field else if field < 48 then k.qhead (field - 32) else bytesOf 512 0

/-! Lanes (R75, R288). -/

/-- The low and the high four bits of each byte. -/
def nibbles : List Byte → List Nat
  | [] => []
  | b :: r => (b.toNat % 16) :: (b.toNat / 16) :: nibbles r

/-- Bytes from pairs of four-bit elements. -/
def joinNibbles : List Nat → List Byte
  | a :: b :: r => BitVec.ofNat 8 (a % 16 + 16 * (b % 16)) :: joinNibbles r
  | [a] => [BitVec.ofNat 8 (a % 16)]
  | [] => []

/-- The elements of width `w` of 512 bytes (R75). -/
def lanesOf (w : Nat) (l : List Byte) : List Nat :=
  if w = 4 then nibbles l else (pieces (w / 8) (512 * 8 / w) l).map ofBytes

/-- 512 bytes from elements of width `w` (R75). -/
def bytesOfLanes (w : Nat) (l : List Nat) : List Byte :=
  if w = 4 then joinNibbles l else (l.map (bytesOf (w / 8))).flatten

/-- Is lane `i` of width `w` enabled by a mask (R288)? -/
def laneOn (m : QWord) (w i : Nat) : Bool := m.getLsbD (i * w / 32)

/-- Is byte `b` enabled by a mask (R288)? -/
def byteOn (m : QWord) (b : Nat) : Bool := m.getLsbD (b / 4)

/-! Results. -/

/-- What an operation of an engine will write, and what it found while it ran (R295, R296, 09 R281). -/
structure EngOut where
  writes : List EngWrite := []
  flags : Flags := 0
  late : Option Nat := none
  deriving DecidableEq, Repr

/-- Two results together. -/
def EngOut.and (a b : EngOut) : EngOut :=
  { writes := a.writes ++ b.writes, flags := a.flags ||| b.flags, late := a.late.or b.late }

/-- Write 512 bytes to a destination operand; with a mask, disabled bytes of a register are kept and those of a queue
entry are zero (R294). -/
def writeDst (field : Nat) (mask : QWord) (data : List Byte) : List EngWrite :=
  if field < 32 then [.vreg field (data.zipIdx.map fun x => if byteOn mask x.2 then some x.1 else none)]
  else if field < 48 then
    [.queue (field - 32) 0 (data.zipIdx.map fun x => if byteOn mask x.2 then x.1 else 0)]
  else []

/-- A mask that enables every lane. -/
def allOn : QWord := BitVec.ofNat 128 (2 ^ 128 - 1)

/-- Write a destination in full. -/
def writeAll (field : Nat) (data : List Byte) : List EngWrite := writeDst field allOn data

/-! What an A, B or F operation reads (R289). -/

/-- A vector or special-function operation at issue: the core as it is then, the copy's fields, and the number of
earlier issues of its template (R84). -/
structure VIn where
  k : Core
  t : VTmpl
  n : Nat := 0
  deriving DecidableEq, Repr

/-- The format of an operation. -/
def VIn.fmt (x : VIn) : Fmt := (fmtOf x.t.fmt.toNat).getD .fp32
/-- Its lane width. -/
def VIn.w (x : VIn) : Nat := x.fmt.width
/-- Its lane count (R288). -/
def VIn.lanes (x : VIn) : Nat := 4096 / x.w
/-- Its rounding mode. -/
def VIn.rm (x : VIn) : RM := (rmOf x.t.rm.toNat).getD .rne
/-- Its SAT field. -/
def VIn.sat (x : VIn) : Bool := x.t.sat = 1
/-- Its lane mask. -/
def VIn.mask (x : VIn) : QWord := x.k.kreg x.t.mask.toNat
/-- Its sources as bytes. -/
def VIn.a (x : VIn) : List Byte := x.k.source x.t.sa.toNat
def VIn.b (x : VIn) : List Byte := x.k.source x.t.sb.toNat
def VIn.c (x : VIn) : List Byte := x.k.source x.t.sc.toNat

/-- Is lane `i` enabled? -/
def VIn.on (x : VIn) (i : Nat) : Bool := laneOn x.mask x.w i

/-- The draw of STOCH for a lane; `lanes` is the destination's lane count (R84, R291). -/
def VIn.draw (x : VIn) (lanes i : Nat) : Nat :=
  if x.rm = .stoch then stochDraw x.t.imm (i + (if lanes = 1024 then 1024 else 512) * (x.n % 2 ^ 47)) else 0

/-- Round a lane's exact value to a floating format (R298). -/
def VIn.round (x : VIn) (f : Fmt) (lanes i : Nat) (v : Val) : Nat × Flags :=
  roundTo f x.rm x.sat (x.draw lanes i) v

/-- Flags of the enabled lanes. -/
def VIn.flagsOf (x : VIn) (l : List (Nat × Flags)) : Flags :=
  l.zipIdx.foldl (fun f e => if x.on e.2 then f ||| e.1.2 else f) 0

/-- A result lane by lane under the operation's own mask (R294). -/
def VIn.merge (x : VIn) (l : List (Nat × Flags)) : EngOut :=
  { writes := writeDst x.t.dst.toNat x.mask (bytesOfLanes x.w (l.map (·.1))), flags := x.flagsOf l }

/-- Apply a function of the lane number and the lanes of SA, SB and SC. -/
def VIn.each3 (x : VIn) (f : Nat → Nat → Nat → Nat → Nat × Flags) : EngOut :=
  let a := lanesOf x.w x.a
  let b := lanesOf x.w x.b
  let c := lanesOf x.w x.c
  x.merge ((a.zip (b.zip c)).zipIdx.map fun e => f e.2 e.1.1 e.1.2.1 e.1.2.2)

/-- Apply a function of the lane number and the lanes of SA and SB. -/
def VIn.each2 (x : VIn) (f : Nat → Nat → Nat → Nat × Flags) : EngOut :=
  let a := lanesOf x.w x.a
  let b := lanesOf x.w x.b
  x.merge ((a.zip b).zipIdx.map fun e => f e.2 e.1.1 e.1.2)

/-- Apply a function of the lane number and the lane of SA. -/
def VIn.each1 (x : VIn) (f : Nat → Nat → Nat × Flags) : EngOut :=
  x.merge ((lanesOf x.w x.a).zipIdx.map fun e => f e.2 e.1)

end Sys2Proof.Machine
end

