-- ==== Sys2Proof/Machine/VecOps.lean ====
section
/-! DEFINITION. What the operations of the vector units and of the special-function unit compute (10 R298–R321). -/

namespace Sys2Proof.Machine

/-! Elementwise arithmetic (R298, R299). -/

/-- The integer that a code of an integer format stands for (R74). -/
def intOf (f : Fmt) (x : Nat) : Int :=
  match f with
  | .int n => sval n x
  | _ => (x % 2 ^ f.width : Nat)

/-- A lane's result: a floating value rounded once, or an integer reduced or saturated (R298). -/
def VIn.arith (x : VIn) (i : Nat) (v : Val × Flags) (int : Int) : Nat × Flags :=
  if x.fmt.isFloat then
    let (c, fl) := x.round x.fmt x.lanes i v.1
    (c, fl ||| v.2)
  else if x.sat then
    let (j, fl) := satInt x.fmt int
    (wrapInt x.w j, fl)
  else (wrapInt x.w int, 0)

/-- Lane values. -/
def VIn.val (x : VIn) (c : Nat) : Val := decodeVal x.fmt c
def VIn.int (x : VIn) (c : Nat) : Int := intOf x.fmt c

/-- x × y + z, with its flags: exact up to the one rounding that follows. -/
def fmaVal (rm : RM) (a b c : Val) : Val × Flags :=
  let (p, f) := mulVal a b
  let (s, g) := addVal rm p c
  (s, f ||| g)

def runVadd (x : VIn) : EngOut := x.each2 fun i a b => x.arith i (addVal x.rm (x.val a) (x.val b)) (x.int a + x.int b)
def runVsub (x : VIn) : EngOut := x.each2 fun i a b => x.arith i (addVal x.rm (x.val a) (x.val b).flip) (x.int a - x.int b)
def runVmul (x : VIn) : EngOut := x.each2 fun i a b => x.arith i (mulVal (x.val a) (x.val b)) (x.int a * x.int b)
def runVfma (x : VIn) : EngOut :=
  x.each3 fun i a b c => x.arith i (fmaVal x.rm (x.val a) (x.val b) (x.val c)) (x.int a * x.int b + x.int c)
def runVfms (x : VIn) : EngOut :=
  x.each3 fun i a b c => x.arith i (fmaVal x.rm (x.val a) (x.val b) (x.val c).flip) (x.int a * x.int b - x.int c)
def runVabs (x : VIn) : EngOut := x.each1 fun i a => x.arith i ((x.val a).abs, 0) (x.int a).natAbs
def runVneg (x : VIn) : EngOut := x.each1 fun i a => x.arith i ((x.val a).flip, 0) (-(x.int a))

/-- Order of VMIN and VMAX: −0 below +0 (R299). -/
def below (a b : Val) : Bool := a.lt b || (a.isZero && b.isZero && a.neg? && !b.neg?)

/-- The code chosen by VMIN or VMAX; a NaN yields the other operand (R299). -/
def pickCode (f : Fmt) (max : Bool) (a b : Nat) : Nat :=
  let u := decodeVal f a
  let v := decodeVal f b
  if u = .nan ∧ v = .nan then f.params.nan
  else if u = .nan then b
  else if v = .nan then a
  else if max then (if below u v then b else a)
  else (if below v u then b else a)

def runVmin (x : VIn) : EngOut := x.each2 fun _ a b => (pickCode x.fmt false a b, 0)
def runVmax (x : VIn) : EngOut := x.each2 fun _ a b => (pickCode x.fmt true a b, 0)

/-! Bitwise operations and shifts (R300). -/

def runVand (x : VIn) : EngOut := x.each2 fun _ a b => (a &&& b, 0)
def runVor (x : VIn) : EngOut := x.each2 fun _ a b => (a ||| b, 0)
def runVxor (x : VIn) : EngOut := x.each2 fun _ a b => (a ^^^ b, 0)
def runVnot (x : VIn) : EngOut := x.each1 fun _ a => (2 ^ x.w - 1 - a, 0)

/-- The count of a lane's shift: SB's low bits, or AUX[4:0] with IMMSH (R300). -/
def VIn.count (x : VIn) (b : Nat) : Nat := if bits x.t.aux 15 1 = 1 then (bits x.t.aux 0 5).toNat else b % x.w

def runVshl (x : VIn) : EngOut := x.each2 fun _ a b => (a * 2 ^ x.count b % 2 ^ x.w, 0)
def runVshr (x : VIn) : EngOut := x.each2 fun _ a b => (a / 2 ^ x.count b, 0)
def runVsar (x : VIn) : EngOut := x.each2 fun _ a b => (wrapInt x.w (sval x.w a / 2 ^ x.count b), 0)

/-! Comparisons and predicates (R301, R302). -/

/-- Write predicate PD, if AUX[5:0] names one (R302). -/
def pdWrite (aux : BitVec 16) (v : Bool) : List EngWrite :=
  let p := (bits aux 0 6).toNat
  if p = 0 then [] else [.pred p v]

/-- A mask from its bits. -/
def maskOf (l : List Bool) : QWord := BitVec.ofNat 128 (l.foldr (fun b n => 2 * n + (if b then 1 else 0)) 0)

/-- VCMP under a relation (R301, R302). -/
def VIn.compare (x : VIn) (rel : Val → Val → Bool) : EngOut :=
  let r := ((lanesOf x.w x.a).zip (lanesOf x.w x.b)).map fun e => rel (x.val e.1) (x.val e.2)
  let on := r.zipIdx.filter fun e => x.on e.2
  let dst := x.t.dst.toNat
  let d := if dst < 48 then (x.merge (r.map fun b => (if b then 2 ^ x.w - 1 else 0, 0))).writes
    else [.kreg (dst - 48) x.mask (maskOf r)]
  let p := if bits x.t.aux 6 1 = 1 then on.all (·.1) else on.any (·.1)
  { writes := d ++ pdWrite x.t.aux p }

def runVcmpEq (x : VIn) : EngOut := x.compare fun a b => a.eqv b
def runVcmpNe (x : VIn) : EngOut := x.compare fun a b => !a.eqv b
def runVcmpLt (x : VIn) : EngOut := x.compare fun a b => a.lt b
def runVcmpLe (x : VIn) : EngOut := x.compare fun a b => a.lt b || a.eqv b
def runVcmpGt (x : VIn) : EngOut := x.compare fun a b => b.lt a
def runVcmpGe (x : VIn) : EngOut := x.compare fun a b => b.lt a || a.eqv b

/-! Lane movement (R303). -/

def runVsel (x : VIn) : EngOut := x.each3 fun _ a b c => (if c ≠ 0 then a else b, 0)
def runVmov (x : VIn) : EngOut := x.each1 fun _ a => (a, 0)
def runVbcast (x : VIn) : EngOut :=
  let v := if bits x.t.aux 15 1 = 1 then (lanesOf x.w x.a).getD (bits x.t.aux 0 10).toNat 0 else x.t.imm.toNat % 2 ^ x.w
  x.each1 fun _ _ => (v, 0)
def runVperm (x : VIn) : EngOut :=
  let a := lanesOf x.w x.a
  x.each2 fun _ _ b => (a.getD b 0, 0)
def runVslide (x : VIn) : EngOut :=
  let a := lanesOf x.w x.a
  let b := lanesOf x.w x.b
  let s := sval 10 (bits x.t.aux 0 10).toNat
  x.each1 fun i _ =>
    let j := (i : Int) + s
    (if j < 0 then b.getD (j + x.lanes).toNat 0
     else if j < x.lanes then a.getD j.toNat 0
     else b.getD (j - x.lanes).toNat 0, 0)

/-! Reductions and scans (R91, R92, R304, R305). -/

/-- One level of the tree: neighbours are combined. -/
def treeLevel {α : Type} (f : α → α → α) : List α → List α
  | a :: b :: r => f a b :: treeLevel f r
  | l => l

/-- The fixed pairwise tree (R91); `n` bounds the number of levels. -/
def treeRed {α : Type} (f : α → α → α) : Nat → List α → List α
  | 0, l => l
  | n + 1, l => treeRed f n (treeLevel f l)

/-- A step of a floating sum: one rounding to FP32 (R91). -/
def sumStep (rm : RM) (a b : Val × Flags) : Val × Flags :=
  let (s, f) := addVal rm a.1 b.1
  let (c, g) := roundFloat .fp32 rm false 0 s
  (decodeFloat Fmt.fp32.params c, a.2 ||| b.2 ||| f ||| g)

/-- The lesser or greater of two values under the rule of R299. -/
def pickVal (max : Bool) (a b : Val × Flags) : Val × Flags :=
  let v := if a.1 = .nan then b.1 else if b.1 = .nan then a.1
    else if max then (if below a.1 b.1 then b.1 else a.1) else (if below b.1 a.1 then b.1 else a.1)
  (v, a.2 ||| b.2)

/-- Lanes of SA, `d` where the mask disables them. -/
def VIn.taking {α : Type} (x : VIn) (f : Nat → α) (d : α) : List α :=
  (lanesOf x.w x.a).zipIdx.map fun e => if x.on e.2 then f e.1 else d

/-- A result in lane 0, the other lanes zero (R304). -/
def VIn.lane0 (x : VIn) (c : Nat) (fl : Flags) : EngOut :=
  { writes := writeAll x.t.dst.toNat (bytesOfLanes x.w (c :: List.replicate (x.lanes - 1) 0)), flags := fl }

/-- Reduce floating lanes. -/
def VIn.redFloat (x : VIn) (f : Val × Flags → Val × Flags → Val × Flags) (id : Val) : EngOut :=
  let r := (treeRed f 10 (x.taking (fun c => (toFp32 x.fmt c, (0 : Flags))) (id, 0))).headD (id, 0)
  let (c, g) := roundFloat x.fmt x.rm false 0 r.1
  x.lane0 c (r.2 ||| g)

/-- Reduce integer lanes, exactly; the result is saturated. -/
def VIn.redInt (x : VIn) (f : Int → Int → Int) (id : Int) : EngOut :=
  let (j, g) := satInt x.fmt ((treeRed f 10 (x.taking x.int id)).headD id)
  x.lane0 (wrapInt x.w j) g

/-- Least and greatest number of an integer format (R74). -/
def fmtMin (f : Fmt) : Int := match f with
  | .int n => -(2 ^ (n - 1))
  | _ => 0
def fmtMax (f : Fmt) : Int := match f with
  | .int n => 2 ^ (n - 1) - 1
  | _ => 2 ^ f.width - 1

def negZero : Val := .num true 0 0

def runVredSum (x : VIn) : EngOut := if x.fmt.isFloat then x.redFloat (sumStep x.rm) negZero else x.redInt (· + ·) 0
def runVredMin (x : VIn) : EngOut :=
  if x.fmt.isFloat then x.redFloat (pickVal false) (.inf false) else x.redInt (fun a b => if b < a then b else a) (fmtMax x.fmt)
def runVredMax (x : VIn) : EngOut :=
  if x.fmt.isFloat then x.redFloat (pickVal true) (.inf true) else x.redInt (fun a b => if a < b then b else a) (fmtMin x.fmt)

/-- Reduce lanes as bit patterns. -/
def VIn.redBits (x : VIn) (f : Nat → Nat → Nat) (id : Nat) : EngOut :=
  x.lane0 ((treeRed f 10 (x.taking (fun c => c) id)).headD id) 0

def runVredAnd (x : VIn) : EngOut := x.redBits (· &&& ·) (2 ^ x.w - 1)
def runVredOr (x : VIn) : EngOut := x.redBits (· ||| ·) 0
def runVredXor (x : VIn) : EngOut := x.redBits (· ^^^ ·) 0

/-- Running values of a scan: for each element, the value before it or after it (R92). -/
def scanList {α β : Type} (f : β → α → β) (excl : Bool) : β → List α → List β
  | _, [] => []
  | s, a :: r =>
    let t := f s a
    (if excl then s else t) :: scanList f excl t r

/-- A scan's result; every lane is written (R305), and an enabled one raises its flags (R296). -/
def VIn.scanOut (x : VIn) (l : List (Nat × Flags)) (fl : Flags) : EngOut :=
  { writes := writeAll x.t.dst.toNat (bytesOfLanes x.w (l.map (·.1))), flags := x.flagsOf l ||| fl }

/-- Scan floating lanes. The running value gathers the flags of every update, the last lane's too (R92). -/
def VIn.scanFloat (x : VIn) (f : Val × Flags → Val × Flags → Val × Flags) (id : Val) : EngOut :=
  let src := x.taking (fun c => (toFp32 x.fmt c, (0 : Flags))) (id, 0)
  let l := scanList f (bits x.t.aux 0 1 = 1) (id, 0) src
  x.scanOut (l.map fun v => roundFloat x.fmt x.rm false 0 v.1) (src.foldl f (id, 0)).2

/-- Scan integer lanes. -/
def VIn.scanInt (x : VIn) (f : Int → Int → Int) (id : Int) : EngOut :=
  let l := scanList f (bits x.t.aux 0 1 = 1) id (x.taking x.int id)
  x.scanOut (l.map fun v =>
    let (j, g) := satInt x.fmt v
    (wrapInt x.w j, g)) 0

def runVscanSum (x : VIn) : EngOut := if x.fmt.isFloat then x.scanFloat (sumStep x.rm) negZero else x.scanInt (· + ·) 0
def runVscanMin (x : VIn) : EngOut :=
  if x.fmt.isFloat then x.scanFloat (pickVal false) (.inf false) else x.scanInt (fun a b => if b < a then b else a) (fmtMax x.fmt)
def runVscanMax (x : VIn) : EngOut :=
  if x.fmt.isFloat then x.scanFloat (pickVal true) (.inf true) else x.scanInt (fun a b => if a < b then b else a) (fmtMin x.fmt)

/-! Conversion and scaling (R306–R308). -/

/-- Write part of a destination: `lo` bytes in, the rest kept in a register and zero in a queue entry (R306). -/
def writePart (field lo : Nat) (data : List Byte) : List EngWrite :=
  let all := (List.replicate lo none) ++ data.map some ++ List.replicate (512 - lo - data.length) none
  if field < 32 then [.vreg field all]
  else if field < 48 then [.queue (field - 32) 0 (all.map fun b => b.getD 0)]
  else []

/-- The destination format of VCVT and VSCL.DERIVE. -/
def VIn.dfmt (x : VIn) : Fmt := (fmtOf (bits x.t.aux 0 4).toNat).getD .fp32

/-- VCVT (R306). -/
def runVcvt (x : VIn) : EngOut :=
  let d := x.dfmt
  let ws := x.w
  let wd := d.width
  let part := (bits x.t.aux 4 3).toNat
  let a := lanesOf ws x.a
  let src := if ws < wd then (a.drop (part * (4096 / wd))).take (4096 / wd) else a
  let base := if ws > wd then part * (4096 / ws) else 0
  let r := src.zipIdx.map fun e => x.round d (4096 / wd) (base + e.2) (x.val e.1)
  { writes := writePart x.t.dst.toNat (base * wd / 8) ((bytesOfLanes wd (r.map (·.1))))
    flags := (r.map (·.2)).foldl (· ||| ·) 0 }

/-- A value times 2^k. -/
def Val.scale (v : Val) (k : Int) : Val :=
  match v with
  | .num s m e => .num s m (e + k)
  | v => v

/-- VSCL (R307). -/
def runVscl (x : VIn) : EngOut :=
  let b := x.b
  x.each1 fun i a =>
    let e := (b.getD (i / 32) 0).toNat
    if e = 255 then (x.fmt.params.nan, flagNV)
    else
      let k : Int := if bits x.t.aux 8 1 = 1 then 127 - e else e - 127
      x.round x.fmt x.lanes i ((x.val a).scale k)

/-- The scale of one block (R308). -/
def deriveScale (emax : Int) (l : List Val) : Nat × Flags :=
  if l.any fun v => match v with
    | .num _ _ _ => false
    | _ => true then (255, flagNV)
  else
    let top := l.foldl (fun (o : Option Int) v => match v with
      | .num _ m e => if m = 0 then o else some (max (o.getD (Nat.log2 m + e)) (Nat.log2 m + e))
      | _ => o) none
    match top with
    | none => (127, 0)
    | some t => ((min (max (t - emax + 127) 0) 254).toNat, 0)

/-- VSCL.DERIVE (R308). -/
def runVsclDerive (x : VIn) : EngOut :=
  let emax : Int := match x.dfmt with
    | .fp4 => 2 | .e4m3 => 8 | _ => 15
  let r := (pieces 32 (x.lanes / 32) ((lanesOf x.w x.a).map x.val)).map (deriveScale emax)
  { writes := writeAll x.t.dst.toNat (r.map (fun e => BitVec.ofNat 8 e.1) ++ bytesOf (512 - r.length) 0)
    flags := (r.map (·.2)).foldl (· ||| ·) 0 }

/-! Index generation and counting (R309, R310). -/

/-- VIOTA (R309). -/
def runViota (x : VIn) : EngOut :=
  let v : Int := match x.fmt with
    | .int _ => sval 32 x.t.imm.toNat
    | _ => x.t.imm.toNat
  let step := sval 8 (bits x.t.aux 0 8).toNat
  x.merge ((upto 0 x.lanes).map fun i => x.arith i (.nan, 0) (v + i * step))

/-- Numbers of the enabled lanes of SA that have a bit set. -/
def VIn.nonzero (x : VIn) : List Nat :=
  ((lanesOf x.w x.a).zipIdx.filter fun e => x.on e.2 && e.1 ≠ 0).map (·.2)

/-- A UINT32 in bytes 0–3 of the destination, zero above. -/
def VIn.word0 (x : VIn) (n : Nat) : List EngWrite := writeAll x.t.dst.toNat (bytesOf 4 n ++ bytesOf 508 0)

def runVpopc (x : VIn) : EngOut :=
  let n := x.nonzero.length
  { writes := x.word0 n ++ pdWrite x.t.aux (n ≠ 0) }
def runVfirst (x : VIn) : EngOut :=
  { writes := x.word0 (x.nonzero.headD x.lanes) ++ pdWrite x.t.aux (!x.nonzero.isEmpty) }

/-- Does `a` rank above `b`: NaN below every number (R310, R314)? -/
def ranksAbove (a b : Val) : Bool := if a = .nan then false else if b = .nan then true else b.lt a

/-- The best of a list, the first among equals. -/
def best : List (Nat × Val) → Option (Nat × Val)
  | [] => none
  | a :: r =>
    match best r with
    | none => some a
    | some b => if ranksAbove b.2 a.2 then some b else some a

/-- Pick the `k` best, in order. -/
def pickBest : Nat → List (Nat × Val) → List Nat
  | 0, _ => []
  | k + 1, l =>
    match best l with
    | none => []
    | some b => b.1 :: pickBest k (l.filter fun e => e.1 ≠ b.1)

/-- The code of −∞, or the least integer. -/
def lowestCode (f : Fmt) : Nat :=
  if f.isFloat then signed f.params true f.params.inf else wrapInt f.width (fmtMin f)

/-- VTOPK (R310). -/
def runVtopk (x : VIn) : EngOut :=
  let a := lanesOf x.w x.a
  let on := (a.zipIdx.filter fun e => x.on e.2).map fun e => (e.2, x.val e.1)
  let p := pickBest (bits x.t.aux 0 8).toNat on
  let d := p.map (fun i => a.getD i 0) ++ List.replicate (x.lanes - p.length) (lowestCode x.fmt)
  let v := p ++ List.replicate (128 - p.length) (2 ^ 32 - 1)
  { writes := writeAll x.t.dst.toNat (bytesOfLanes x.w d) ++ writeAll x.t.sc.toNat (bytesOfLanes 32 v) }

/-! Scratchpad access (R311). -/

/-- The first poisoned sector with an enabled byte in [a, a + 512). -/
def VIn.poisoned (x : VIn) (a : Nat) : Option Nat :=
  ((upto 0 512).find? fun i => byteOn x.mask i && x.k.spPoison.contains ((a + i) / 128)).map (a + ·)

def runVld (x : VIn) : EngOut :=
  let a := x.t.imm.toNat
  { writes := writeDst x.t.dst.toNat x.mask (x.k.spRead a 512), late := x.poisoned a }
def runVst (x : VIn) : EngOut :=
  { writes := [.scratch x.t.imm.toNat (x.a.zipIdx.map fun e => if byteOn x.mask e.2 then some e.1 else none)] }

/-! Gate selection (R313–R315). -/

/-- FP32 lanes of `n` vector registers from one on. -/
def floatsFrom (k : Core) (reg n : Nat) : List Val :=
  (((upto reg n).map fun r => lanesOf 32 (k.vreg r)).flatten).map (decodeVal .fp32)

/-- Round to FP32 by RNE, gathering flags. -/
def rneAcc (v : Val × Flags) : Val × Flags :=
  let (w, f) := rneF32 v.1
  (w, f ||| v.2)

/-- The code of an FP32 value. -/
def f32Code (v : Val) : Nat := (roundFloat .fp32 .rne false 0 v).1

/-- What GATE selects and weighs (R314): expert numbers, their weights, flags. -/
def gateSelect (fn : Bool) (e k : Nat) (s b : List Val) (scale : Val) : List Nat × List Val × Flags :=
  let s := s.take e
  let p : List (Val × Flags) :=
    if fn then s.map fun v => rneAcc (sigmVal v)
    else
      let m := ((s.zipIdx.map fun x => (x.2, x.1)).foldl (fun (o : Val) x => if ranksAbove x.2 o then x.2 else o) .nan)
      let x := s.map fun v =>
        let d := rneAcc (addVal .rne v m.flip)
        let y := rneAcc (expVal false d.1)
        (y.1, y.2 ||| d.2)
      let z := (pieces 128 ((e + 127) / 128) x).foldl (fun z r =>
        let t := (treeRed (sumStep .rne) 7 (r ++ List.replicate (128 - r.length) (negZero, 0))).headD (negZero, 0)
        sumStep .rne z t) (negZero, (0 : Flags))
      x.map fun y =>
        let q := rneAcc (divVal y.1 z.1)
        (q.1, q.2 ||| y.2 ||| z.2)
  let q := (p.zip b).map fun x => rneAcc (addVal .rne x.1.1 x.2)
  let fl := (p.map (·.2) ++ q.map (·.2)).foldl (· ||| ·) (0 : Flags)
  let sel := pickBest k (q.zipIdx.map fun x => (x.2, x.1.1))
  let ps := sel.map fun i => (p.getD i (.nan, 0)).1
  let w : List (Val × Flags) :=
    if fn then
      let t := ps.foldl (fun a v => sumStep .rne a (v, 0)) (negZero, (0 : Flags))
      if t.1.isZero then ps.map fun _ => rneAcc (divVal scale (.num false k 0))
      else ps.map fun v =>
        let m := mulVal v scale
        let d := divVal m.1 t.1
        rneAcc (d.1, d.2 ||| m.2 ||| t.2)
    else ps.map fun v => rneAcc (mulVal v scale)
  (sel, w.map (·.1), (w.map (·.2)).foldl (· ||| ·) fl)

/-- E, k and FN of GATE (R313). -/
def gateE (aux : BitVec 16) : Nat := (bits aux 0 10).toNat + 1
def gateK (aux : BitVec 16) : Nat := (bits aux 10 5).toNat
def gateFn (aux : BitVec 16) : Bool := bits aux 15 1 = 1

/-- GATE (R314, R315). -/
def runGate (x : VIn) : EngOut :=
  let e := gateE x.t.aux
  let n := (e + 127) / 128
  let (sel, w, fl) := gateSelect (gateFn x.t.aux) e (gateK x.t.aux) (floatsFrom x.k x.t.sa.toNat n)
    (floatsFrom x.k x.t.sb.toNat n) (decodeVal .fp32 x.t.imm.toNat)
  { writes := writeAll x.t.dst.toNat (bytesOfLanes 32 (sel ++ List.replicate (128 - sel.length) (2 ^ 32 - 1))) ++
      writeAll x.t.sc.toNat (bytesOfLanes 32 (w.map f32Code ++ List.replicate (128 - w.length) 0))
    flags := fl }

/-! Logit processing (R316–R319). -/

/-- Bit `q` of 512 bytes. -/
def bitOf (l : List Byte) (q : Nat) : Bool := (l.getD (q / 8) 0).getLsbD (q % 8)

/-- VPEN (R316). -/
def runVpen (x : VIn) : EngOut :=
  let b := x.b
  let part := (bits x.t.aux 0 5).toNat
  let th := decodeVal .fp32 x.t.imm.toNat
  x.each1 fun i a =>
    if bitOf b (part * x.lanes + i) then
      let v := x.val a
      let r := if bits x.t.aux 5 1 = 1 then addVal x.rm v th.flip
        else if (Val.num false 0 0).lt v then divVal v th else mulVal v th
      let (c, f) := roundFloat x.fmt x.rm false 0 r.1
      (c, f ||| r.2)
    else (a, 0)

/-- VSBIAS (R317). -/
def runVsbias (x : VIn) : EngOut :=
  let b := lanesOf 32 x.b
  let n := (bits x.t.aux 0 7).toNat
  x.each1 fun i a =>
    (upto 0 n).foldl (fun (d : Nat × Flags) j =>
      if b.getD (2 * j) 0 = x.t.imm.toNat + i then
        let r := addVal x.rm (x.val d.1) (decodeVal .fp32 (b.getD (2 * j + 1) 0))
        let (c, f) := roundFloat x.fmt x.rm false 0 r.1
        (c, d.2 ||| f ||| r.2)
      else d) (a, 0)

/-- VBAN (R318). -/
def runVban (x : VIn) : EngOut :=
  let b := (lanesOf 32 x.b).take (bits x.t.aux 0 8).toNat
  x.each1 fun i a => (if b.contains (x.t.imm.toNat + i) then lowestCode x.fmt else a, 0)

/-- Does slot `s` of the stop strings end at byte `p` of the text (R319)? -/
def stopAt (text stops : List Byte) (p s : Nat) : Bool :=
  let l := (stops.getD (64 * s) 0).toNat
  decide (1 ≤ l ∧ l ≤ 63 ∧ l ≤ p + 1) && (text.drop (p + 1 - l)).take l = (stops.drop (64 * s + 1)).take l

/-- VMATCH (R319). -/
def runVmatch (x : VIn) : EngOut :=
  let m := Nat.min (x.a.getD 0 0).toNat 127
  let text := (x.k.source x.t.dst.toNat).drop m ++ (x.a.drop 1).take m
  let ends := (upto (512 - m) m).flatMap fun p => (upto 0 8).map fun s => (p, s)
  let hit := ends.find? fun e => stopAt text x.b e.1 e.2
  let r := match hit with
    | some (p, s) => [s, p + 1 - (512 - m), m]
    | none => [2 ^ 32 - 1, m, m]
  { writes := writeAll x.t.dst.toNat text ++ writeAll x.t.sc.toNat (bytesOfLanes 32 (r ++ List.replicate 125 0)) ++
      pdWrite x.t.aux hit.isSome }

/-! The special-function unit (R320, R321). -/

/-- Round a function's value lane by lane (R320); DZ is set for a zero input whatever SAT is (log 60). -/
def VIn.special (x : VIn) (f : Val → Val × Flags) : EngOut :=
  x.each1 fun i a =>
    let r := f (x.val a)
    let (c, g) := x.round x.fmt x.lanes i r.1
    (c, g ||| r.2)

def runVexp (x : VIn) : EngOut := x.special (expVal (bits x.t.aux 0 1 = 1))
def runVlog (x : VIn) : EngOut := x.special (logVal (bits x.t.aux 0 1 = 1))
def runVrcp (x : VIn) : EngOut := x.special rcpVal
def runVrsq (x : VIn) : EngOut := x.special rsqVal
def runVtanh (x : VIn) : EngOut := x.special tanhVal
def runVsigm (x : VIn) : EngOut := x.special sigmVal

end Sys2Proof.Machine
end

