-- ==== Sys2Proof/Machine/Strainer.lean ====
section
/-! DEFINITION. The strainer: gate sets, scoring, the choice of experts and the copies sent to the caddies; and the tag
store's lookup that it uses (13 R391–R394, 14 R405, R406, R411). -/

namespace Sys2Proof.Machine

/-! Keys and the tag store (14 R405, R406). -/

/-- Bits [33:12] of a key: model and layer. -/
def keyLayer (key : Nat) : Nat := key / 2 ^ 12
/-- The expert of a key. -/
def keyExpert (key : Nat) : Nat := key % 2 ^ 12

/-- The set of a key (R406). -/
def tagSet (key : Nat) : Nat := (nbits key 0 12 + 67 * nbits key 12 10 + 4093 * nbits key 22 12) % 4096

/-- The index of a key's entry. -/
def findTag (s : State) (key : Nat) : Option Nat :=
  (upto (16 * tagSet key) 16).find? fun i => match SMap.find s.cd.tags i with
    | some e => e.key = key
    | none => false

/-- An entry by index. -/
def State.tag (s : State) (i : Nat) : TagEnt := SMap.get { key := 0 } s.cd.tags i

/-- Change an entry. -/
def State.updTag (s : State) (i : Nat) (f : TagEnt → TagEnt) : State :=
  { s with cd := { s.cd with tags := SMap.put s.cd.tags i (f (s.tag i)) } }

/-! Losses (13 R400). -/

/-- An interface of a cluster. -/
def State.fi (s : State) (c : Nat) : Fi := (s.clusterAt c).fi

/-- Change an interface. -/
def State.updFi (s : State) (c : Nat) (f : Fi → Fi) : State := s.updCluster c fun x => { x with fi := f x.fi }

/-- Post MSG_LOSS for a job (R400). -/
def postLoss (job : Nat) : Act Unit := do
  let s ← get
  match jobEntryOf s job with
  | none => pure ()
  | some e => postEvent (s.jobAt e).region .msgLoss

/-- A cluster interface discards a message for want of a link: it is lost there, with one record for a run (R400). -/
def discardAt (c job : Nat) : Act Unit := do
  modify (lost job c)
  let s ← get
  if (s.fi c).lossRun.contains job then pure ()
  else
    postLoss job
    modify fun s => s.updFi c fun x => { x with lossRun := job :: x.lossRun }

/-- A cluster interface passes a message on: a run of discards ends (R400). -/
def passed (c job : Nat) (s : State) : State := s.updFi c fun x => { x with lossRun := x.lossRun.filter (· ≠ job) }

/-- Send a message packet from a cluster interface, or discard it (R383). -/
def sendFrom (c : Nat) (p : Packet) : Act Unit := do
  let s ← get
  match sendPacket p s with
  | some s => set (passed c p.job s)
  | none => discardAt c p.job

/-! Gate sets (R391, R392). -/

/-- A gate set. -/
def State.gate (s : State) (c i : Nat) : GateSet := SMap.get {} (s.fi c).sets i

/-- Change a gate set. -/
def State.updGate (s : State) (c i : Nat) (f : GateSet → GateSet) : State :=
  s.updFi c fun x => { x with sets := SMap.upd {} x.sets i f }

/-- Bytes of an element of a gate's format. -/
def gateZ (fmt : Nat) : Nat := if fmt = 0x9 then 1 else 2

/-- Bytes of SRAM that a set takes (R391). -/
def gateBytes (h e fmt : Nat) : Nat := h * e * gateZ fmt + 4 * e + 2 * e

/-- The lowest place where `n` bytes fit among the sets allocated (R391). -/
def gatePlace (x : Fi) (n : Nat) : Option Nat :=
  let used := (x.sets.filter fun e => e.2.len ≠ 0).map fun e => (e.2.off, e.2.len)
  let fits := fun a => decide (a + n ≤ 2 ^ 21) && used.all fun u => decide (a + n ≤ u.1 ∨ u.1 + u.2 ≤ a)
  ((0 :: used.map fun u => u.1 + u.2).filter fits).foldl (fun o a =>
    match o with
    | none => some a
    | some b => some (Nat.min a b)) none

/-- Read for a gate set, in pieces that stay within a page (01 R517). -/
def readSpan (x : Ctx) (va n : Nat) : Act (List Byte) := do
  let first := Nat.min n (0x1_0000 - va % 0x1_0000)
  let a ← readAs x va first
  let l ← collect (upto 0 ((n - first + 0xFFFF) / 0x1_0000)) fun i =>
    readAs x (va + first + i * 0x1_0000) (Nat.min 0x1_0000 (n - first - i * 0x1_0000))
  return a ++ l.flatten

/-- Is a descriptor in range (R391)? -/
def gateLegal (l : List Byte) : Bool :=
  let at_ := fun o n => ofBytes ((l.drop o).take n)
  let h := at_ 4 4
  let e := at_ 8 2
  let f := at_ 0xA 1
  let k := at_ 0xB 1
  nbits (at_ 0 4) 22 10 = 0 && h % 64 = 0 && decide (64 ≤ h ∧ h ≤ 8192 ∧ 1 ≤ e ∧ e ≤ 512) &&
  (nbits f 0 4 = 0x9 || nbits f 0 4 = 0xB) && nbits f 5 3 = 0 && decide (1 ≤ k ∧ k ≤ Nat.min 16 e) &&
  nbits (at_ 0xC 4) 23 8 ≠ 255 && at_ 0x28 24 = 0

/-- Read a gate set's descriptor and arrays (R391, R392); none where a field is out of range. -/
def readGate (x : Ctx) (va : Nat) : Act (Option GateSet) := do
  let l ← readSpan x va 64
  let at_ := fun o n => ofBytes ((l.drop o).take n)
  if !gateLegal l then return none
  else
    let h := at_ 4 4
    let e := at_ 8 2
    let fmt := nbits (at_ 0xA 1) 0 4
    let w ← readSpan x (at_ 0x10 8) (h * e * gateZ fmt)
    let b ← readSpan x (at_ 0x18 8) (4 * e)
    let r ← if at_ 0x20 8 = 0 then pure [] else readSpan x (at_ 0x20 8) (2 * e)
    let re := (pieces 2 e r).map ofBytes
    if at_ 0x20 8 ≠ 0 && re.any (fun i => decide (i > 4095)) then return none
    else
      let g : GateSet :=
      { layer := nbits (at_ 0 4) 0 12 * 2 ^ 10 + nbits (at_ 0 4) 12 10, h := h, e := e, fmt := fmt
        fn := nbits (at_ 0xA 1) 4 1 = 1, k := at_ 0xB 1, scale := BitVec.ofNat 32 (at_ 0xC 4), w := w, bias := b
        reroute := if at_ 0x20 8 = 0 then [] else re, va := va }
      return some g

/-- Does an accepted DISP still name the set (R392)? -/
def gateBusy (s : State) (c i : Nat) : Bool := (s.fi c).disps.any fun d => d.set = i

/-- Do something on a unit's own account: a fault leaves it undone and is answered; what it has to wait for is asked for
(02 R38, R51). -/
def unitTry {α : Type} (a : Act α) : Act (Except (Code × Nat) α) := do
  match ← attempt (portTry a) with
  | .ok r => return r
  | .error e =>
    askFor e
    waitFor .memory

/-- Change the state of a set's action (R392): 1 loads, or frees with `free`. -/
def gateAsk (c i : Nat) (a : GateAsk) (s : State) : State :=
  s.updGate c i fun g => { g with run := 1, ask := some a }

/-- GATE_SET_LOAD_REQ (R392): FI_GLOAD asks cluster `core` to load set `idx` from address `num` for region
`value`. -/
def execGateSetLoadReq (s : State) : Host.Outcome State Fault Refusal :=
  .next (gateAsk s.ev.core s.ev.idx { va := s.ev.num, region := s.ev.value.toNat, free := false } s)

/-- GATE_SET_FREE_REQ (R392). -/
def execGateSetFreeReq (s : State) : Host.Outcome State Fault Refusal :=
  .next (gateAsk s.ev.core s.ev.idx { va := s.ev.num, region := s.ev.value.toNat, free := true } s)

/-- Read a ready set's biases again, from where the descriptor at an address has them (R392). -/
def reloadBias (c i va region : Nat) : Act Unit := do
  let s ← get
  let g := s.gate c i
  if g.run ≠ 2 then pure ()
  else
    let x := (effRegion s region).ctx none
    match ← unitTry (do
        let l ← readSpan x va 64
        readSpan x (ofBytes ((l.drop 0x18).take 8)) (4 * g.e)) with
    | .ok b => modify fun s => s.updGate c i fun g => { g with bias := b }
    | .error (code, va) => postEvent region code va

/-- GATE_SET_BIAS_RELOAD (R392): FI_GLOAD asks cluster `core` to read the biases of set `idx` again, with the descriptor
address `num`, for region `value`. -/
def execGateSetBiasReload (s : State) : Host.Outcome State Fault Refusal :=
  event (fun _ => true) (reloadBias s.ev.core s.ev.idx s.ev.num s.ev.value.toNat) s

/-- GATE_SET_LOAD (R392): set `idx` of cluster `core`. -/
def execGateSetLoad (s : State) : Host.Outcome State Fault Refusal :=
  let c := s.ev.core
  let i := s.ev.idx
  match (s.gate c i).ask with
  | none => .next s
  | some a =>
    event (fun s => !a.free && !gateBusy s c i) (do
      modify fun s => s.updGate c i fun g => { g with off := 0, len := 0 }
      let s ← get
      match ← unitTry (readGate ((effRegion s a.region).ctx none) a.va) with
      | .ok (some g) =>
        let s ← get
        let n := gateBytes g.h g.e g.fmt
        match gatePlace (s.fi c) n with
        | some off => set (s.updGate c i fun _ => { g with run := 2, region := a.region, off := off, len := n })
        | none => set (s.updGate c i fun _ => { run := 3 })
      | .ok none => modify fun s => s.updGate c i fun _ => { run := 3 }
      | .error _ => modify fun s => s.updGate c i fun _ => { run := 3 }) s

/-- GATE_SET_FREE (R392): set `idx` of cluster `core`. -/
def execGateSetFree (s : State) : Host.Outcome State Fault Refusal :=
  let c := s.ev.core
  let i := s.ev.idx
  match (s.gate c i).ask with
  | none => .next s
  | some a => event (fun s => a.free && !gateBusy s c i) (modify fun s => s.updGate c i fun _ => {}) s

/-! Scoring (R394). -/

/-- Elements of a vector or a weight row. -/
def gateElems (fmt : Nat) (l : List Byte) : List Val :=
  (pieces (gateZ fmt) (l.length / gateZ fmt) l).map fun b => decodeVal ((fmtOf fmt).getD .bf16) (ofBytes b)

/-- The FP32 scores of a vector (R394): exact sums, rounded once. -/
def gateScores (g : GateSet) (x : List Byte) : List Val :=
  let v := gateElems g.fmt x
  (pieces (g.h * gateZ g.fmt) g.e g.w).map fun row =>
    let sum := (v.zip (gateElems g.fmt row)).foldl (fun a p => (addVal .rne a (mulVal p.1 p.2).1).1) (Val.num true 0 0)
    (rneF32 sum).1

/-- The experts that the selection chooses, `n` of them at most, and the weights of the first `k` (R394, 10 R314). -/
def gateChoice (g : GateSet) (x : List Byte) (n : Nat) : List Nat × List Val :=
  let s := gateScores g x
  let b := (pieces 4 g.e g.bias).map fun x => decodeVal .fp32 (ofBytes x)
  let scale := decodeVal .fp32 g.scale.toNat
  ((gateSelect g.fn g.e n s b scale).1, (gateSelect g.fn g.e g.k s b scale).2.1)

/-- The expert that a choice stands for after reroute (R391). -/
def GateSet.expert (g : GateSet) (i : Nat) : Nat := if g.reroute.isEmpty then i else g.reroute.getD i 0

/-- The device of the replica that serves a key (R394). -/
def replicaOf (s : State) (key : Nat) : Nat :=
  match findTag s key with
  | none => s.devId
  | some i =>
    let l := (s.tag i).reps.take (s.tag i).nrep
    if l.isEmpty || l.contains s.devId then s.devId
    else (l.foldl (fun o d =>
      match o with
      | none => some d
      | some e => if routeHops s d < routeHops s e || (routeHops s d = routeHops s e && decide (d < e)) then some d else some e)
      none).getD s.devId

/-- A live choice: key, device, weight, mask. -/
structure Choice4 where
  key : Nat
  dev : Nat
  w : Val
  mask : Nat
  deriving DecidableEq, Repr

/-- Merge a later choice into the first live one with its key and device (R394). -/
def mergeChoice : List Choice4 → Choice4 → List Choice4
  | [], x => [x]
  | y :: r, x =>
    if y.key = x.key ∧ y.dev = x.dev then { y with w := (rneF32 (addVal .rne y.w x.w).1).1, mask := y.mask ||| x.mask } :: r
    else y :: mergeChoice r x

/-- ALT of a token: the four choices after the first k, with their valid bits (14 R411). -/
def altWord (g : GateSet) (sel : List Nat) : Nat :=
  let l := ((sel.drop g.k).take 4).zipIdx
  (l.map fun e => g.expert e.1 * 2 ^ (12 * e.2) + 2 ^ (48 + e.2)).sum

/-- The header of a saucer slot (14 R411), SERVED 0. -/
def slotHeader (m : CopyMsg) : List Byte :=
  bytesOf 4 m.token ++ bytesOf 4 m.seqId ++ bytesOf 4 m.weight.toNat ++ bytesOf 2 m.mask ++ bytesOf 2 (m.job % 2 ^ 12) ++
  bytesOf 8 m.handle.toNat ++ bytesOf 8 m.alt.toNat ++ bytesOf 32 0

/-- Send a copy to the caddy of a device (R394); between devices it travels as its slot's header and vector (log 23). -/
def emitCopy (c dev core : Nat) (m : CopyMsg) : Act Unit := do
  modify (injected m.job c)
  let s ← get
  if dev = s.devId then set (passed c m.job { s with cd := { s.cd with arrivals := s.cd.arrivals ++ [m] } })
  else sendFrom c { dst := dev, src := s.devId, kind := 2, job := m.job, core := core, target := m.handle.toNat, special := m.key
                    data := slotHeader m ++ m.vec }

/-- Score one token with vector `x` and emit its copies (R394). -/
def scoreToken (c : Nat) (d : Disp) (x : List Byte) : Act Unit := do
  let s ← get
  let g := s.gate c d.set
  let (sel, w) := gateChoice g x (Nat.min (g.k + 4) g.e)
  let ch := ((sel.take g.k).zip w).zipIdx.map fun e =>
    let key := g.layer * 2 ^ 12 + g.expert e.1.1
    { key := key, dev := replicaOf s key, w := e.1.2, mask := 2 ^ e.2 : Choice4 }
  let alt := altWord g sel
  let off := (bits d.handle 0 21).toNat + 64 * d.rstride * d.next
  each (ch.foldl mergeChoice []) fun y => emitCopy c y.dev d.core
    { key := y.key, vec := x, token := (d.first + d.next) % 2 ^ 32, seqId := d.seqId, weight := BitVec.ofNat 32 (f32Code y.w)
      mask := y.mask, alt := BitVec.ofNat 64 alt, handle := BitVec.ofNat 64 (setNbits d.handle.toNat 0 21 off), job := d.job
      srcDev := s.devId, srcCluster := c }
  modify fun s => if s.cd.steep.isNone && ((SMap.find s.cd.layers g.layer).any fun l => l.nxv) then
      { s with cd := { s.cd with steep := some (g.layer, x) } } else s

/-- The vector of the next token of a DISP. -/
def tokenVec (c : Nat) (d : Disp) : Act (List Byte) := do
  let s ← get
  let g := s.gate c d.set
  let n := g.h * gateZ g.fmt
  spFetch d.core (d.off + d.next * n) n

/-- A DISP of a cluster is over: it is consumed (R385). -/
def endDisp (c : Nat) (d : Disp) (s : State) : State :=
  consumed d.job c (s.updFi c fun x => { x with disps := x.disps.drop 1 })

/-- A fault on a token's vector ends the issuing tile as one of a running copy does (12 R377; log 41). -/
def dispFault (c : Nat) (d : Disp) (code : Code) (va : Nat) : Act Unit := do
  modify (endDisp c d)
  let s ← get
  if (s.coreOf d.core).tile.any fun t => t.dispatched = d.tile then escalateTile d.core code.num 0 va d.pc else pure ()

/-- TOKEN_SCORE (R394): the next token of the oldest DISP of cluster `core`. -/
def execTokenScore (s : State) : Host.Outcome State Fault Refusal :=
  let c := s.ev.core
  match (s.fi c).disps with
  | [] => .next s
  | d :: r =>
    event (fun _ => true) (do
      match ← attempt (tokenVec c d) with
      | .ok x =>
        scoreToken c d x
        if d.next + 1 < d.n then modify fun s => s.updFi c fun x => { x with disps := { d with next := d.next + 1 } :: r }
        else modify (endDisp c d)
      | .error (.trap code va) => dispFault c d code va
      | .error (.held asid page va) =>
        let s ← get
        if flipFailed s asid page then
          dropFlip asid page
          dispFault c d .hostOwned va
        else modify (requestFlip asid page)
      | .error e => askFor e) s

end Sys2Proof.Machine
end

