-- ==== Sys2Proof/Machine/Fabric.lean ====
section
/-! DEFINITION. CTL's fabric commands: MSEND, DISP, CMB, QWAIT, QREAD (13 R387–R402). -/

namespace Sys2Proof.Machine

/-! MSEND.P (R387, R388). -/

/-- Fields of a PUT's target (R387). -/
def putDev (t : DWord) : Nat := (bits t 16 8).toNat
def putCore (t : DWord) : Nat := (bits t 8 7).toNat
def putWin (t : DWord) : Nat := (bits t 0 5).toNat
def putSem (t : DWord) : Nat := (bits t 32 5).toNat
def putReserved (t : DWord) : Bool := bits t 37 27 ≠ 0 || bits t 24 8 ≠ 0 || bits t 15 1 ≠ 0 || bits t 5 3 ≠ 0

/-- Count an accepted message in its job and go on. -/
def acceptMsg (c job : Nat) : Act Unit := do
  modify (injected job (clusterOf c))
  modify fun s => s.advance c .ctl 8

/-- The packet of a PUT to another device: entry number and SEMEN in the kind-specific doubleword (log 23). -/
def putPacket (s : State) (c : Nat) (p : PutAsk) (entry : Nat) (l : List Byte) : Packet :=
  { dst := p.dev.getD 0, src := s.devId, kind := 0, job := p.job.getD 0, core := c
    target := p.win + p.core * 2 ^ 8 + p.dev.getD 0 * 2 ^ 16 + p.sem.getD 0 * 2 ^ 32
    special := entry % 2 ^ 32 + (if p.sem.isSome then 2 ^ 32 else 0), data := l }

/-- Try the grant of an MSEND.P, and once it has one read the source and accept the command (R388): `far` is the entry
that another device has granted. -/
def trySend (c : Nat) (p : PutAsk) (far : Option Nat) : Act Unit := do
  let t ← tileOf c
  let s ← get
  let dev := p.dev.getD s.devId
  let job := p.job.getD 0
  let far := far.or (s.coreOf c).ctl.granted
  if dev = s.devId then
    if mqFree s t.reg.id p.core p.win then
      let l ← source c p none
      let s ← get
      let esz := ((SMap.find (s.coreOf p.core).windows p.win).map (·.mq.esz)).getD 0
      let (x, s) := takeSent dev c s
      set (mqTake p.core p.win (fun n => { s := n, data := some (entryBytes esz l), sem := p.sem, job := some job, sent := some x }) s)
      modify (passed (clusterOf c) job)
      acceptMsg c job
    else waitSend c p
  else if routeLinks s dev = 0 then
    let _ ← source c p none
    acceptMsg c job
    discardAt (clusterOf c) job
  else
    match far with
    | some n =>
      let l ← source c p (some n)
      let s ← get
      acceptMsg c job
      sendFrom (clusterOf c) (putPacket s c p n l)
    | none => waitSend c p
where
  /-- Read the source with the grant in hand. -/
  source (c : Nat) (p : PutAsk) (far : Option Nat) : Act (List Byte) := do
    modCoreAt c fun k => k.updSeq .ctl fun x => { x with grantSince := none, put := none, granted := far }
    spLoad c p.src p.size
  /-- Wait for the grant, up to ST_MQBOUND clocks (R388). -/
  waitSend (c : Nat) (p : PutAsk) : Act Unit := do
    let s ← get
    let x := (s.coreOf c).ctl
    if x.grantSince.isSome && decide (clocksSince s.cycle x.grantSince ≥ mqBoundOf (s.coreOf c)) then trap .mqFullTimeout
    else
      modCoreAt c fun k => k.updSeq .ctl fun x => { x with grantSince := some (x.grantSince.getD s.cycle), put := some p }
      waitFor .object

/-- MSEND.P (R387, R388). -/
def execMsendP (o : Cmd) (s : State) : Host.Outcome State Fault Refusal :=
  plain .ctl (.msendP o) (do
    let s ← get
    let k ← thisCore
    let tile ← tileOf s.core
    let t := k.sreg o.a.toNat
    let a := (k.sreg (o.a.toNat + 1)).toNat
    let size := 64 * 2 ^ (bits o.f8 2 3).toNat
    let semen := bits o.f8 1 1 = 1
    trapLowest [(putReserved t || (!semen && putSem t ≠ 0), .reservedField, 0), (a % 64 ≠ 0, .align, a),
      (outsideSp tile a size, .scratchRange, a)]
    trySend s.core
      { core := putCore t, win := putWin t, src := a, size := size, sem := if semen then some (putSem t) else none
        dev := some (putDev t), job := some (bits o.imm 0 12).toNat } none) s

/-! MSEND.H (R387, R389). -/

/-- Accept a HANDLER message, or wait for an inbox entry: `far` says that another device has granted one. -/
def tryHand (c : Nat) (h : HandAsk) (far : Bool) : Act Unit := do
  let s ← get
  if h.dev = s.devId then
    if (s.fi h.cluster).inbox.length + (s.fi h.cluster).promised < 256 then
      let (y, s) := takeSent h.dev c s
      set (passed (clusterOf c) h.job (s.updFi h.cluster fun x => { x with inbox := x.inbox ++ [⟨h.hidx, h.pay, h.job, some y⟩] }))
      acceptMsg c h.job
    else waitHand c h
  else if routeLinks s h.dev = 0 then
    acceptMsg c h.job
    discardAt (clusterOf c) h.job
  else if far then
    acceptMsg c h.job
    sendFrom (clusterOf c)
      { dst := h.dev, src := s.devId, kind := 1, job := h.job, core := c
        target := h.hidx + h.cluster * 2 ^ 8 + h.dev * 2 ^ 16, data := (h.pay.map fun x => bytesOf 8 x.toNat).flatten }
  else waitHand c h
where
  /-- Wait without bound (R389). -/
  waitHand (c : Nat) (h : HandAsk) : Act Unit := do
    modCoreAt c fun k => k.updSeq .ctl fun x => { x with hand := some h }
    waitFor .object

/-- MSEND.H (R387, R389). CTL that waits for an inbox grant shows code 4 (05 R163; log 19). -/
def execMsendH (o : Cmd) (s : State) : Host.Outcome State Fault Refusal :=
  plain .ctl (.msendH o) (do
    let s ← get
    let k ← thisCore
    let t := k.sreg o.a.toNat
    trapIf (bits t 24 40 ≠ 0 || bits t 12 4 ≠ 0 || bits t 6 2 ≠ 0) .reservedField
    tryHand s.core
      { dev := (bits t 16 8).toNat, cluster := (bits t 8 4).toNat, hidx := (bits t 0 6).toNat
        pay := (upto 1 4).map fun i => k.sreg (o.a.toNat + i), job := (bits o.imm 0 12).toNat } false) s

/-! DISP (R393). -/

/-- The conditions of DISP that no gate set decides. -/
def dispReserved (k : Core) (a : Nat) : Bool :=
  let v := k.sreg (a + 1)
  let h := k.sreg (a + 3)
  bits v 48 16 ≠ 0 || bits v 12 20 ≠ 0 || bits v 6 2 ≠ 0 || bits h 56 8 ≠ 0 || bits h 47 1 ≠ 0 || bits h 21 19 ≠ 0 ||
  (upto 0 ((bits v 0 6).toNat + 1)).any fun i => decide ((bits h 0 21).toNat + 64 * (bits v 32 16).toNat * i ≥ 0x20_0000)

/-- DISP (R393). CTL that waits for a gate set shows code 4 (05 R163; log 19). -/
def execDisp (o : Cmd) (s : State) : Host.Outcome State Fault Refusal :=
  plain .ctl (.disp o) (do
    let s ← get
    let k ← thisCore
    let t ← tileOf s.core
    let a := o.a.toNat
    let v := k.sreg (a + 1)
    let h := k.sreg (a + 3)
    let q := k.sreg (a + 2)
    let off := (k.sreg a).toNat
    let c := clusterOf s.core
    let set_ := (bits v 8 4).toNat
    let n := (bits v 0 6).toNat + 1
    let g := s.gate c set_
    let job := (bits o.imm 0 12).toNat
    trapIf (dispReserved k a || g.run = 0 || g.run = 3) .reservedField
    if g.run = 1 then waitFor .object
    else
      trapLowest [(off % 64 ≠ 0 || (bits h 0 21).toNat % 64 ≠ 0, .align, if off % 64 ≠ 0 then off else (bits h 0 21).toNat),
        (outsideSp t off (n * g.h * gateZ g.fmt), .scratchRange, off)]
      modify fun s => s.updFi c fun x => { x with disps := x.disps ++
        [{ core := s.core, off := off, n := n, set := set_, rstride := (bits v 32 16).toNat, seqId := (bits q 32 32).toNat
           first := (bits q 0 32).toNat, handle := h, job := job, pc := k.ctl.pc.toNat, tile := t.dispatched }] }
      acceptMsg s.core job) s

/-! CMB (R395, R396). -/

/-- Formats of rows and results: 0x9, 0xB, 0xC and 0xD (R395). -/
def combFmt (f : Nat) : Option Fmt := if f = 0x9 ∨ f = 0xB ∨ f = 0xC ∨ f = 0xD then fmtOf f else none

/-- Bytes of an element. -/
def combZ (f : Nat) : Nat := ((combFmt f).map fun x => x.width / 8).getD 0

/-- P: bytes of a staged row (R395). -/
def rowStride (h f : Nat) : Nat := (h * combZ f + 63) / 64 * 64

/-- H is legal (R395). -/
def combH (h : Nat) : Bool := h % 64 = 0 && decide (64 ≤ h ∧ h ≤ 8192)

/-- The handle's device, core and record offset (R393). -/
def handleDev (h : DWord) : Nat := (bits h 48 8).toNat
def handleCore (h : DWord) : Nat := (bits h 40 7).toNat
def handleOff (h : DWord) : Nat := (bits h 0 21).toNat

/-- A CMB message or notice as a packet: weight, mask, FY, notice and RN in the kind-specific doubleword (log 23). -/
def combPacket (s : State) (m : CombMsg) : Packet :=
  { dst := handleDev m.handle, src := s.devId, kind := 3, job := m.job, core := m.srcCore.getD 0, target := m.handle.toNat
    special := m.weight.toNat + m.mask % 2 ^ 16 * 2 ^ 32 + m.fy % 16 * 2 ^ 48 + (if m.row.isNone then 2 ^ 52 else 0) +
      (if m.rn then 2 ^ 53 else 0) + (if m.srcCore.isNone then 2 ^ 54 else 0)
    data := m.row.getD [] }

/-- Send a CMB message or a drop notice from a cluster's interface (R396, 14 R425). -/
def sendComb (c : Nat) (m : CombMsg) : Act Unit := do
  modify (injected m.job c)
  let s ← get
  if handleDev m.handle = s.devId then set (passed c m.job (arriveComb m s))
  else sendFrom c (combPacket s m)

/-- The message of one saucer slot and output row (R396). -/
def combRow (c : Nat) (t : Tile) (saucer slot row fy h : Nat) : Act CombMsg := do
  let x := t.reg.ctx none
  let hd ← readAs x (saucer + 0x10) 2
  let l ← readSpan x (saucer + 256 + slot * ofBytes hd) 64
  let y ← spLoad c row (h * combZ fy)
  let at_ := fun o n => ofBytes ((l.drop o).take n)
  let s ← get
  return { handle := BitVec.ofNat 64 (at_ 0x10 8), weight := BitVec.ofNat 32 (at_ 8 4), mask := at_ 0xC 2, fy := fy, h := h
           row := some y, job := nbits (at_ 0xE 2) 0 12, srcDev := s.devId, srcCore := some c }

/-- The rows of a CMB up to the first that faults. A page that has to be flipped is waited for, until the flip has failed
(02 R38). -/
def combRows (c : Nat) (t : Tile) (saucer first out fy h : Nat) : Nat → Nat → Act (List CombMsg × Option (Code × Nat))
  | 0, _ => return ([], none)
  | n + 1, r => do
    match ← attempt (combRow c t saucer (first + r) (out + r * rowStride h fy) fy h) with
    | .ok m =>
      let l ← combRows c t saucer first out fy h n (r + 1)
      return (m :: l.1, l.2)
    | .error (.trap code va) => return ([], some (code, va))
    | .error (.held asid page va) =>
      let s ← get
      if flipFailed s asid page then
        dropFlip asid page
        return ([], some (.hostOwned, va))
      else
        modify (requestFlip asid page)
        waitFor .memory
    | .error e => throw e

/-- CMB (R396). -/
def execCmb (o : Cmd) (s : State) : Host.Outcome State Fault Refusal :=
  plain .ctl (.cmb o) (do
    let s ← get
    let k ← thisCore
    let t ← tileOf s.core
    let a := o.a.toNat
    let v := k.sreg a
    let w := k.sreg (a + 1)
    let out := (k.sreg (a + 2)).toNat
    let fy := (bits o.f8 0 4).toNat
    let n := (bits w 0 7).toNat
    let h := (bits w 16 14).toNat
    let p := rowStride h fy
    trapLowest [(bits v 48 6 ≠ 0 || bits w 7 9 ≠ 0 || bits w 30 34 ≠ 0 || decide (n > 64) || !combH h, .reservedField, 0),
      (out % 64 ≠ 0, .align, out),
      (decide (0 < n) && outsideSp t out ((n - 1) * p + h * combZ fy), .scratchRange, out)]
    let saucer := (bits v 0 48).toNat * 256
    let r ← combRows s.core t saucer (bits v 54 10).toNat out fy h n 0
    each r.1 fun m => sendComb (clusterOf s.core) m
    match r.2 with
    | none => advance .ctl 8
    | some (code, va) => escalateTile s.core code.num 0 va k.ctl.pc.toNat) s

/-! QWAIT and QREAD (R401, R402). -/

/-- Write QWAIT's result and predicate and go on. -/
def qwaitDone (o : Cmd) (v : DWord) (p : Bool) : Act Unit := do
  modCore fun k => (k.setS o.d.toNat v).setP (bits o.f8 0 5).toNat p
  advance .ctl 8

/-- QWAIT (R401). What a wave or the limit has brought stands in the sequencer's answer. Whether the job is in the table is
asked once, as the wait begins. CTL that waits shows code 4 (05 R163; log 19). -/
def execQwait (o : Cmd) (s : State) : Host.Outcome State Fault Refusal :=
  plain .ctl (.qwait o) (do
    let s ← get
    let k ← thisCore
    let job := (bits o.imm 0 12).toNat
    match k.ctl.remote with
    | some (.done l) => qwaitDone o (BitVec.ofNat 64 (ofBytes (l.take 6))) (ofBytes (l.drop 6) ≠ 0)
    | some (.failed _) => qwaitDone o (0 - 1) false
    | _ =>
      if k.ctl.qwait.isNone && (jobEntryOf s job).isNone then qwaitDone o (0 - 2) false
      else
        let limit := (k.sreg o.a.toNat).toNat
        let since := k.ctl.grantSince.getD s.cycle
        if limit ≠ 0 && decide (since + limit ≤ s.cycle) then qwaitDone o (0 - 1) false
        else
          modCore fun k => k.updSeq .ctl fun x => { x with grantSince := some since, qwait := some (job, limit) }
          waitFor .object) s

/-- QREAD's value (R402). -/
def qreadValue (s : State) (job item ifc : Nat) : Nat :=
  match jobEntryOf s job with
  | none => 0
  | some e =>
    let n := countsOf s e ifc
    let j := s.jobAt e
    match item with
    | 0 => n.inj
    | 1 => n.cons
    | 2 => n.lost
    | 3 => j.number % 2 ^ 48 + (if j.lossSeen then 2 ^ 62 else 0) + (if j.quiet then 2 ^ 63 else 0)
    | 4 => j.i
    | 5 => j.c
    | _ => j.l

/-- QREAD (R402). -/
def execQread (o : Cmd) (s : State) : Host.Outcome State Fault Refusal :=
  plain .ctl (.qread o) (do
    let s ← get
    modCore fun k => k.setS o.d.toNat
      (BitVec.ofNat 64 (qreadValue s (bits o.imm 0 12).toNat (bits o.imm 12 4).toNat (bits o.imm 16 5).toNat))
    advance .ctl 8) s

end Sys2Proof.Machine
end

