-- ==== Sys2Proof/Machine/LinkEvents.lean ====
section
/-! DEFINITION. What happens at the Shagean links: flits, retries, resets, packets, and memory requests between devices
(13 R380–R385, R400; 02 R51). -/

namespace Sys2Proof.Machine

/-! Flits (R381, R382). -/

/-- Interface number of a link in a job's counts (R402). -/
def linkIfc (i : Nat) : Nat := 16 + i

/-- Take an acknowledgement: what it covers leaves the replay buffer. The packets acknowledged whole come with it. -/
def ackUpTo (cycle a : Nat) (x : Link) : Link × List OutPkt :=
  match x.replay.findIdx? fun f => f.seq = a with
  | none => (x, [])
  | some i =>
    let rest := x.replay.drop (i + 1)
    let whole := fun (p : OutPkt) => p.last.any fun l => !rest.any fun f => f.seq = l
    ({ x with replay := rest, progress := cycle, out := x.out.filter fun p => !whole p }, x.out.filter whole)

/-- Packets that the far end has received whole: their messages are consumed at the link (R385). -/
def countAcked (i : Nat) (l : List OutPkt) (s : State) : State :=
  l.foldl (fun s p =>
    let q := packetOf p.bytes
    if q.isMessage then consumed q.job (linkIfc i) s else s) s

/-- Put waiting packets of a link into flits. -/
def pumpAt (i : Nat) (s : State) : State := s.updLink i fun x => pumpLink s.cycle x.out.length x

/-- Take payload bytes of a channel: a packet that is whole waits to be delivered. -/
def takePayload (chan : Nat) (l : List Byte) (x : Link) : Link :=
  let b := SMap.get [] x.rx chan ++ l
  let n := 32 + ofBytes ((b.drop 16).take 4)
  if b.length ≥ 32 ∧ b.length ≥ n then
    { x with rx := SMap.erase x.rx chan, pkts := x.pkts ++ [(chan, b.take n)] }
  else { x with rx := SMap.put x.rx chan b }

/-- The flit's CRC is right (R381). -/
def flitGood (l : List Byte) : Bool := l.length = 128 && ofBytes (l.drop 124) = crc32c (l.take 124)

/-- SHAGEAN_FLIT_RECEIVE (R382): flit `bytes` reaches link `idx`. -/
def execShageanFlitReceive (s : State) : Host.Outcome State Fault Refusal :=
  let i := s.ev.idx
  let l := s.ev.bytes
  let w := ofBytes ((l.drop 120).take 2)
  let ack := nbits (ofBytes ((l.drop 122).take 2)) 0 12
  event (fun s => (s.link i).run = 2) (modify fun s =>
    let x := s.link i
    if !flitGood l || nbits w 0 12 ≠ x.rxNext then s.updLink i fun x => { x with nak := some x.rxNext }
    else
      let (y, done) := ackUpTo s.cycle ack x
      let y := { y with rxNext := (x.rxNext + 1) % 2 ^ 12, nak := none }
      let y := if nbits w 14 2 = 0 then takePayload (nbits w 12 2) (l.take 120) y else y
      pumpAt i (countAcked i done (s.updLink i fun _ => y))) s

/-- A link resets and trains again (R382): what it has of unfinished packets is discarded. -/
def resetLink (i : Nat) (s : State) : State :=
  s.updLink i fun x => { x with run := 1, resets := (x.resets + 1) % 2 ^ 16, rx := [], nak := none, resync := true }

/-- RETRY_MAX; 0 acts as 1 (R403). -/
def retryMaxOf (s : State) : Nat := Nat.max 1 s.fab.retryMax

/-- SHAGEAN_GO_BACK (R382): the far end of link `idx` asks for flit `num` again. -/
def execShageanGoBack (s : State) : Host.Outcome State Fault Refusal :=
  let i := s.ev.idx
  let named := fun (f : Flit) => f.seq = s.ev.num
  event (fun s => (s.link i).run = 2 && (s.link i).replay.any named) (modify fun s =>
    let x := s.link i
    let kept := x.replay.takeWhile fun f => !named f
    let again := (x.replay.drop kept.length).map fun f => { f with resent := f.resent + 1 }
    let s := s.updLink i fun x => { x with replay := kept ++ again, retries := (x.retries + again.length) % 2 ^ 32 }
    if again.any fun f => decide (f.resent ≥ retryMaxOf s) then resetLink i s else s) s

/-- LINK_ACK_TIMEOUT (R382): link `idx`. -/
def execLinkAckTimeout (s : State) : Host.Outcome State Fault Refusal :=
  let i := s.ev.idx
  event (fun s => let x := s.link i
      x.run = 2 && !x.replay.isEmpty && decide (x.progress + s.fab.resetClk ≤ s.cycle)) (modify (resetLink i)) s

/-- Post one MSG_LOSS for each of these jobs (R400). -/
def postLosses (jobs : List Nat) : Act Unit := each jobs.eraseDups postLoss

/-- LINK_RESYNC (R382, R384): the far end of link `idx` has received `num` of the packets sent and not acknowledged. A
message among the others is lost; requests and responses are sent again. -/
def execLinkResync (s : State) : Host.Outcome State Fault Refusal :=
  let i := s.ev.idx
  event (fun s => (s.link i).run = 2 && (s.link i).resync) (do
    let s ← get
    let x := s.link i
    let sent := x.out.filter fun p => p.last.isSome
    let rest := sent.drop s.ev.num
    let gone := (rest.map fun p => packetOf p.bytes).filter Packet.isMessage
    let again := (rest.filter fun p => !(packetOf p.bytes).isMessage).map fun p => { p with last := none }
    let s := countAcked i (sent.take s.ev.num) s
    let s := gone.foldl (fun s p => lost p.job (linkIfc i) s) s
    set (s.updLink i fun x => { x with
      out := again ++ x.out.filter fun p => p.last.isNone
      replay := [], txSeq := 0, rxNext := 0, resync := false })
    modify (pumpAt i)
    postLosses (gone.map (·.job))) s

/-! Packets (R381, R383–R385). -/

/-- A copy from its packet (log 23). -/
def copyOfPacket (p : Packet) : CopyMsg :=
  let at_ := fun o n => ofBytes ((p.data.drop o).take n)
  { key := p.special, vec := p.data.drop 64, token := at_ 0 4, seqId := at_ 4 4, weight := BitVec.ofNat 32 (at_ 8 4)
    mask := at_ 12 2, alt := BitVec.ofNat 64 (at_ 24 8), handle := BitVec.ofNat 64 (at_ 16 8), job := p.job
    srcDev := p.src, srcCluster := clusterOf p.core }

/-- A CMB message or notice from its packet (log 23). -/
def combOfPacket (p : Packet) : CombMsg :=
  let fy := nbits p.special 48 4
  let notice := nbits p.special 52 1 = 1
  { handle := BitVec.ofNat 64 p.target, weight := BitVec.ofNat 32 p.special, mask := nbits p.special 32 16, fy := fy
    h := if combZ fy = 0 then 0 else p.data.length / combZ fy
    row := if notice then none else some p.data, rn := nbits p.special 53 1 = 1, job := p.job, srcDev := p.src
    srcCore := if nbits p.special 54 1 = 1 then none else some p.core }

/-- Put a PUT's bytes into the entry that was granted to it; where the window has gone the message is consumed
(R385, 08 R256). -/
def arrivePut (p : Packet) (s : State) : State :=
  let core := nbits p.target 8 7
  let win := nbits p.target 0 5
  let mine := fun (m : MqMsg) => m.s % 2 ^ 32 = nbits p.special 0 32 && m.data.isNone
  match SMap.find (s.coreOf core).windows win with
  | none => consumed p.job (clusterOf core) s
  | some w =>
    if w.mq.msgs.any mine then
      let data := (p.data.take w.mq.esz) ++ bytesOf (w.mq.esz - p.data.length) 0
      let (x, s) := takeSent p.src p.core s
      setMq core win (fun q => { q with msgs := q.msgs.map fun m => if mine m then { m with
        data := some data, job := some p.job, sent := some x
        sem := if nbits p.special 32 1 = 1 then some (nbits p.target 32 5) else none } else m }) s
    else consumed p.job (clusterOf core) s

/-- Put a HANDLER message into its inbox (R389). -/
def arriveHandler (p : Packet) (s : State) : State :=
  let pay := (pieces 8 4 p.data).map fun x => BitVec.ofNat 64 (ofBytes x)
  let (y, s) := takeSent p.src p.core s
  s.updFi (nbits p.target 8 4) fun x => { x with
    promised := x.promised - 1, inbox := x.inbox ++ [⟨nbits p.target 0 6, pay, p.job, some y⟩] }

/-- The answer to a request: KIND 5, its status and data (log 23): 0 performed, 1 refused, 2 poison, 3 no link. -/
def answerPacket (s : State) (src tag status : Nat) (data : List Byte) : Packet :=
  { dst := src, src := s.devId, kind := 5, tag := tag, special := status, data := data }

/-- Deliver a packet for this device; one whose kind is reserved is discarded (R381). -/
def deliver (i : Nat) (p : Packet) (s : State) : State :=
  match p.kind with
  | 0 => arrivePut p s
  | 1 => arriveHandler p s
  | 2 => { s with cd := { s.cd with arrivals := s.cd.arrivals ++ [copyOfPacket p] } }
  | 3 => arriveComb (combOfPacket p) s
  | 4 => { s with fab := { s.fab with peerIn := s.fab.peerIn ++ [⟨p.src, p.tag, i, p.bytes, none⟩] } }
  | 5 => { s with fab := { s.fab with peerAnswers := s.fab.peerAnswers ++ [⟨p.src, p.tag, i, p.bytes, none⟩] } }
  | _ => consumed p.job (linkIfc i) s

/-- Send a packet on toward its device (R383): a message without a link is lost here, a request is answered so. -/
def forward (i : Nat) (p : Packet) : Act Unit := do
  let s ← get
  match sendPacket p s with
  | some s => set s
  | none =>
    if p.isMessage then
      set (lost p.job (linkIfc i) s)
      postLoss p.job
    else if p.kind = 4 then set ((sendPacket (answerPacket s p.src p.tag 3 []) s).getD s)
    else pure ()

/-- SHAGEAN_PACKET_RECEIVE (R381, R383): the oldest whole packet of channel `num` at link `idx`. -/
def execShageanPacketReceive (s : State) : Host.Outcome State Fault Refusal :=
  let i := s.ev.idx
  let mine := fun (e : Nat × List Byte) => e.1 = s.ev.num
  match (s.link i).pkts.find? mine with
  | none => .next s
  | some e =>
    let p := packetOf e.2
    event (fun _ => true) (do
      modify fun s => s.updLink i fun x =>
        { x with pkts := (x.pkts.takeWhile fun y => !mine y) ++ (x.pkts.dropWhile fun y => !mine y).drop 1 }
      modify fun s => if p.isMessage then injected p.job (linkIfc i) s else s
      if p.dst = s.devId || decide (p.kind > 5) then modify (deliver i p) else forward i p) s

/-! Memory requests from peers (R384, 02 R51). -/

/-- A window covers a range, and allows writes where they are asked for (R384). -/
def windowAllows (s : State) (addr n : Nat) (write : Bool) : Bool :=
  (upto 0 16).any fun i =>
    let b := SMap.get (0 : DWord) s.fab.wbase i
    let l := SMap.get (0 : DWord) s.fab.wlim i
    bits b 63 1 = 1 && (!write || bits b 62 1 = 1) && decide ((bits b 16 23).toNat * 2 ^ 16 ≤ addr) &&
      decide (addr + n ≤ (bits l 16 23).toNat * 2 ^ 16)

/-- Perform a peer's request: its status and the data that goes back (R384). Poison read is answered as such
(02 R71). -/
def performPeer (p : Packet) : Act (Nat × List Byte) := do
  let s ← get
  let op := nbits p.special 0 8
  let n := nbits p.special 16 32
  let a := p.target
  if !windowAllows s a n (op ≠ 0) || decide (a + n > Config.memBytes) then return (1, [])
  else if op ≠ 1 && (upto (a / 128) ((a + n + 127) / 128 - a / 128)).any s.m.poison.contains then return (2, [])
  else
    match op with
    | 0 => return (0, s.m.readN a n)
    | 1 =>
      set (writeUnstamped none (placed a p.data) s)
      return (0, [])
    | _ =>
      let old := s.m.readNat a n
      let new := atomNew (atomOpOf (nbits p.special 8 8)) (8 * n) old (ofBytes (p.data.take 8) % 2 ^ (8 * n))
        (ofBytes ((p.data.drop 8).take 8) % 2 ^ (8 * n))
      set (commitLocal none (placed a (bytesOf n (new.getD old))) s)
      return (0, bytesOf n old)

/-- Is this the first packet of its device and core in a list (R380)? -/
def firstOfPeer (l : List PeerIn) (i : Nat) (q : PeerIn) : Bool :=
  !((l.take i).any fun x => x.src = q.src && (packetOf x.bytes).core = (packetOf q.bytes).core)

/-- Does a line that a cluster pins refuse a peer's request: a write or an atomic, never a read (02 R66)? -/
def refusesPeer (s : State) (p : Packet) : Bool :=
  let n := nbits p.special 16 32
  nbits p.special 0 8 ≠ 0 && windowAllows s p.target n true &&
  (upto (p.target / 256) ((p.target + n + 255) / 256 - p.target / 256)).any fun l => pinnedElsewhere s none (l * 256)

/-- Answer the request at place `i` of those received; what was performed is remembered (R384). -/
def answerPeer (i : Nat) (isNew : Bool) (q : PeerIn) (answer : List Byte) : Act Unit :=
  modify fun s =>
    let s := { s with fab := { s.fab with peerIn := s.fab.peerIn.eraseIdx i } }
    let s := if isNew then { s with fab := { s.fab with peerDone := s.fab.peerDone ++ [(q.src, q.tag, answer)] } } else s
    (sendPacket (packetOf answer) s).getD s

/-- PEER_REQUEST (R384): request `idx` of those received. One that a pinned line refuses waits, and is answered so where
it is still refused after SCOPE_HOLD clocks (02 R66; log 23). -/
def execPeerRequest (s : State) : Host.Outcome State Fault Refusal :=
  let i := s.ev.idx
  match s.fab.peerIn[i]? with
  | none => .next s
  | some q =>
    let p := packetOf q.bytes
    event (fun s => firstOfPeer s.fab.peerIn i q) (
      match s.fab.peerDone.find? fun d => d.1 = q.src ∧ d.2.1 = q.tag with
      | some d => answerPeer i false q d.2.2
      | none =>
        if refusesPeer s p then
          let since := q.since.getD s.cycle
          if since + s.m.scopeHold ≤ s.cycle then answerPeer i true q (answerPacket s q.src q.tag 4 []).bytes
          else modify fun s => { s with fab := { s.fab with peerIn := s.fab.peerIn.set i { q with since := some since } } }
        else do
          let (status, data) ← performPeer p
          let s ← get
          answerPeer i true q (answerPacket s q.src q.tag status data).bytes) s

/-- The code that a status stands for on the requester (R384, 02 R66, R71; log 23). -/
def statusCode (n : Nat) : Code :=
  match n with
  | 1 => .xlatePermission | 2 => .poisonConsumed | 4 => .scopeRefusalTimeout | _ => .xlateNotPresent

/-- Does a sequencer still wait for the answer with this tag? -/
def awaits (s : State) (c : Nat) (q : Seq) (tag : Nat) : Bool :=
  let k := s.coreOf c
  (if q = .ctl then k.ctl.remote else (k.sts.direct.head?).bind (·.remote)) = some (.waiting tag)

/-- Complete or fault what an answered request was for (R384). -/
def finishAsk (a : PeerAsk) (p : Packet) : Act Unit := do
  let s ← get
  match a.kind with
  | .read =>
    let base := a.loc / 256 * 256
    if p.special = 0 then
      set { s with m := s.m.rdcFill base p.data }
    else set { s with fab := { s.fab with peerFails := s.fab.peerFails ++ [(base, statusCode p.special)] } }
  | .write _ =>
    if p.special = 0 then pure ()
    else
      match a.tile with
      | none => pure ()
      | some t => postRecord { code := (statusCode p.special).num, region := t.region, nid := t.nid, core := t.core, tile := t.ord }
  | .atomic _ _ _ _ =>
    match a.who with
    | none => pure ()
    | some (c, q) =>
      if awaits s c q a.tag then
        set (answerAtomic c q (if p.special = 0 then .done p.data else .failed (statusCode p.special)) s)
      else pure ()

/-- PEER_RESPONSE (R384): answer `idx` of those received. -/
def execPeerResponse (s : State) : Host.Outcome State Fault Refusal :=
  match s.fab.peerAnswers[s.ev.idx]? with
  | none => .next s
  | some q =>
    event (fun s => firstOfPeer s.fab.peerAnswers s.ev.idx q) (do
      modify fun s => { s with fab := { s.fab with peerAnswers := s.fab.peerAnswers.eraseIdx s.ev.idx } }
      let s ← get
      match s.peerAsks.find? fun a => a.tag = q.tag && peerDev a.loc = q.src with
      | none => pure ()
      | some a =>
        set { s with peerAsks := s.peerAsks.filter (· ≠ a) }
        finishAsk a (packetOf q.bytes)) s

end Sys2Proof.Machine
end

