-- ==== Sys2Proof/Machine/Combine.lean ====
section
/-! DEFINITION. Grants, handler messages, the combine at home, drop notices, and the waves that find a job quiet
(08 R253, R254; 13 R388, R389, R397–R401; 14 R425, R426). -/

namespace Sys2Proof.Machine

/-! Grants of message-queue windows and inboxes. -/

/-- MQ_GRANT (08 R253, 13 R388). The sender that waits on core `core` gets its entry: ST's RPUT, or with `sq` CTL an
MSEND.P, whose entry on another device is `num`. With `flag` a sender on another device, of region `num`, gets an
entry of window `idx` of core `core`. -/
def execMqGrant (s : State) : Host.Outcome State Fault Refusal :=
  let e := s.ev
  let c := e.core
  if e.flag then
    if mqFree s e.num c e.idx then .next (mqTake c e.idx (fun n => { s := n }) s) else .next s
  else
    let k := s.coreOf c
    match (k.seq e.sq).put, k.tile with
    | some p, some t =>
      if (k.seq e.sq).grantSince.isNone || t.saving.isSome then .next s
      else if e.sq = .ctl then
        if p.dev = some s.devId then
          if mqFree s t.reg.id p.core p.win then settle c .ctl (trySend c p none s) else .next s
        else settle c .ctl (trySend c p (some e.num) s)
      else if mqFree s t.reg.id p.core p.win then settle c .st (tryPut c p s)
      else .next s
    | _, _ => .next s

/-- MQ_FULL_TIMEOUT (08 R254, 13 R388): of ST, or with `sq` CTL of an MSEND.P. -/
def execMqFullTimeout (s : State) : Host.Outcome State Fault Refusal :=
  let c := s.ev.core
  let q := if s.ev.sq = .ctl then Seq.ctl else Seq.st
  let x := (s.coreOf c).seq q
  if ((s.coreOf c).tile.any fun t => t.saving.isNone) && x.put.isSome &&
      decide (clocksSince s.cycle x.grantSince ≥ mqBoundOf (s.coreOf c)) then
    settle c q (trap .mqFullTimeout 0 s)
  else .next s

/-- HANDLER_INBOX_GRANT (R389): to the MSEND.H that waits on core `core`; with `flag` to a sender on another device,
of an entry of cluster `idx`. -/
def execHandlerInboxGrant (s : State) : Host.Outcome State Fault Refusal :=
  let e := s.ev
  if e.flag then
    let x := s.fi e.idx
    if x.inbox.length + x.promised < 256 then .next (s.updFi e.idx fun x => { x with promised := x.promised + 1 }) else .next s
  else
    match (s.coreOf e.core).ctl.hand, (s.coreOf e.core).tile with
    | some h, some _ => settle e.core .ctl (tryHand e.core h true s)
    | _, _ => .next s

/-! Handler messages (R389). -/

/-- AFF and the four arguments of a handler's record (R389). -/
def handlerRecord (cluster : Nat) (pay : List DWord) (l : List Byte) : List Byte :=
  patchBytes 0x60 ((pay.map fun x => bytesOf 8 x.toNat).flatten) (patchBytes 4 (bytesOf 2 (2 ^ cluster)) l)

/-- Enqueue a handler's nest (R389): none where the message fails for good. -/
def enqueueHandler (cluster : Nat) (m : HandlerMsg) : Act (Except NestErr Nat) := do
  let s ← get
  let h := SMap.get {} s.fab.hent m.hidx
  let r ← useRegion h.region
  if !h.v then return .error .none_
  else if !r.valid then return .error .denied
  else
    match ← unitTry (readAs (r.ctx none) (h.va * 128) 128) with
    | .error _ => return .error .badrec
    | .ok l =>
      if (nestRecOf l).tiles ≠ 1 then return .error .badrec
      else
        match ← unitTry (enqueue (fun _ _ => false) (some (handlerRecord cluster m.pay l)) 1) with
        | .error _ => return .error .badrec
        | .ok x => return x

/-- Take the first message of a cluster's inbox (R389). -/
def takeHandler (cluster : Nat) : Act Unit := do
  let s ← get
  match (s.fi cluster).inbox with
  | [] => pure ()
  | m :: r =>
    match ← enqueueHandler cluster m with
    | .ok nid =>
      modify fun s =>
        let s := s.updFi cluster fun x => { x with inbox := r, inboxFull := false }
        { s with fab := { s.fab with handlers := s.fab.handlers ++ [(nid, cluster, m.job)] } }
    | .error .full => modify fun s => s.updFi cluster fun x => { x with inboxFull := true }
    | .error _ =>
      modify fun s =>
        consumed m.job cluster (s.updFi cluster fun x => { x with
          inbox := r, inboxFull := false, bad := (x.bad + 1) % 2 ^ 32 })

/-- HANDLER_MESSAGE (R389): the first message of cluster `core`, once what its sender sent before it has come (R380). -/
def execHandlerMessage (s : State) : Host.Outcome State Fault Refusal :=
  event (fun s => ((s.fi s.ev.core).inbox.head?.any fun m => !(m.sent.any (sentBefore s))) && !(s.fi s.ev.core).inboxFull)
    (takeHandler s.ev.core) s

/-- HANDLER_ENQUEUE_RETRY (R389): when a slot of the scheduler is free. -/
def execHandlerEnqueueRetry (s : State) : Host.Outcome State Fault Refusal :=
  event (fun s => (s.fi s.ev.core).inboxFull && (freeSlot s).isSome) (takeHandler s.ev.core) s

/-! The combine record (R395, R397). -/

/-- A combine record's header and weights. -/
structure CombineRec where
  k : Nat
  fy : Nat
  fd : Nat
  h : Nat
  arrived : Nat
  dropped : Nat
  merged : Nat
  sem : Nat
  semen : Bool
  done : Bool
  ok : Bool
  w : List Nat
  deriving DecidableEq, Repr

/-- A record from its first 128 bytes (R395, R397). -/
def combineRecOf (l : List Byte) : CombineRec :=
  let at_ := fun o => ofBytes ((l.drop o).take 4)
  let a := at_ 0
  let d := at_ 0xC
  { k := nbits a 0 5, fy := nbits a 8 4, fd := nbits a 12 4, h := nbits a 16 14
    arrived := nbits (at_ 4) 0 16, dropped := nbits (at_ 4) 16 16, merged := nbits (at_ 8) 0 16
    sem := nbits d 0 5, semen := nbits d 5 1 = 1, done := nbits d 31 1 = 1
    ok := decide (1 ≤ nbits a 0 5 ∧ nbits a 0 5 ≤ 16) && (combFmt (nbits a 8 4)).isSome && (combFmt (nbits a 12 4)).isSome &&
      combH (nbits a 16 14) && nbits a 5 3 = 0 && nbits a 30 2 = 0 && nbits (at_ 8) 16 16 = 0 && nbits d 6 25 = 0 &&
      (l.drop 0x10).take 48 = bytesOf 48 0
    w := (upto 0 16).map fun i => at_ (0x40 + 4 * i) }

/-- Bytes of the whole record (R395). -/
def CombineRec.size (r : CombineRec) : Nat := 0x80 + r.k * rowStride r.h r.fy + r.h * combZ r.fd

/-- The words that the device writes: ARRIVED and DROPPED, MERGED, DONE, and the weights (R395). -/
def CombineRec.words (r : CombineRec) (l : List Byte) : List Byte :=
  let d := setNbits (ofBytes ((l.drop 0xC).take 4)) 31 1 (if r.done then 1 else 0)
  l.take 4 ++ bytesOf 4 (r.arrived + r.dropped * 2 ^ 16) ++ bytesOf 4 r.merged ++ bytesOf 4 d ++ (l.drop 0x10).take 48 ++
  (r.w.map (bytesOf 4)).flatten

/-- Is bit `j` of a mask set? -/
def maskBit (m j : Nat) : Bool := nbits m j 1 = 1

/-- The lowest set bit of a mask. -/
def lowestBit (m : Nat) : Option Nat := (upto 0 16).find? (maskBit m)

/-- Has every slot come, been dropped or been merged (R397)? -/
def CombineRec.complete (r : CombineRec) : Bool := (upto 0 r.k).all fun j => maskBit (r.arrived ||| r.dropped ||| r.merged) j

/-- A weight as a value. -/
def CombineRec.wv (r : CombineRec) (j : Nat) : Val := decodeVal .fp32 (r.w.getD j 0)

/-- Slots whose outputs count: neither dropped nor merged (R426). -/
def CombineRec.kept (r : CombineRec) : List Nat := (upto 0 r.k).filter fun j => !maskBit r.dropped j && !maskBit r.merged j

/-- Sum of weights in ascending slot order, rounded at each step (R426). -/
def CombineRec.sumW (r : CombineRec) (l : List Nat) : Val := l.foldl (fun a j => (rneF32 (addVal .rne a (r.wv j)).1).1) negZero

/-- w × (k + d) / k, exact and rounded once (R426). -/
def scaleWeight (w sk sd : Val) : Nat :=
  match (mulVal w (addVal .rne sk sd).1).1, sk with
  | .num a m d, .num b n e => (divRound a b m d n e)
  | v, .inf b => (match v with
    | .num a _ _ => if a = b then 0 else 2 ^ 31
    | _ => 0x7FC0_0000)
  | v, _ => f32Code v
where
  /-- ±(m × 2^d) / (n × 2^e) to FP32, ties to even: 64 quotient bits and a sticky bit decide the rounding. -/
  divRound (a b : Bool) (m : Nat) (d : Int) (n : Nat) (e : Int) : Nat :=
    if n = 0 then (if m = 0 then 0x7FC0_0000 else if a = b then 0x7F80_0000 else 0xFF80_0000)
    else
      let up := 64 + n.log2
      let q := m * 2 ^ up / n
      let r := if m * 2 ^ up % n = 0 then 0 else 1
      f32Code (.num (a != b) (2 * q + r) (d - e - up - 1))

/-- The renormalisation (R426). -/
def CombineRec.renorm (r : CombineRec) : CombineRec :=
  let rn := (upto 0 r.k).filter fun j => maskBit r.dropped j && r.wv j ≠ .nan
  if rn.isEmpty || r.kept.isEmpty then r
  else
    let sk := r.sumW r.kept
    let sd := r.sumW rn
    if Val.lt (.num false 0 0) sk then
      { r with w := r.w.zipIdx.map fun e => if r.kept.contains e.2 then scaleWeight (decodeVal .fp32 e.1) sk sd else e.1 }
    else r

/-- The result row (03 R93) from the staged outputs, one list of codes for each slot. -/
def CombineRec.result (r : CombineRec) (rows : List (List Nat)) : List Nat :=
  (upto 0 r.h).map fun i =>
    let acc := r.kept.foldl (fun a j =>
      (rneF32 (fmaVal .rne (r.wv j) (decodeVal ((combFmt r.fy).getD .fp32) ((rows.getD j []).getD i 0)) a).1).1) negZero
    (roundFloat ((combFmt r.fd).getD .fp32) .rne false 0 acc).1

/-- Write scratchpad bytes on behalf of the interface: a window that is written back notes them (02 R46). -/
def unitWrite (c a : Nat) (l : List Byte) : Act Unit := modCoreAt c fun k => dirtySectors (k.spWrite a l) a l.length

/-- Write a record back; where it is complete, the result first, then DONE, then the semaphore (R397). -/
def finishCombine (c off : Nat) (l : List Byte) (r : CombineRec) : Act Unit := do
  if r.complete then
    let s ← get
    let r := r.renorm
    let p := rowStride r.h r.fy
    let rows := (upto 0 r.k).map fun j =>
      (pieces (combZ r.fy) r.h ((s.coreOf c).spRead (off + 0x80 + j * p) (r.h * combZ r.fy))).map ofBytes
    unitWrite c (off + 0x80 + r.k * p) (bytesOfLanes (8 * combZ r.fd) (r.result rows))
    unitWrite c off ({ r with done := true }.words l)
    if r.semen then semAddRemote c r.sem 1 else pure ()
  else unitWrite c off (r.words l)

/-- Apply an arrival to its record (R397). -/
def applyArrival (c off : Nat) (l : List Byte) (r : CombineRec) (m : CombMsg) (j0 : Nat) (row : List Byte) : Act Unit :=
  if r.done || m.fy ≠ r.fy || m.h ≠ r.h then pure ()
  else do
    unitWrite c (off + 0x80 + j0 * rowStride r.h r.fy) row
    finishCombine c off l { r with
      arrived := r.arrived ||| 2 ^ j0
      merged := r.merged ||| setNbits m.mask j0 1 0
      w := r.w.set j0 m.weight.toNat }

/-- Apply a drop notice to its record (14 R425). -/
def applyNotice (c off : Nat) (l : List Byte) (r : CombineRec) (m : CombMsg) (j0 : Nat) : Act Unit :=
  if r.done || maskBit r.arrived j0 then pure ()
  else
    let w := r.w.zipIdx.map fun e => if maskBit m.mask e.2 then 0x7FC0_0000 else e.1
    finishCombine c off l { r with dropped := r.dropped ||| m.mask, w := if m.rn then w.set j0 m.weight.toNat else w }

/-- Apply a message where its home still takes it (R397); the chunks it lies in are filled first (02 R46). -/
def applyComb (m : CombMsg) : Act Unit := do
  let s ← get
  let c := handleCore m.handle
  let off := handleOff m.handle
  match (s.coreOf c).tile, jobEntryOf s m.job with
  | some t, some e =>
    let cap := Nat.min t.reg.spTile Config.scratchBytes
    if t.reg.id ≠ (s.jobAt e).region || t.committed || t.saving.isSome || decide (off + 0x80 > cap) then pure ()
    else
      match ← attempt (touchChunks c off 0x80) with
      | .error (.wait w) => throw (.wait w)
      | .error (.trap _ _) => pure ()
      | .error e => throw e
      | .ok _ =>
        let s ← get
        let l := (s.coreOf c).spRead off 0x80
        let r := combineRecOf l
        match lowestBit m.mask with
        | none => pure ()
        | some j0 =>
          if !r.ok || decide (off + r.size > cap) || decide (r.k ≤ j0) then pure ()
          else
            match ← attempt (touchChunks c off r.size) with
            | .error (.trap _ _) => pure ()
            | .error e => throw e
            | .ok _ =>
              match m.row with
              | some row => applyArrival c off l r m j0 row
              | none => applyNotice c off l r m j0
  | _, _ => pure ()

/-- Is this the first message of its sender that waits (13 R380)? Notices of a caddy are taken in order for each home. -/
def firstOfSender (s : State) (i : Nat) (m : CombMsg) : Bool :=
  match m.srcCore with
  | some core => !sentBefore s ⟨m.srcDev, core, m.at_⟩
  | none => !((s.fab.combs.take i).any fun x =>
      x.srcDev = m.srcDev && x.srcCore.isNone && handleCore x.handle = handleCore m.handle)

/-- Take message `i` of those that have come, and count it as consumed (R385, R397). -/
def takeComb (notice : Bool) (s : State) : Host.Outcome State Fault Refusal :=
  match s.fab.combs[s.ev.idx]? with
  | none => .next s
  | some m =>
    let taken := modify fun s => consumed m.job (clusterOf (handleCore m.handle))
      { s with fab := { s.fab with combs := s.fab.combs.eraseIdx s.ev.idx } }
    event (fun s => m.row.isNone = notice && firstOfSender s s.ev.idx m) (do
      match ← attempt (applyComb m) with
      | .ok _ => taken
      | .error (.held asid page _) =>
        let s ← get
        if flipFailed s asid page then
          dropFlip asid page
          taken
        else modify (requestFlip asid page)
      | .error e => askFor e) s

/-- COMBINE_ARRIVAL (R397): message `idx` of those that have come. -/
def execCombineArrival (s : State) : Host.Outcome State Fault Refusal := takeComb false s

/-- DROP_NOTICE_ARRIVAL (14 R425): message `idx` of those that have come. -/
def execDropNoticeArrival (s : State) : Host.Outcome State Fault Refusal := takeComb true s

/-! Waves (R398–R401). -/

/-- The devices of a job: bit d of the mask of FI_JDEV0–3 (R398). -/
def jobHas (j : JobEntry) (d : Nat) : Bool := bits (SMap.get (0 : DWord) j.dev (d / 64)) (d % 64) 1 = 1

/-- The job's leader is the lowest device of the mask (R398). -/
def jobLeader (j : JobEntry) : Option Nat := (upto 0 256).find? (jobHas j)

/-- Has the job devices beyond this one? -/
def jobShared (s : State) (j : JobEntry) : Bool := (upto 0 256).any fun d => d ≠ s.devId && jobHas j d

/-- WAVE_START (R399): for job-table entry `idx`, where it is in use (R403). -/
def execWaveStart (s : State) : Host.Outcome State Fault Refusal :=
  let i := s.ev.idx
  event (fun s =>
      let j := s.jobAt i
      jobEntryOf s j.job = some i && j.valid && j.period ≠ 0 && jobLeader j = some s.devId && decide (j.since + j.period ≤ s.cycle) &&
        !(s.fab.waves.any fun w => w.entry = i))
    (modify fun s =>
      let s := s.updJob i fun j => { j with since := s.cycle }
      { s with fab := { s.fab with waves := s.fab.waves ++ [{ entry := i, began := s.cycle }] } }) s

/-- A wave result reaches this device: its entry, and the QWAITs that it ends (R399, R401). -/
def waveResult (i : Nat) (quiet : Bool) (number began n c l : Nat) (s : State) : State :=
  let s := s.updJob i fun j => { j with quiet := quiet, lossSeen := decide (0 < l), number := number, i := n, c := c, l := l }
  if !quiet then s
  else
    { s with cores := s.cores.map fun e => (e.1, e.2.updSeq .ctl fun x =>
        match x.qwait with
        | some (job, _) =>
          if job = (s.jobAt i).job && x.remote.isNone && decide (x.grantSince.getD 0 < began) then
            { x with remote := some (.done (bytesOf 6 n ++ [if 0 < l then 1 else 0])) }
          else x
        | none => x) }

/-- The three sums of a pass: this device's, and those of the others of the job (R399). -/
def passSums (s : State) (i : Nat) (others : List Nat) : Nat × Nat × Nat :=
  let n := countsOf s i 31
  let o := fun k => if jobShared s (s.jobAt i) then others.getD k 0 else 0
  ((n.inj + o 0) % 2 ^ 48, (n.cons + o 1) % 2 ^ 48, (n.lost + o 2) % 2 ^ 48)

/-- WAVE_PASS (R399): a pass of the wave of entry `idx` ends at the leader, `nums` being the injected, consumed and lost
sums of the job's other devices, `flag` that one could not be reached. On another device of the job `nums` are the
result that the leader sends: quiet, wave number and the three sums, of a wave that began at clock `num`. -/
def execWavePass (s : State) : Host.Outcome State Fault Refusal :=
  let i := s.ev.idx
  let e := s.ev
  match s.fab.waves.find? fun w => w.entry = i with
  | none =>
    let at_ := fun k => e.nums.getD k 0
    event (fun s => jobEntryOf s (s.jobAt i).job = some i && jobLeader (s.jobAt i) ≠ some s.devId && e.nums.length = 5)
      (modify (waveResult i (at_ 0 = 1) (at_ 1) e.num (at_ 2) (at_ 3) (at_ 4))) s
  | some w =>
    event (fun _ => true) (modify fun s =>
      let sums := passSums s i e.nums
      let rest := s.fab.waves.filter fun x => x.entry ≠ i
      match w.first with
      | none => { s with fab := { s.fab with waves := { w with first := some sums, cut := w.cut || e.flag } :: rest } }
      | some f =>
        let total := fun (x : Nat × Nat × Nat) => (x.2.1 + x.2.2) % 2 ^ 48
        let quiet := !w.cut && !e.flag && f.1 = total f && sums.1 = total sums && f.1 = sums.1
        let s := { s with fab := { s.fab with waves := rest } }
        waveResult i quiet (((s.jobAt i).number + 1) % 2 ^ 48) w.began sums.1 sums.2.1 sums.2.2 s) s

/-- QWAIT_TIMEOUT (R401): the QWAIT of core `core`. -/
def execQwaitTimeout (s : State) : Host.Outcome State Fault Refusal :=
  let c := s.ev.core
  let x := (s.coreOf c).ctl
  match x.qwait with
  | none => .next s
  | some (_, limit) =>
    event (fun s => x.remote.isNone && limit ≠ 0 && decide (x.grantSince.getD s.cycle + limit ≤ s.cycle))
      (modify fun s => s.updSeq c .ctl fun x => { x with remote := some (.failed .watchdog) }) s

/-- What a write of FI_JCFG with CLR does (R398, R400). -/
def clearJob (i : Nat) (s : State) : State :=
  let job := (s.jobAt i).job
  { s with
    fab := { s.fab with
      counts := s.fab.counts.filter fun e => e.1 / 32 ≠ i
      waves := s.fab.waves.filter fun w => w.entry ≠ i }
    clusters := s.clusters.map fun e => (e.1, { e.2 with fi := { e.2.fi with lossRun := e.2.fi.lossRun.filter (· ≠ job) } }) }

/-- JOB_COUNTERS_CLEAR (R398): of job-table entry `idx`. -/
def execJobCountersClear (s : State) : Host.Outcome State Fault Refusal := .next (clearJob s.ev.idx s)

end Sys2Proof.Machine
end

