-- ==== Sys2Proof/Machine/Sched.lean ====
section
/-! DEFINITION. The nest scheduler at work: who is served next, dispatch, aging, commit, yield requests, the hang
watchdog and snapshot pressure (06 R169, R175, R179–R190, R194–R196, 02 R60, R61). -/

namespace Sys2Proof.Machine

/-! Candidates (R169, R179, R181, R182). -/

/-- Tiles that run and count against a region's core budget (R169). -/
def runningIn (s : State) (region : Nat) : Nat :=
  (s.cores.filter fun e => match e.2.tile with
    | some t => t.reg.chain.contains region
    | none => false).length

/-- Have the region and every ancestor room for `n` more tiles (R169)? -/
def hasRoom (s : State) (r : Region) (n : Nat) : Bool :=
  r.valid && r.chain.all fun a => decide (runningIn s a + n ≤ (effRegion s a).cores)

/-- Idle cores of the allowed clusters (R182), in ascending number; one that still holds a window for entries in flight
to it is not idle (08 R256). -/
def idleCores (s : State) (n : NestRec) : List Nat :=
  (upto 0 Config.cores).filter fun c =>
    (s.coreOf c).tile.isNone && (s.coreOf c).windows.isEmpty && (allowedClusters n).contains (clusterOf c) && portAllows s c n.region

/-- Uncommitted ordinals that are not in flight. -/
def toDispatch (s : State) (i : Nat) : List Nat :=
  let nid := slotNid s i
  (uncommitted (s.slot i)).filter fun t =>
    !((tilesOnCores s nid).any fun e => e.2 = t) && !((savedTiles s nid).any fun x => x.ord = t)

/-- The ordinals that one dispatch takes: the next one, or a cohort's all together (R182); none where nothing is
dispatchable. -/
def dispatchSet (s : State) (i : Nat) : List Nat :=
  let n := s.slot i
  if !n.used || n.run ≠ .active then []
  else
    match nextOrdinal n with
    | none => []
    | some t =>
      if dispatchReason s n t ≠ 0 then [] else if n.nrec.cohort then toDispatch s i else [t]

/-- The saved tile of a nest that is resumed first: the lowest ordinal (R181). -/
def firstSaved (s : State) (nid : Nat) : Option Saved :=
  (savedTiles s nid).foldl (fun o x =>
    match o with
    | none => some x
    | some y => if x.ord < y.ord then some x else some y) none

/-- Effective priority: 15 while snapshot pressure applies to a saved tile of the nest (R194). -/
def effPrioOf (s : State) (i : Nat) : Nat :=
  if (savedTiles s (slotNid s i)).any fun x => x.press.isSome then 15 else (s.slot i).effPrio

/-- The idle cores on which slot `i` could run something: those to which its saved tile may return (16 R470), or the idle
allowed ones. -/
def openCores (s : State) (i : Nat) : List Nat :=
  let l := idleCores s (s.slot i).nrec
  match (firstSaved s (slotNid s i)).bind (boundCore s) with
  | some c => l.filter (· = c)
  | none => l

/-- How many cores slot `i` wants now: 0 where it has nothing to run. -/
def wants (s : State) (i : Nat) : Nat :=
  if !(s.slot i).used then 0
  else if (firstSaved s (slotNid s i)).isSome then 1
  else if s.ns.en then (dispatchSet s i).length else 0

/-- Could slot `i` be served: it wants cores, its region has room, and enough allowed cores are idle (R181, R182)? -/
def servable (s : State) (i : Nat) : Bool :=
  let n := wants s i
  decide (0 < n) && hasRoom s (effRegion s (s.slot i).nrec.region) n &&
  decide (n ≤ (openCores s i).length)

/-- Slots in the order in which equals are served, after the one served last (R181). -/
def servingOrder (s : State) : List Nat :=
  let used := (s.ns.slots.filter fun e => e.2.used).map (·.1)
  (used.filter fun i => decide (s.ns.lastServed < i)) ++ used.filter fun i => decide (i ≤ s.ns.lastServed)

/-- The first slot of highest effective priority among those that pass a test. -/
def topSlot (s : State) (p : Nat → Bool) : Option Nat :=
  (servingOrder s).foldl (fun o i =>
    if p i then
      match o with
      | none => some i
      | some j => if effPrioOf s j < effPrioOf s i then some i else some j
    else o) none

/-- The core for a tile: one whose last tile belonged to the same nest, else the lowest (R182). -/
def pickCore (s : State) (nid : Nat) (cores : List Nat) : Option Nat :=
  match cores.find? fun c => (s.coreOf c).lastNid = nid with
  | some c => some c
  | none => cores.head?

/-! A tile's start (05 R119, 06 R175, R178, R183, 07 R230, 08 R235, 09 R266, 10 R287, 11 R324). -/

/-- A sequencer at its prologue entry. -/
def startSeq (r : NestRec) (q : Seq) : SeqState :=
  arrive r q false (r.entryAt q 0) { stage := .prologue }

/-- A core with a tile at its start; the template tables are loaded apart. What the manual does not name here stays as
the last tile left it (log 20). -/
def launch (k : Core) (t : Tile) : Core :=
  let ix := t.nrec.indices t.ord
  let four := (upto 0 4).map fun d => BitVec.ofNat 64 (SMap.get 0 ix d)
  let n : SMap DWord := four.zipIdx.map fun e => (e.2, e.1)
  { k with
    ctl := startSeq t.nrec .ctl, ld := startSeq t.nrec .ld, cmp := startSeq t.nrec .cmp, st := startSeq t.nrec .st
    s := (four.zipIdx.map fun e => (e.2 + 1, e.1)) ++ [(5, BitVec.ofNat 64 t.ord)] ++
      (t.nrec.args.zipIdx.map fun e => (e.2 + 6, e.1)) ++ [(10, BitVec.ofNat 64 t.nid)]
    p := 0, h := [], sem := [], arv := [], tk := [], trap := {}
    tile := some t
    tmplKept := none
    windows := [], chunks := [], q := []
    lds := { n := n }, sts := { n := n }
    comp := { tmpl := k.comp.tmpl, stall := k.comp.stall, issued := k.comp.issued, latePc := k.comp.latePc }
    v := [], k := [], ops := []
    mx := { waitclk := k.mx.waitclk, ksteps := k.mx.ksteps } }

/-- Template tables from the bytes after an image's header (R175). -/
def imageTables (counts : List Nat) (l : List Byte) : SMap QWord :=
  let keys := counts.zipIdx.flatMap fun e => (upto 0 e.1).map fun i => 64 * e.2 + i
  (keys.zip (pieces 16 keys.length l)).filterMap fun e =>
    let t : QWord := BitVec.ofNat 128 (ofBytes e.2)
    if bits t 120 8 = 0 then none else some (e.1, t)

/-- Read a template image on the region's account (R175, 01 R517). -/
def loadImage (r : Region) (tmpl : Nat) : Act (SMap QWord) := do
  let x := r.ctx none
  let h ← readAs x tmpl 8
  let counts := (imageCounts (ofBytes h)).map fun n => Nat.min n 64
  let l ← readAs x (tmpl + 16) (16 * counts.sum)
  return imageTables counts l

/-- Put a core's template tables in place (R175). A fault ends the tile as TEND.ESC does; a page still to be flipped
makes the dispatch wait, until its limit has passed (02 R38). -/
def loadTemplates (c : Nat) (kept : Bool) : Act Unit := do
  let t ← tileOf c
  if kept && t.nrec.tmpl ≠ 0 then pure ()
  else if t.nrec.tmpl = 0 then modCoreAt c fun k => { k with comp := { k.comp with tmpl := [] } }
  else
    modCoreAt c fun k => { k with comp := { k.comp with tmpl := [] } }
    match ← portTry (loadImage t.reg t.nrec.tmpl) with
    | .ok m => modCoreAt c fun k => { k with comp := { k.comp with tmpl := m } }
    | .error (code, va) =>
      modTile c fun t => { t with tmplRan := true }
      escalateTile c code.num 2 va 0

/-- Dispatch tile `t` of slot `i` to an idle allowed core (R182). -/
def dispatchTile (i t : Nat) : Act Unit := do
  let s ← get
  let n := s.slot i
  let nid := slotNid s i
  match pickCore s nid (idleCores s n.nrec) with
  | none => waitFor .memory
  | some c =>
    let reg := effRegion s n.nrec.region
    let k := s.coreOf c
    let tile : Tile :=
      { nid := nid, ord := t, nrec := n.nrec, reg := reg, prio := effPrioOf s i, dispatched := s.ns.dispatches
        ver := { id := s.ns.nextVer }, start := s.m.pubCount, lastIssue := s.cycle }
    let s := s.setCore c (launch k tile)
    let s := { s with ns := { s.ns with dispatches := s.ns.dispatches + 1, nextVer := (s.ns.nextVer + 1) % 2 ^ 32, lastServed := i } }
    let s := s.updSlot i fun n => { n with
      next := if n.again.contains t then n.next else Nat.max n.next (t + 1)
      again := n.again.filter (· ≠ t)
      effPrio := reg.prio, ageSince := s.cycle, waitSince := s.cycle }
    set s
    tileStarts c
    loadTemplates c (k.tmplKept = some n.nrec.tmpl)

/-- TILE_DISPATCH (R182): the slot that is served first gives its next tile, or its whole cohort. -/
def execTileDispatch (s : State) : Host.Outcome State Fault Refusal :=
  match topSlot s (servable s) with
  | none => .next s
  | some i =>
    event (fun s => (firstSaved s (slotNid s i)).isNone) (do
      let r ← attemptUndo (each (dispatchSet s i) fun t => do
        let s ← get
        if (s.slot i).run = .active then dispatchTile i t else pure ())
      match r with
      | .ok _ => pure ()
      | .error e => askFor e) s

/-- PRIORITY_AGING (R181): slot `idx` has waited an aging interval with a dispatchable tile. -/
def execPriorityAging (s : State) : Host.Outcome State Fault Refusal :=
  let i := s.ev.idx
  let n := s.slot i
  event (fun s => s.ns.age ≠ 0 && !(dispatchSet s i).isEmpty && decide (n.ageSince + s.ns.age ≤ s.cycle) &&
      decide (n.effPrio < (effRegion s n.nrec.region).maxPrio))
    (modify fun s => s.updSlot i fun n => { n with effPrio := n.effPrio + 1, ageSince := n.ageSince + s.ns.age }) s

/-- TILE_COMMIT (R185): the tile of core `core`, whose final publication has committed, leaves the core. -/
def execTileCommit (s : State) : Host.Outcome State Fault Refusal :=
  let c := s.ev.core
  match (s.coreOf c).tile with
  | none => .next s
  | some t =>
    event (fun _ => t.committed) (modify fun s =>
      let s := pruneHistory (s.updCore c emptyCore)
      let s := match slotOfNid s t.nid with
        | some i => settleNest i (commitTile i t.ord s)
        | none => s
      tileGone t.nid true s) s

/-! Records about a tile (R170). -/

/-- Post a record that names a tile. -/
def postTile (t : Tile) (core : Nat) (code : Code) : Act Unit := do
  postTo t.reg { code := code.num, region := t.reg.id, nid := t.nid, core := core, tile := t.ord }

/-- Dispatch a tile again from its beginning (R185). -/
def runAgain (nid ord : Nat) (s : State) : State :=
  match slotOfNid s nid with
  | none => s
  | some i => settleNest i (s.updSlot i fun n => { n with
      again := (n.again.filter fun o => decide (o < ord)) ++ [ord] ++ n.again.filter fun o => decide (ord < o) })

/-- Discard the tile on a core without committing it, and dispatch it again (R185). -/
def discardAgain (c : Nat) (code : Code) : Act Unit := do
  let s ← get
  match (s.coreOf c).tile with
  | none => pure ()
  | some t =>
    postTile t c code
    modify fun s => pruneHistory (runAgain t.nid t.ord (discardTile false c s))

/-! Yield requests (R187–R190). -/

/-- Save slots of a pool that are taken: by saved tiles, and by tiles being saved. -/
def slotsTaken (s : State) (base : Nat) : List Nat :=
  (s.ns.saved.filter fun x => x.base = base).map (·.slot)

/-- Tiles on cores that a save of their pool waits for. -/
def savingIn (s : State) (base : Nat) : Nat :=
  (s.cores.filter fun e => match e.2.tile with
    | some t => t.reg.saveBase = base && t.saving.isSome
    | none => false).length

/-- Free slots of a region's save pool (R169). -/
def freeSaves (s : State) (r : Region) : Nat := r.saveSlots - (slotsTaken s r.saveBase).length - savingIn s r.saveBase

/-- The tiles that a yield request on core `c` goes to: all of a cohort's (R187). -/
def requestSet (s : State) (c : Nat) : List Nat :=
  match (s.coreOf c).tile with
  | none => []
  | some t => if t.nrec.cohort then (tilesOnCores s t.nid).map (·.1) else [c]

/-- Does a core hold a tile of its enabled port's region (16 R470)? -/
def portHolds (s : State) (c : Nat) : Bool :=
  match portOf s c, (s.coreOf c).tile with
  | some (_, p), some t => p.region = t.reg.id
  | _, _ => false

/-- May the tile on a core be asked to yield for a candidate of priority `p` (R187)? One that an enabled port keeps on its
core is not (16 R470), nor is one that has been asked already (log 59). -/
def yieldable (s : State) (p c : Nat) : Bool :=
  match (s.coreOf c).tile with
  | none => false
  | some t =>
    decide (t.prio < p) && t.yieldReq.isNone && t.saving.isNone && !t.committed &&
    ((requestSet s c).all fun d => !portHolds s d) &&
    decide ((requestSet s c).length ≤ freeSaves s t.reg)

/-- Among cores, the one whose tile has the lowest priority, the most recently dispatched of those (R187). -/
def yieldPick (s : State) (cores : List Nat) : Option Nat :=
  cores.foldl (fun o c =>
    match o with
    | none => some c
    | some d =>
      let a := (s.coreOf c).tile.getD {}
      let b := (s.coreOf d).tile.getD {}
      if a.prio < b.prio || (a.prio = b.prio && decide (b.dispatched < a.dispatched)) then some c else some d) none

/-- Does slot `i` wait for a core: it could be served but for idle allowed cores (R187)? A cohort for which too few are
idle waits as one for which none is (log 59). -/
def starved (s : State) (i : Nat) : Bool :=
  let n := wants s i
  decide (0 < n) && hasRoom s (effRegion s (s.slot i).nrec.region) n &&
  decide ((openCores s i).length < n)

/-- The core that is asked to yield for slot `i`, if there is one (R187). -/
def yieldVictim (s : State) (i : Nat) : Option Nat :=
  yieldPick s ((upto 0 Config.cores).filter fun c =>
    (allowedClusters (s.slot i).nrec).contains (clusterOf c) && portAllows s c (s.slot i).nrec.region && yieldable s (effPrioOf s i) c)

/-- YIELD_REQUEST (R187): the candidate served first among those that have no idle allowed core and for which a core may be
asked makes that core's tile, or its cohort, yield. -/
def execYieldRequest (s : State) : Host.Outcome State Fault Refusal :=
  match topSlot s fun i => starved s i && (yieldVictim s i).isSome with
  | none => .next s
  | some i =>
    match yieldVictim s i with
    | none => .next s
    | some c => .next ((requestSet s c).foldl (fun s c => raiseYield c s) s)

/-- BOUNDARY_YIELD (R188): the four sequencers of core `core` are held at their back-edges. -/
def execBoundaryYield (s : State) : Host.Outcome State Fault Refusal :=
  let c := s.ev.core
  let k := s.coreOf c
  match k.tile with
  | none => .next s
  | some t =>
    event (fun _ => t.yieldReq.isSome && t.saving.isNone && allSeqs.all fun q => (k.seq q).run = .atBackEdge && stillHeld k q)
      (modCoreAt c (Core.startSaving .boundary s.cycle)) s

/-- YIELD_DEADLINE (R190): a forced save of core `core`; an atomic that CTL has out is answered first (log 8). -/
def execYieldDeadline (s : State) : Host.Outcome State Fault Refusal :=
  let c := s.ev.core
  match (s.coreOf c).tile with
  | none => .next s
  | some t =>
    event (fun s => t.saving.isNone && !t.committed && (s.coreOf c).ctl.remote.isNone && match t.yieldReq with
        | some r => decide (r + t.reg.yieldDl ≤ s.cycle)
        | none => false) (do
      postTile t c .yieldDeadline
      modCoreAt c fun k =>
        let k := k.noteWait s.cycle
        { k with ctl := k.ctl.abandon, ld := k.ld.abandon, cmp := k.cmp.abandon, st := k.st.abandon }.startSaving .forced s.cycle) s

/-- SAVE_BOUND (R195): the context of core `core` is lost. -/
def execSaveBound (s : State) : Host.Outcome State Fault Refusal :=
  let c := s.ev.core
  match (s.coreOf c).tile with
  | none => .next s
  | some t =>
    event (fun s => match t.saving with
        | some (_, at_) => decide (at_ + Config.saveBound ≤ s.cycle)
        | none => false) (discardAgain c .saveBound) s

/-- WATCHDOG (R196): no sequencer of the tile on core `core` has issued for the region's watchdog period. -/
def execWatchdog (s : State) : Host.Outcome State Fault Refusal :=
  let c := s.ev.core
  match (s.coreOf c).tile with
  | none => .next s
  | some t =>
    event (fun s => t.reg.watchdog ≠ 0 && t.saving.isNone && !t.committed && decide (t.lastIssue + t.reg.watchdog ≤ s.cycle))
      (escalateTile c Code.watchdog.num 0xFF 0 0) s

/-! Snapshot pressure (02 R56, R60, R61, R194). -/

/-- Is the retained-version space fuller than HIGH_PCT (R60)? -/
def overfull (s : State) : Bool :=
  decide (usedKiB s * 100 > Nat.min s.m.highPct 100 * retainedCapacity s.m)

/-- The oldest start stamp among the open phases of the tiles on cores and of the saved ones (R60, R194). -/
def oldestStart (s : State) : Option Nat :=
  ((openTiles s).map (·.start)).foldl (fun o x =>
    match o with
    | none => some x
    | some y => if later x y then some x else some y) none

/-- Does pressure reach a phase with this start stamp (R60)? -/
def pressed (s : State) (start : Nat) : Bool :=
  (overfull s && oldestStart s = some start) || decide (stampGap start s.m.pubCount ≥ 2 ^ 46)

/-- Does pressure reach a saved tile? -/
def savedPressed (s : State) (x : Saved) : Bool := pressed s ((x.core.tile.map (·.start)).getD 0)

/-- Set PRESS, bit 48 of the doubleword at 0x18, in the header of a saved tile (R60, 06 R198). -/
def pressHeader (s : State) (x : Saved) : State :=
  writeUnstamped (some ((x.core.tile.map (·.reg.id)).getD 0)) [(x.slotAt + 0x1E, s.m.byte (x.slotAt + 0x1E) ||| 1)] s

/-- SNAPSHOT_PRESSURE (R60): pressure reaches every phase that it is due to reach. -/
def execSnapshotPressure (s : State) : Host.Outcome State Fault Refusal :=
  let mark := fun (t : Tile) =>
    if pressed s t.start then
      { t with press := some (t.press.getD s.cycle), yieldReq := some (t.yieldReq.getD s.cycle) }
    else t
  let markSaved := fun (x : Saved) => if savedPressed s x then { x with press := some (x.press.getD s.cycle) } else x
  let u := (s.ns.saved.filter (savedPressed s)).foldl pressHeader s
  .next { u with
    cores := u.cores.map fun e => (e.1, { e.2 with tile := e.2.tile.map mark })
    ns := { u.ns with saved := u.ns.saved.map markSaved } }

/-- Is a deadline of R61 over? -/
def pressOver (s : State) (p : Option Nat) : Bool :=
  match p with
  | some at_ => decide (at_ + s.m.pressDeadline ≤ s.cycle)
  | none => false

/-- SNAPSHOT_EXPIRED (R61, R194): the tile on core `core`, or with `flag` the saved tile of nest `num` and ordinal
`idx`, is discarded and dispatched again. -/
def execSnapshotExpired (s : State) : Host.Outcome State Fault Refusal :=
  if s.ev.flag = true then
    match s.ns.saved.find? fun x => x.nid = s.ev.num && x.ord = s.ev.idx with
    | none => .next s
    | some x =>
      event (fun s => pressOver s x.press) (do
        match x.core.tile with
        | some t => postTile t 0xFFFF .snapshotExpired
        | none => pure ()
        modify fun s => pruneHistory (runAgain x.nid x.ord (dropSaved false [x] s))) s
  else
    match (s.coreOf s.ev.core).tile with
    | none => .next s
    | some t => event (fun s => pressOver s t.press && !t.committed) (discardAgain s.ev.core .snapshotExpired) s

end Sys2Proof.Machine
end

