-- ==== Sys2Proof/Machine/SchedCmd.lean ====
section
/-! DEFINITION. The scheduler's commands NESTQ, NESTF, NESTR and NESTS (06 R199–R203). -/

namespace Sys2Proof.Machine

/-- A user region may name only regions of its own subtree (R199). -/
def outsideSubtree (r : Region) (s : State) (region : Nat) : Bool :=
  !r.supv && !(effRegion s region).chain.contains r.id

/-- The slot of the nest that a command names by its NID, or why it may not (R199). -/
def namedNest (r : Region) (s : State) (v : Nat) : Except NestErr Nat :=
  match if v < 2 ^ 16 then slotOfNid s v else none with
  | none => .error .none_
  | some i => if outsideSubtree r s (s.slot i).nrec.region then .error .denied else .ok i

/-- Write a command's result to Sd and go on (R199, 05 R152). -/
def commandResult (d : BitVec 6) (x : Except NestErr Nat) : Act Unit := do
  modCore fun k => k.setS d.toNat (resultWord x)
  advance .ctl 8

/-- NESTQ (R200). Where the page of the image's header has to be flipped first, CTL waits (02 R38, R517). -/
def execNestq (o : Cmd) (s : State) : Host.Outcome State Fault Refusal :=
  plain .ctl (.nestq o) (do
    let s ← get
    let k ← thisCore
    let t ← tileOf s.core
    let a := (k.sreg o.a.toNat).toNat
    trapIf (a % 128 ≠ 0) .align a
    let l ← if bits o.f8 0 1 = 1 then spLoad s.core a 128 else loadRange s.core a 128
    match ← attemptUndo (enqueue (outsideSubtree t.reg) (some l) 0) with
    | .ok r => commandResult o.d r
    | .error (.held asid page _) =>
      modify (requestFlip asid page)
      waitFor .memory
    | .error e => throw e) s

/-- Abort a nest's tiles in flight as NESTF does: one whose final publication has committed is committed (R201). -/
def flushTiles (i : Nat) (s : State) : State :=
  let nid := slotNid s i
  let s := (tilesOnCores s nid).foldl (fun s e => endTile i e.1 s) s
  tileGone nid false (pruneHistory (dropSaved true (savedTiles s nid) s))

/-- Does another nest of the table name this one as PROD (R201)? -/
def isProducer (s : State) (nid : Nat) : Bool :=
  s.ns.slots.any fun e => e.2.used && e.2.nrec.prod = nid && slotNid s e.1 ≠ nid

/-- What NESTF does (R201): the state that the nest was in. -/
def flushNest (t : Tile) (v : Nat) (free : Bool) (s : State) : Except NestErr Nat × State :=
  match namedNest t.reg s v with
  | .error e => (.error e, s)
  | .ok i =>
    let st := nestState s i
    if st = 0 || st = 5 || (free && isProducer s v) then (.error .state, s)
    else if v = t.nid then (.error .self, s)
    else
      let s := s.updSlot i fun n => { n with run := if n.run = .active then .stopping else n.run, freeing := free }
      let s := settleNest i (flushTiles i s)
      (.ok st, if free then s.updSlot i fun n => { n with used := false } else s)

/-- NESTF (R201). The tiles in flight end at once, so WAIT and FREE have nothing to wait for. -/
def execNestf (o : Cmd) (s : State) : Host.Outcome State Fault Refusal :=
  plain .ctl (.nestf o) (do
    let s ← get
    let k ← thisCore
    let t ← tileOf s.core
    let (r, s') := flushNest t (k.sreg o.a.toNat).toNat (bits o.f8 1 1 = 1) s
    set s'
    commandResult o.d r) s

/-- What NESTR does (R202). -/
def restartNest (t : Tile) (v : Nat) (zero : Bool) (s : State) : Except NestErr Nat × State :=
  match namedNest t.reg s v with
  | .error e => (.error e, s)
  | .ok i =>
    if nestState s i ≠ 6 then (.error .state, s)
    else
      (.ok v, settleNest i (s.updSlot i fun n =>
        let f := if zero then 0 else n.f
        { n with
          run := .active, f := f, window := if zero then [] else n.window, next := f, again := []
          effPrio := (effRegion s n.nrec.region).prio, ageSince := s.cycle, waitSince := s.cycle, freeing := false }))

/-- NESTR (R202). -/
def execNestr (o : Cmd) (s : State) : Host.Outcome State Fault Refusal :=
  plain .ctl (.nestr o) (do
    let s ← get
    let k ← thisCore
    let t ← tileOf s.core
    let (r, s') := restartNest t (k.sreg o.a.toNat).toNat (bits o.f8 0 1 = 1) s
    set s'
    commandResult o.d r) s

/-- REASON (R203): why the next tile of a slot in states 1 to 3 has not been dispatched; where several hold, the lowest
number (log 59). -/
def waitReason (s : State) (i : Nat) : Nat :=
  let n := s.slot i
  match nextOrdinal n with
  | none => 0
  | some t =>
    let r := dispatchReason s n t
    let need := (dispatchSet s i).length
    let idle := (idleCores s n.nrec).length
    if r ≠ 0 then r
    else if n.nrec.cohort && decide (idle < need) then 5
    else if !hasRoom s (effRegion s n.nrec.region) need then 6
    else if idle = 0 then 8
    else if !s.ns.en || topSlot s (servable s) = some i then 0
    else 7

/-- The tile of slot `i` that waits for the reason given: the next one, or the first of its cohort that has a reason
(R203). -/
def waitingTile (s : State) (i : Nat) : Nat :=
  let n := s.slot i
  if n.nrec.cohort then ((uncommitted n).find? fun t => tileReason s n t ≠ 0).getD 0 else (nextOrdinal n).getD 0

/-- What the awaited value of item 7 is (R203). -/
def needWord (s : State) (i r : Nat) : Nat :=
  let n := s.slot i
  let t := waitingTile s i
  let dep := fun (d : DWord) => (bits d 48 14).toNat * 2 ^ 48 + depNeed d t
  match r with
  | 1 => dep n.nrec.dep0
  | 2 => dep n.nrec.dep1
  | 3 => n.nrec.prod * 2 ^ 48 + ((n.nrec.pa : Int) * t + n.nrec.pb).toNat % 2 ^ 48
  | _ => 0

/-- An item of a slot (R203). -/
def nestItem (s : State) (i item : Nat) : Nat :=
  let n := s.slot i
  let nid := slotNid s i
  let st := nestState s i
  let r := if 1 ≤ st ∧ st ≤ 3 then waitReason s i else 0
  if st = 0 then 0
  else
    match item with
    | 0 => st + nid * 2 ^ 8 + n.nrec.region * 2 ^ 24 + effPrioOf s i * 2 ^ 36 +
        (savedTiles s nid).length * 2 ^ 40 + (tilesOnCores s nid).length * 2 ^ 48
    | 1 => n.f % 2 ^ 32 + (nextOrdinal n).getD n.nrec.tiles % 2 ^ 32 * 2 ^ 32
    | 6 => r + Nat.min (s.cycle - n.waitSince) (2 ^ 31 - 1) * 2 ^ 32
    | 7 => needWord s i r
    | m => ((upto 0 64).map fun j => if n.window.contains (n.f + 64 * (m - 2) + j) then 2 ^ j else 0).sum

/-- What NESTS reads (R203). -/
def nestStatus (t : Tile) (v item : Nat) (s : State) : Except NestErr Nat :=
  if nbits v 8 8 = 0 then
    let i := nbits v 0 8
    if (s.slot i).used && outsideSubtree t.reg s (s.slot i).nrec.region then .error .denied else .ok (nestItem s i item)
  else (namedNest t.reg s v).map fun i => nestItem s i item

/-- NESTS (R203). -/
def execNests (o : Cmd) (s : State) : Host.Outcome State Fault Refusal :=
  plain .ctl (.nests o) (do
    let s ← get
    let k ← thisCore
    let t ← tileOf s.core
    commandResult o.d (nestStatus t (k.sreg o.a.toNat).toNat o.imm.toNat s)) s

/-- Does a nest in this state have a dispatchable tile (R177, R179)? -/
def dispatchableState (st : Nat) : Bool := st = 2 || st = 3

/-- Note when each nest entered its state (R203 WAITCLK), and from when on it has had a dispatchable tile (R181). -/
def noteStates (s : State) : State :=
  { s with ns := { s.ns with slots := s.ns.slots.map fun e =>
    let st := nestState s e.1
    if st = e.2.lastState then e
    else (e.1, { e.2 with
      lastState := st, waitSince := s.cycle
      ageSince := if dispatchableState st && !dispatchableState e.2.lastState then s.cycle else e.2.ageSince }) } }

end Sys2Proof.Machine
end

