-- ==== Sys2Proof/Machine/Caddy.lean ====
section
/-! DEFINITION. The caddy: copies of experts, sources, extents of the expert store, saucers, drops and tile decisions
(14 R405–R428). -/

namespace Sys2Proof.Machine

/-! Entries, copies and sources (R407, R408, R414). -/

/-- The primary or the secondary copy of an entry. -/
def TagEnt.copyAt (e : TagEnt) (sec : Bool) : ExpertCopy := if sec then e.sec else e.prim

/-- Change a copy. -/
def State.updCopyOf (s : State) (i : Nat) (sec : Bool) (f : ExpertCopy → ExpertCopy) : State :=
  s.updTag i fun e => if sec then { e with sec := f e.sec } else { e with prim := f e.prim }

/-- The layer that a key names, where it is loaded. -/
def layerOf (s : State) (key : Nat) : Option Layer := SMap.find s.cd.layers (keyLayer key)

/-- The format of the primary or the secondary copies of a layer. -/
def Layer.fmt (l : Layer) (sec : Bool) : Nat := if sec then l.sp else l.pp

/-- Formats that an image may have (R407). -/
def imageFmt (f : Nat) : Bool := f = 0 || f = 1 || f = 4 || f = 5 || decide (8 ≤ f ∧ f ≤ 0xC)

/-- A flash port may be used for fetches (R437). -/
def portUsable (s : State) (p : Nat) : Bool :=
  let r := SMap.get (0 : DWord) s.cd.stage p
  bits r 63 1 = 1 && bits r 0 8 ≠ 0

/-- Fields of the flash record (R407). -/
def flashFmt (e : TagEnt) : Nat := (bits e.flash 26 4).toNat
def flashPort (e : TagEnt) : Nat := (bits e.flash 24 1).toNat
def flashCmp (e : TagEnt) : Bool := bits e.flash 25 1 = 1
def flashBytes (e : TagEnt) : Nat := (bits e.flash 0 24).toNat * 4096

/-- The source of a copy at a format (R414): false the DRAM record, true the flash record; none where it has none. -/
def sourceOf (s : State) (e : TagEnt) (f : Nat) : Option Bool :=
  if bits e.dram 63 1 = 1 ∧ (bits e.dram 56 4).toNat = f ∧ !e.badd then some false
  else if bits e.flash 31 1 = 1 ∧ flashFmt e = f ∧ !e.badf ∧ portUsable s (flashPort e) then some true
  else none

/-- Is a fetch of this copy under way or waiting to start? -/
def fetching (s : State) (i : Nat) (sec : Bool) : Bool := ((s.tag i).copyAt sec).run = 1

/-- Ask for a fetch (R414). -/
def askFetch (l : Layer) (i : Nat) (sec steeper : Bool) (s : State) : State :=
  let s := s.updCopyOf i sec fun c => { c with run := 1 }
  { s with cd := { s.cd with fetches := s.cd.fetches ++
      [{ tag := i, sec := sec, fmt := l.fmt sec, region := l.region, steeper := steeper }] } }

/-- A copy is wanted: an absent one is fetched, and a fetch ahead of time that has not started is a demand fetch now
(R414). -/
def demandFetch (l : Layer) (i : Nat) (sec : Bool) (s : State) : State :=
  if ((s.tag i).copyAt sec).run = 0 then askFetch l i sec false s
  else { s with cd := { s.cd with fetches := s.cd.fetches.map fun f =>
      if f.tag = i && f.sec = sec && !f.started then { f with steeper := false } else f } }

/-! Extents (R415). -/

/-- Extents of 64 KiB that an image takes. -/
def extentsOf (e : TagEnt) : Nat := (e.imgb + 0xFFFF) / 0x1_0000

/-- Every copy with its tag's index. -/
def allCopies (s : State) : List (Nat × Bool × ExpertCopy) :=
  s.cd.tags.flatMap fun e => [(e.1, false, e.2.prim), (e.1, true, e.2.sec)]

/-- A region's charge in extents. -/
def chargeOf (s : State) (region : Nat) : Nat :=
  (((allCopies s).filter fun c => c.2.2.region = region).map fun c => c.2.2.n).sum

/-- The lowest free run of `n` extents in a slice. -/
def freeRun (s : State) (slice n : Nat) : Option Nat :=
  let used := (allCopies s).filter fun c => c.2.2.slice = slice && c.2.2.n ≠ 0
  (upto 0 257).find? fun a => decide (a + n ≤ 256) &&
    used.all fun c => decide (a + n ≤ c.2.2.ext ∨ c.2.2.ext + c.2.2.n ≤ a)

/-- The slice and place of a new copy: the lowest allowed slice with room, within the budget (R415). -/
def placeFor (s : State) (l : Layer) (n : Nat) : Option (Nat × Nat) :=
  if (chargeOf s l.region + n) * 0x1_0000 > (effRegion s l.region).xsBytes then none
  else
    ((upto 0 16).filter fun i => l.slices = 0 || nbits l.slices i 1 = 1).foldl (fun o i =>
      match o with
      | some x => some x
      | none => (freeRun s i n).map fun a => (i, a)) none

/-- Give a copy its extents. -/
def allocate (i : Nat) (sec : Bool) (l : Layer) (p : Nat × Nat) (s : State) : State :=
  let n := extentsOf (s.tag i)
  s.updCopyOf i sec fun c => { c with region := l.region, slice := p.1, ext := p.2, n := n }

/-- A copy is absent: its extents are free, its region is charged no longer, and its pins stand (R417, R419, R420). -/
def toAbsent (i : Nat) (sec : Bool) (s : State) : State := s.updCopyOf i sec fun c => { pins := c.pins }

/-- Evict a copy: it is evicting from now on (R420). -/
def evict (i : Nat) (sec : Bool) (s : State) : State := s.updCopyOf i sec fun c => { c with run := 3, since := s.cycle }

/-- Clocks that an eviction takes (R420; log 43). -/
def evictClocks : Nat := 4

/-- Copies whose eviction began at least `n` clocks ago are absent (R420). -/
def endEvictions (n : Nat) (s : State) : State :=
  let done := fun (c : ExpertCopy) => c.run = 3 && decide (c.since + n ≤ s.cycle)
  let f := fun (c : ExpertCopy) => if done c then { pins := c.pins } else c
  if s.cd.tags.any fun e => done e.2.prim || done e.2.sec then
    { s with cd := { s.cd with tags := s.cd.tags.map fun e => (e.1, { e.2 with prim := f e.2.prim, sec := f e.2.sec }) } }
  else s

/-- The copy of a region that goes first: unpinned, resident, lowest LASTUSE, then lowest tag index (R415). -/
def victim (s : State) (region : Nat) : Option (Nat × Bool) :=
  let l := (allCopies s).filter fun c => c.2.2.run = 2 && c.2.2.pins = 0 && c.2.2.region = region
  (l.foldl (fun (o : Option (Nat × Nat × Bool)) c =>
    let x := ((s.tag c.1).lastUse, c.1, c.2.1)
    match o with
    | none => some x
    | some y => if x.1 < y.1 then some x else some y) none).map fun x => x.2

/-- The copies that have to go, in order, until a new one fits (R415); none where even that makes no room. -/
def victims (l : Layer) (n : Nat) : Nat → State → Option (List (Nat × Bool))
  | 0, s => (placeFor s l n).map fun _ => []
  | k + 1, s =>
    match placeFor s l n with
    | some _ => some []
    | none =>
      match victim s l.region with
      | none => none
      | some v => (victims l n k (toAbsent v.1 v.2 s)).map (v :: ·)

/-- What goes for a new copy, with the evictions under way ended. -/
def roomFor (s : State) (l : Layer) (n : Nat) : Option (List (Nat × Bool)) :=
  victims l n (allCopies s).length (endEvictions 0 s)

/-- Address of a copy in the expert store (02 R50). -/
def ExpertCopy.addr (c : ExpertCopy) : Nat := c.slice * 2 ^ 24 + c.ext * 0x1_0000

/-! Saucers (R410, R411). -/

/-- Virtual addresses (R410). -/
def Layer.saucer (l : Layer) (e : Nat) : Nat := l.sbase + e * (256 + l.slots * l.slotb)
def Layer.slotVa (l : Layer) (e i : Nat) : Nat := l.saucer e + 256 + i * l.slotb
def Layer.tagVa (l : Layer) (e i : Nat) : Nat := l.tgbase + 8 * (e * l.slots + i)

/-- The counters of a saucer header (R410). -/
structure Saucer where
  next : Nat := 0
  full : Nat := 0
  disp : Nat := 0
  head : Nat := 0
  subs : Nat := 0
  drops : Nat := 0
  tiles : Nat := 0
  deriving DecidableEq, Repr

/-- A layer's saucer for one expert, as the caddy works on it. -/
structure Bowl where
  l : Layer
  e : Nat
  /-- Index of its key's entry. -/
  tag : Nat
  deriving DecidableEq, Repr

/-- The account that the caddy's accesses are made on (02 R517). -/
def caddyCtx (s : State) (l : Layer) : Ctx := (effRegion s l.region).ctx none

/-- Read on the layer's account. -/
def cdRead (l : Layer) (va n : Nat) : Act (List Byte) := do
  let s ← get
  readSpan (caddyCtx s l) va n

/-- Write on the layer's account, in pieces that stay within a page. -/
def cdWrite (l : Layer) (va : Nat) (b : List Byte) : Act Unit := do
  let s ← get
  let x := caddyCtx s l
  let first := Nat.min b.length (0x1_0000 - va % 0x1_0000)
  if b.isEmpty then pure ()
  else
    writeAs x l.region va (b.take first)
    each (upto 0 ((b.length - first + 0xFFFF) / 0x1_0000)) fun i =>
      writeAs x l.region (va + first + i * 0x1_0000) ((b.drop (first + i * 0x1_0000)).take 0x1_0000)

/-- Counters from a header's first 32 bytes. -/
def saucerOf (l : List Byte) : Saucer :=
  let at_ := fun o => ofBytes ((l.drop o).take 4)
  { next := at_ 0, full := at_ 4, disp := at_ 8, head := at_ 0xC, subs := at_ 0x14, drops := at_ 0x18, tiles := at_ 0x1C }

/-- Read a saucer's counters. -/
def Bowl.read (b : Bowl) : Act Saucer := do
  let x ← cdRead b.l (b.l.saucer b.e) 0x20
  return saucerOf x

/-- A saucer's header from 0x00 to 0x20. -/
def saucerBytes (l : Layer) (h : Saucer) : List Byte :=
  bytesOf 4 h.next ++ bytesOf 4 h.full ++ bytesOf 4 h.disp ++ bytesOf 4 h.head ++ bytesOf 2 l.slotb ++ bytesOf 2 l.slots ++
  bytesOf 4 h.subs ++ bytesOf 4 h.drops ++ bytesOf 4 h.tiles

/-- Write a saucer's counters. -/
def Bowl.write (b : Bowl) (h : Saucer) : Act Unit := cdWrite b.l (b.l.saucer b.e) (saucerBytes b.l h)

/-- Change a saucer's counters. -/
def Bowl.upd (b : Bowl) (f : Saucer → Saucer) : Act Unit := do
  let h ← b.read
  b.write (f h)

/-- How far counter `a` is ahead of counter `b` (R410: modulo 2^32). -/
def ahead (a b : Nat) : Nat := (a + 2 ^ 32 - b) % 2 ^ 32

/-- Slot numbers of the waiting range, from DISP to FULL. -/
def Bowl.range (b : Bowl) (h : Saucer) : List Nat := (upto h.disp (ahead h.full h.disp)).map fun n => n % b.l.slots

/-- The state of a slot's tag (12 R365): 0 empty, 1 filling, 2 full, 3 draining. -/
def Bowl.tagState (b : Bowl) (i : Nat) : Act Nat := do
  let x ← cdRead b.l (b.l.tagVa b.e i) 8
  return nbits (ofBytes x) 0 2

/-- Set a slot's tag: its state, with LANDED 0 or the whole slot. -/
def Bowl.setTag (b : Bowl) (i st : Nat) (whole : Bool) : Act Unit :=
  cdWrite b.l (b.l.tagVa b.e i) (bytesOf 8 (st + (if whole then b.l.slotb else 0) * 2 ^ 8 + b.l.slotb * 2 ^ 32))

/-- A slot's header. -/
def Bowl.slot (b : Bowl) (i : Nat) : Act (List Byte) := cdRead b.l (b.l.slotVa b.e i) 64

/-- Slots that wait: those of the waiting range that have not been moved or dropped. -/
def Bowl.waiting (b : Bowl) : Act (List Nat) := do
  let h ← b.read
  let l ← collect (b.range h) fun i => do
    let t ← b.tagState i
    return (i, t)
  return (l.filter fun e => e.2 = 2).map (·.1)

/-- Pass freed slots: HEAD goes on past them, and DISP past those at the front of the waiting range (R424, R428). -/
def Bowl.settle (b : Bowl) : Act Unit := do
  let h ← b.read
  let l ← collect (b.range h) b.tagState
  let n := (l.takeWhile fun t => t = 0).length
  let disp := (h.disp + n) % 2 ^ 32
  let d ← collect ((upto h.head (ahead disp h.head)).map fun i => i % b.l.slots) b.tagState
  b.write { h with disp := disp, head := (h.head + (d.takeWhile fun t => t = 0).length) % 2 ^ 32 }
  modify fun s => s.updTag b.tag fun e => { e with times := e.times.drop n }

/-- Fields of a slot's header (R411). -/
def slotJob (l : List Byte) : Nat := nbits (ofBytes ((l.drop 0xE).take 2)) 0 12
def slotMask (l : List Byte) : Nat := ofBytes ((l.drop 0xC).take 2)
def slotWeight (l : List Byte) : Word := BitVec.ofNat 32 (ofBytes ((l.drop 8).take 4))
def slotHandle (l : List Byte) : DWord := BitVec.ofNat 64 (ofBytes ((l.drop 0x10).take 8))
def slotAlt (l : List Byte) : Nat := ofBytes ((l.drop 0x18).take 8)
def slotServed (l : List Byte) : Nat := ofBytes ((l.drop 0x20).take 4)

/-- SERVED (R411). -/
def servedWord (expert how fmt : Nat) : List Byte := bytesOf 4 (expert % 2 ^ 12 + how * 2 ^ 12 + fmt * 2 ^ 16)

/-! Drops (R425). -/

/-- Send a drop notice and count the copy as consumed at an interface. -/
def sendNotice (ifc : Nat) (handle : DWord) (w : Word) (mask job : Nat) (rn : Bool) : Act Unit := do
  let s ← get
  sendComb ifc { handle := handle, weight := w, mask := mask, fy := 0, h := 0, row := none, rn := rn, job := job
                 srcDev := s.devId, srcCore := none }
  modify fun s => consumed job ifc { s with cd := { s.cd with drops := (s.cd.drops + 1) % 2 ^ 32 } }

/-- Drop a slot: its notice goes out, it is consumed at `ifc`, and it is empty (R424, R425). -/
def Bowl.dropSlot (b : Bowl) (ifc i : Nat) (rn : Bool) : Act Unit := do
  let x ← b.slot i
  sendNotice ifc (slotHandle x) (slotWeight x) (slotMask x) (slotJob x) rn
  b.upd fun h => { h with drops := (h.drops + 1) % 2 ^ 32 }
  b.setTag i 0 false

/-- Drop every waiting slot. -/
def Bowl.dropAll (b : Bowl) (rn : Bool) : Act Unit := do
  let l ← b.waiting
  each l fun i => b.dropSlot b.l.lcl i rn
  b.settle

/-! Tile decisions (R422, R423). -/

/-- HOW a tile serves its slots (R411). -/
def howOwn : Nat := 0
def howFormat : Nat := 1
def howSub : Nat := 2
def howAlt : Nat := 3

/-- The record of an expert tile: the layer's nest with AFF and the four arguments replaced (R423). -/
def expertRecord (b : Bowl) (c : ExpertCopy) (sec : Bool) (first count how expert key : Nat) : List Byte :=
  let arg0 := b.l.saucer b.e / 256 + first * 2 ^ 54
  let arg1 := count + b.l.slotb * 2 ^ 16 + b.l.h * 2 ^ 32 + b.l.vf * 2 ^ 48 + b.l.fmt sec * 2 ^ 52
  let arg2 := c.addr + how * 2 ^ 32 + expert * 2 ^ 36
  patchBytes 0x60 (bytesOf 8 arg0 ++ bytesOf 8 arg1 ++ bytesOf 8 arg2 ++ bytesOf 8 key)
    (patchBytes 4 (bytesOf 2 (2 ^ c.slice)) (if sec then b.l.recS else b.l.recP))

/-- Free the slots of a tile (R424): dropped first where it did not commit. -/
def freeTile (x : ExpertTile) (committed : Bool) : Act Unit := do
  let s ← get
  let key := (s.tag x.saucer).key
  match layerOf s key with
  | none => pure ()
  | some l =>
    let b : Bowl := ⟨l, keyExpert key, x.saucer⟩
    each (upto x.first x.count) fun i =>
      if committed then do
        let y ← b.slot i
        modify (consumed (slotJob y) x.slice)
        b.setTag i 0 false
      else b.dropSlot x.slice i false
    b.settle
    modify fun s => s.updCopyOf x.tag x.sec fun c => { c with pins := c.pins - 1 }

/-- Enqueue a tile's nest with the layer's region as issuer (R423, 06 R518): FULL leaves it waiting, any other failure
drops its slots. -/
def enqueueTile (x : ExpertTile) : Act Unit := do
  let s ← get
  let issuer := ((layerOf s (s.tag x.saucer).key).map (·.region)).getD 0
  match ← enqueue (fun s _ => !(effRegion s issuer).valid) (some x.record) 2 with
  | .ok nid => modify fun s => { s with cd := { s.cd with tiles := s.cd.tiles ++ [{ x with nid := some nid }] } }
  | .error .full => modify fun s => { s with cd := { s.cd with tiles := s.cd.tiles ++ [x] } }
  | .error _ => freeTile x false

/-- Decide one tile for a saucer on the copy (`on`, `sec`) (R423): it takes the slots from DISP on,
at most 64, up to the ring's end or a slot that has been moved away. With `moved` only slots that were moved here.
False where nothing can be decided; with 4,095 pins on the copy the decision waits (R419). -/
def decideTile (b : Bowl) (on : Nat) (sec : Bool) (how : Nat) (moved : Bool) : Act Bool := do
  let h ← b.read
  let first := h.disp % b.l.slots
  let s ← get
  let c := (s.tag on).copyAt sec
  let cand := (b.range h).take (Nat.min 64 (b.l.slots - first))
  let l ← collect cand fun i => do
    let t ← b.tagState i
    let x ← b.slot i
    return (i, t, slotServed x)
  let mine := l.takeWhile fun e => e.2.1 = 2 && (!moved || nbits e.2.2 12 4 = howAlt)
  let count := mine.length
  if count = 0 then return false
  else if c.pins ≥ 4095 then
    modify fun s => s.updTag b.tag fun e => { e with stuck := some (on, sec, how, moved) }
    return false
  else
    let expert := keyExpert (s.tag on).key
    each mine fun e => do
      b.setTag e.1 3 true
      let how := if nbits e.2.2 12 4 = howAlt then howAlt else how
      cdWrite b.l (b.l.slotVa b.e e.1 + 0x20) (servedWord expert how (b.l.fmt sec))
    let sub := how = howFormat || how = howSub
    b.write { h with
      disp := (h.disp + count) % 2 ^ 32, tiles := (h.tiles + 1) % 2 ^ 32, subs := if sub then (h.subs + count) % 2 ^ 32 else h.subs }
    modify fun s =>
      let s := s.updTag b.tag fun e => { e with times := e.times.drop count }
      let s := s.updCopyOf on sec fun c => { c with pins := c.pins + 1, ahead := false }
      let s := s.updTag on fun e => { e with uses := Nat.min (e.uses + 1) (2 ^ 32 - 1), lastUse := (s.cd.counter + 1) % 2 ^ 32 }
      { s with cd := { s.cd with
          counter := (s.cd.counter + 1) % 2 ^ 32
          subs := if sub then (s.cd.subs + count) % 2 ^ 32 else s.cd.subs
          steepUsed := if c.ahead then (s.cd.steepUsed + 1) % 2 ^ 32 else s.cd.steepUsed } }
    enqueueTile { saucer := b.tag, tag := on, sec := sec, slice := c.slice, first := first, count := count
                  record := expertRecord b c sec first count how expert (s.tag b.tag).key }
    b.settle
    return true

/-- Decide tiles on a copy while slots wait. -/
def decideAll (b : Bowl) (on : Nat) (sec : Bool) (how : Nat) : Nat → Act Unit
  | 0 => pure ()
  | n + 1 => do
    if ← decideTile b on sec how false then decideAll b on sec how n else pure ()

/-- The copy on which the caddy decides tiles of a key by itself (R422), and whether only for slots moved here
(R428). -/
def ownCopy (s : State) (tag : Nat) : Option (Bool × Bool) :=
  let e := s.tag tag
  if e.prim.run = 2 then some (false, false) else if e.sec.run = 2 then some (true, true) else none

/-- Decide tiles while 64 slots wait (R422). -/
def decideFull (b : Bowl) : Nat → Act Unit
  | 0 => pure ()
  | n + 1 => do
    let s ← get
    match ownCopy s b.tag with
    | none => pure ()
    | some (sec, moved) =>
      let l ← b.waiting
      if l.length < 64 then pure ()
      else if ← decideTile b b.tag sec howOwn moved then decideFull b n
      else pure ()

/-! Absence (R427, R428). -/

/-- Fields of ABSENCE (R427). -/
def absThresh (r : Region) : Nat := nbits r.absence 32 32
def absFall (r : Region) : Nat := nbits r.absence 10 2
def absAlt (r : Region) : Bool := nbits r.absence 9 1 = 1
def absDes (r : Region) : Bool := nbits r.absence 8 1 = 1
def absOth (r : Region) : Bool := nbits r.absence 7 1 = 1
def absNoFetch (r : Region) : Bool := nbits r.absence 3 1 = 1
def absMode (r : Region) : Nat := nbits r.absence 0 3

/-- A resident copy of a key, the primary one first (R428). -/
def residentCopy (s : State) (key : Nat) : Option (Nat × Bool) :=
  match findTag s key with
  | none => none
  | some i => if (s.tag i).prim.run = 2 then some (i, false) else if (s.tag i).sec.run = 2 then some (i, true) else none

/-- Put a slot into a saucer that has room (R421): its header, its vector and its tag. -/
def Bowl.landSlot (b : Bowl) (l : List Byte) : Act Unit := do
  let h ← b.read
  let i := h.next % b.l.slots
  b.write { h with next := (h.next + 1) % 2 ^ 32 }
  b.setTag i 1 false
  cdWrite b.l (b.l.slotVa b.e i) (l.take b.l.slotb)
  b.setTag i 2 true
  b.write { h with next := (h.next + 1) % 2 ^ 32, full := (h.full + 1) % 2 ^ 32 }
  modify fun s => s.updTag b.tag fun e => { e with times := e.times ++ [s.cycle] }

/-- Bytes of a vector of the layer. -/
def Layer.vecBytes (l : Layer) : Nat := l.h * gateZ l.vf

/-- Is a saucer's ring full (R421)? -/
def Bowl.ringFull (b : Bowl) : Act Bool := do
  let h ← b.read
  return decide (ahead h.next h.head ≥ b.l.slots)

/-- Experts of the valid alternates of a slot, ALT0 first (R411). -/
def altsOf (l : List Byte) : List Nat :=
  let a := slotAlt l
  ((upto 0 4).filter fun j => nbits a (48 + j) 1 = 1).map fun j => nbits a (12 * j) 12

/-- Move a waiting slot to the saucer of the first alternate with a resident copy, where its ring has room (R428). -/
def moveSlot (b : Bowl) (i : Nat) : Act Unit := do
  let s ← get
  let x ← b.slot i
  let key := fun e => keyLayer (s.tag b.tag).key * 2 ^ 12 + e
  match (altsOf x).find? fun e => decide (e < b.l.e) && (residentCopy s (key e)).isSome with
  | none => pure ()
  | some e =>
    match residentCopy s (key e) with
    | none => pure ()
    | some (j, sec) =>
      let dest : Bowl := ⟨b.l, e, j⟩
      if ← dest.ringFull then pure ()
      else
        let v ← cdRead b.l (b.l.slotVa b.e i + 64) b.l.vecBytes
        dest.landSlot (patchBytes 0x20 (servedWord e howAlt (b.l.fmt sec)) x ++ v)
        modify fun s => consumed (slotJob x) b.l.lcl (injected (slotJob x) b.l.lcl s)
        b.setTag i 0 false
        b.upd fun h => { h with subs := (h.subs + 1) % 2 ^ 32 }
        modify fun s => { s with cd := { s.cd with subs := (s.cd.subs + 1) % 2 ^ 32 } }
        decideFull dest b.l.slots

/-- The steps of SUBST (R428). -/
def substitute (b : Bowl) (r : Region) : Act Unit := do
  let s ← get
  let e := s.tag b.tag
  let sub := residentCopy s (keyLayer e.key * 2 ^ 12 + nbits e.sub 0 12)
  if absOth r && e.sec.run = 2 then decideAll b b.tag true howFormat b.l.slots
  else if absDes r && nbits e.sub 15 1 = 1 && sub.isSome then
    match sub with
    | some (j, sec) => decideAll b j sec howSub b.l.slots
    | none => pure ()
  else if absAlt r then
    let l ← b.waiting
    each l (moveSlot b)
    b.settle
  else pure ()

/-- FALL (R427). -/
def fall (b : Bowl) (r : Region) : Act Unit := do
  let l ← b.waiting
  if l.isEmpty then pure ()
  else
    match absFall r with
    | 0 => pure ()
    | 1 => b.dropAll false
    | 2 => b.dropAll true
    | _ =>
      b.dropAll false
      postEvent b.l.region .expertAbsent

/-- FALL after SUBST: slots whose decision waits for a pin do not fall (R419). -/
def fallUnlessStuck (b : Bowl) (r : Region) : Act Unit := do
  let s ← get
  if (s.tag b.tag).stuck.isSome then pure () else fall b r

/-- The absence policy acts on a key (R427); `lost` says that the key has no source. -/
def absencePolicy (b : Bowl) (lost : Bool) : Act Unit := do
  let s ← get
  let r := effRegion s b.l.region
  modify fun s => s.updTag b.tag fun e => { e with acted := some s.cycle, stuck := none, lost := e.lost || lost }
  match absMode r with
  | 1 =>
    substitute b r
    fallUnlessStuck b r
  | 2 => b.dropAll false
  | 3 => b.dropAll true
  | 4 => pure ()
  | _ => if lost then fall b r else pure ()

/-- Do something for a layer; a fault of an access leaves everything as it was and is posted to the layer's region
(02 R517). -/
def caddyTry (region : Nat) (a : Act Unit) : Act Unit := do
  match ← unitTry a with
  | .ok _ => pure ()
  | .error (code, va) => postEvent region code va

/-- The key has no source for its primary copy, and none is under way (R427). -/
def lostKey (s : State) (b : Bowl) : Bool := (s.tag b.tag).prim.run = 0 && (sourceOf s (s.tag b.tag) b.l.pp).isNone

/-- Where the saucer of an entry is, if its layer is loaded and has that expert (R421). -/
def bowlOf (s : State) (tag : Nat) : Option Bowl :=
  let key := (s.tag tag).key
  match layerOf s key with
  | none => none
  | some l => if keyExpert key < l.e then some ⟨l, keyExpert key, tag⟩ else none

/-- Make a decision that has waited for a pin (R419): one of the absence policy goes on with FALL (R427). -/
def decideAgain (b : Bowl) (on : Nat) (sec : Bool) (how : Nat) (moved : Bool) : Act Unit := do
  modify fun s => s.updTag b.tag fun e => { e with stuck := none }
  if how = howOwn then
    let _ ← decideTile b on sec how moved
    decideFull b b.l.slots
  else
    decideAll b on sec how b.l.slots
    let s ← get
    fallUnlessStuck b (effRegion s b.l.region)

/-- A pin has been released: decisions that wait for one are tried again (R419). -/
def pinReleased : Act Unit := do
  let s ← get
  each s.cd.tags fun e => do
    match e.2.stuck, bowlOf s e.1 with
    | some (on, sec, how, moved), some b =>
      match ← attemptUndo (caddyTry b.l.region (decideAgain b on sec how moved)) with
      | .ok _ => pure ()
      | .error e => askFor e
    | _, _ => pure ()

end Sys2Proof.Machine
end

