-- ==== Sys2Proof/Machine/CaddyEvents.lean ====
section
/-! DEFINITION. What happens at the caddy: copies arriving, deadlines, tiles retiring, fetches, the flash ports and the
steeper (14 R412–R417, R421–R433). -/

namespace Sys2Proof.Machine

/-! Copies (R421). -/

/-- Put a copy into its saucer and do what follows (R414, R421, R422, R427). -/
def landCopy (b : Bowl) (m : CopyMsg) : Act Unit := do
  let before ← b.waiting
  let h ← b.read
  b.landSlot (slotHeader m ++ m.vec.take b.l.vecBytes)
  let s ← get
  let e := s.tag b.tag
  let r := effRegion s b.l.region
  if e.prim.run = 2 then decideFull b b.l.slots
  else
    let src := (sourceOf s e b.l.pp).isSome
    if src && !absNoFetch r then modify (demandFetch b.l b.tag false) else pure ()
    if absMode r = 4 then
      if before.isEmpty then postEvent b.l.region .expertAbsent else pure ()
      b.dropSlot b.l.lcl (h.next % b.l.slots) false
      b.settle
    else if e.prim.run = 0 && !src then absencePolicy b true
    else decideFull b b.l.slots

/-- A copy at the caddy (R421): without a slot it is dropped, with a full ring it waits, and so it does while the expert is
evicted (R420). -/
def arriveCopy (m : CopyMsg) : Act Unit := do
  let s ← get
  match (findTag s m.key).bind (bowlOf s) with
  | none => sendNotice m.srcCluster m.handle m.weight m.mask m.job false
  | some b => if (s.tag b.tag).prim.run = 3 then waitFor .memory else if ← b.ringFull then waitFor .memory else landCopy b m

/-- SAUCER_COPY_ARRIVE (R421): copy `idx` of those that have come, in the order of its cluster. -/
def execSaucerCopyArrive (s : State) : Host.Outcome State Fault Refusal :=
  let i := s.ev.idx
  match s.cd.arrivals[i]? with
  | none => .next s
  | some m =>
    event (fun s => !((s.cd.arrivals.take i).any fun x => x.srcDev = m.srcDev && x.srcCluster = m.srcCluster)) (do
      match ← unitTry (arriveCopy m) with
      | .ok _ => pure ()
      | .error (code, va) =>
        let s ← get
        match layerOf s m.key with
        | some l => postEvent l.region code va
        | none => pure ()
        sendNotice m.srcCluster m.handle m.weight m.mask m.job false
      modify fun s => { s with cd := { s.cd with arrivals := s.cd.arrivals.eraseIdx i } }) s

/-- Has the oldest waiting slot of a saucer waited `n` clocks since it became full, or since `from`? -/
def waitedSlot (s : State) (tag n : Nat) (since : Option Nat) : Bool :=
  match (s.tag tag).times with
  | [] => false
  | t :: _ => decide (Nat.max t (since.getD 0) + n ≤ s.cycle)

/-- FLUSH_DEADLINE (R422): of the saucer of entry `num`. -/
def execFlushDeadline (s : State) : Host.Outcome State Fault Refusal :=
  let i := s.ev.num
  match bowlOf s i, ownCopy s i with
  | some b, some (sec, moved) =>
    event (fun s => waitedSlot s i (if b.l.flush = 0 then 18000 else b.l.flush) none)
      (caddyTry b.l.region (do let _ ← decideTile b i sec howOwn moved)) s
  | _, _ => .next s

/-- ABSENCE_THRESHOLD (R427): of the key of entry `num`; one that has lost its source is handled at once. -/
def execAbsenceThreshold (s : State) : Host.Outcome State Fault Refusal :=
  let i := s.ev.num
  match bowlOf s i with
  | none => .next s
  | some b =>
    event (fun s => (s.tag i).prim.run ≠ 2 &&
        waitedSlot s i (if lostKey s b && !(s.tag i).lost then 0 else absThresh (effRegion s b.l.region)) (s.tag i).acted)
      (caddyTry b.l.region (do
        let s ← get
        absencePolicy b (lostKey s b))) s

/-! Expert tiles (R423, R424). -/

/-- Region of a tile's layer. -/
def tileRegion (s : State) (x : ExpertTile) : Nat := ((layerOf s (s.tag x.saucer).key).map (·.region)).getD 0

/-- EXPERT_ENQUEUE_RETRY (R423): of tile `idx` of those decided. -/
def execExpertEnqueueRetry (s : State) : Host.Outcome State Fault Refusal :=
  match s.cd.tiles[s.ev.idx]? with
  | none => .next s
  | some x =>
    event (fun s => x.nid.isNone && x.gone.isNone && (freeSlot s).isSome) (caddyTry (tileRegion s x) (do
      modify fun s => { s with cd := { s.cd with tiles := s.cd.tiles.eraseIdx s.ev.idx } }
      enqueueTile x
      pinReleased)) s

/-- EXPERT_TILE_RETIRE (R424): of tile `idx` of those decided. -/
def execExpertTileRetire (s : State) : Host.Outcome State Fault Refusal :=
  match s.cd.tiles[s.ev.idx]? with
  | none => .next s
  | some x =>
    match x.gone with
    | none => .next s
    | some committed => event (fun _ => true) (caddyTry (tileRegion s x) (do
        modify fun s => { s with cd := { s.cd with tiles := s.cd.tiles.eraseIdx s.ev.idx } }
        freeTile x committed
        pinReleased)) s

/-! Images (R412, R413). -/

/-- Is an image valid for a key and format (R412)? -/
def imageValid (key fmt imgb : Nat) (l : List Byte) : Bool :=
  let at_ := fun o n => ofBytes ((l.drop o).take n)
  let f := at_ 0x10 1
  let np := at_ 0x14 4
  let pb := if nbits f 4 1 = 1 then 13056 else 12288
  let proj := fun i => at_ (0x20 + 8 * i) 8
  l.length = imgb && at_ 0 4 = 0x4641_454C && at_ 4 4 = 0 && at_ 8 8 = key && nbits f 0 4 = fmt && nbits f 5 3 = 0 &&
  decide (1 ≤ at_ 0x11 1 ∧ at_ 0x11 1 ≤ 4) && at_ 0x12 2 = 0 && at_ 0x1C 4 = 0 && at_ 0x48 56 = 0 &&
  imgb = 128 + np * pb &&
  ((upto 0 (at_ 0x11 1)).all fun i => decide (nbits (proj i) 32 32 + nbits (proj i) 0 16 * nbits (proj i) 16 16 ≤ np)) &&
  crc32c (patchBytes 0x18 (bytesOf 4 0) l) = at_ 0x18 4

/-- What a stored form brings (R413): the bytes that land, the blocks decoded, and whether one is malformed. -/
structure Brought where
  bytes : List Byte
  blocks : Nat := 0
  bad : Bool := false
  deriving DecidableEq, Repr

/-- Decode `n` leaf-code blocks up to a malformed one; the bytes of a block land before its CRC is checked (R413,
12 R374). -/
def decodeBlocks (table : Nat) : Nat → List Byte → Brought
  | 0, _ => { bytes := [] }
  | n + 1, l =>
    match (blockLen (ofBytes (l.take 8))).bind fun len => (decodeRaw table (l.take len)).map fun out => (len, out) with
    | none => { bytes := [], bad := true }
    | some (len, out) =>
      if !crcHolds l out then { bytes := out, bad := true }
      else
        let r := decodeBlocks table n (l.drop len)
        { bytes := out ++ r.bytes, blocks := r.blocks + 1, bad := r.bad }

/-- The image that a stored form stands for, as far as it can be decoded (R413). -/
def storedImage (cmp : Bool) (imgb : Nat) (l : List Byte) : Brought :=
  if !cmp then { bytes := l.take imgb }
  else
    let table := ofBytes ((l.drop 0x40).take 8)
    if overSubscribed table then { bytes := l.take 128, bad := true }
    else
      let r := decodeBlocks table ((imgb - 128 + 4095) / 4096) (l.drop 128)
      { r with bytes := (l.take 128 ++ r.bytes).take imgb }

/-! Fetches (R414–R418). -/

/-- Change fetch `i`. -/
def updFetch (i : Nat) (f : Fetch → Fetch) (s : State) : State :=
  let g := fun (e : Fetch × Nat) => if e.2 = i then f e.1 else e.1
  { s with cd := { s.cd with fetches := s.cd.fetches.zipIdx.map g } }

/-- Take fetch `i` off the list. -/
def dropFetch (i : Nat) (s : State) : State := { s with cd := { s.cd with fetches := s.cd.fetches.eraseIdx i } }

/-- Fetches in flight (R414). -/
def inFlightFetches (s : State) : Nat := (s.cd.fetches.filter (·.started)).length

/-- Translate the pages of a record (R418). -/
def holdPages (x : Ctx) (va n : Nat) : Act (List HeldPage) :=
  collect (upto (va / 0x1_0000) ((va + n + 0xFFFF) / 0x1_0000 - va / 0x1_0000)) fun p => do
    let a := Nat.max va (p * 0x1_0000)
    let loc ← translate x .read a
    let (lv, _) ← lookup x a
    return { asid := x.asid, va := p * 0x1_0000, log := pageLog lv, loc := loc - a % 0x1_0000 : HeldPage }

/-- Virtual address of the DRAM record's image (R407). -/
def dramVa (e : TagEnt) : Nat := (bits e.dram 0 56).toNat

/-- Hold the translation of the DRAM record of entry `i` (R418): false where it faults. -/
def holdRecord (i region : Nat) : Act Bool := do
  let s ← get
  let e := s.tag i
  if e.mapd then return true
  else
    match ← unitTry (holdPages ((effRegion s region).ctx none) (dramVa e) e.imgb) with
    | .ok l =>
      modify fun s => s.updTag i fun e => { e with mapd := true, held := l }
      return true
    | .error _ => return false

/-- Bytes of one Read: MDTS of the controller at a port, at most 1 MiB, and at least a page (R431; log 53). -/
def transferSize (p : Nat) : Nat := Nat.max 4096 (Nat.min (Config.mdts p) 0x10_0000)

/-- The NVMe Reads of at most `z` bytes that bring a stored form (R431). -/
def readsOf (z n since : Nat) : List NvmeCmd :=
  (upto 0 ((n + z - 1) / z)).map fun k => { off := k * z, len := Nat.min z (n - k * z), since := since }

/-- A key without a source is handled by the policy at once (R427). -/
def noSource (i : Nat) (sec : Bool) : Act Unit := do
  let s ← get
  match bowlOf s i with
  | some b => if sec || (s.tag i).times.isEmpty then pure () else absencePolicy b true
  | none => pure ()

/-- Fetch `n` starts with a place for its copy (R415, R416). -/
def beginFetch (n : Nat) (f : Fetch) (l : Layer) (flash : Bool) (p : Nat × Nat) (s : State) : State :=
  let s := allocate f.tag f.sec l p s
  let s := updFetch n (fun f => { f with
    started := true, flash := flash, cmds :=
      if flash then readsOf (transferSize (flashPort (s.tag f.tag))) (flashBytes (s.tag f.tag)) s.cycle else [] }) s
  if f.steeper then { s with cd := { s.cd with hints := (s.cd.hints + 1) % 2 ^ 32 } } else s

/-- Start fetch `n`, or evict what has to go first; a fetch ahead of time evicts nothing (R414–R416). -/
def startFetch (n : Nat) (f : Fetch) : Act Unit := do
  let s ← get
  match layerOf s (s.tag f.tag).key, sourceOf s (s.tag f.tag) f.fmt with
  | some l, some flash =>
    let need := extentsOf (s.tag f.tag)
    match placeFor s l need with
    | none =>
      if f.steeper then pure ()
      else set (((roomFor s l need).getD []).foldl (fun s v => evict v.1 v.2 s) s)
    | some p =>
      let ok ← if flash then pure true else holdRecord f.tag l.region
      modify (beginFetch n f l flash p)
      if ok then pure () else modify (updFetch n fun f => { f with failed := true })
  | _, _ =>
    modify fun s => dropFetch n (toAbsent f.tag f.sec s)
    caddyTry f.region (noSource f.tag f.sec)

/-- Can a demand fetch that has been asked for start now, once what it evicts has gone (R414, R415)? -/
def couldStart (s : State) (f : Fetch) : Bool :=
  !f.started && !f.steeper && decide (inFlightFetches s < 64) &&
  (match layerOf s (s.tag f.tag).key with
   | some l => (placeFor s l (extentsOf (s.tag f.tag))).isSome || (roomFor s l (extentsOf (s.tag f.tag))).isSome
   | none => true)

/-- FETCH_START (R415): of fetch `idx` of those asked for. -/
def execFetchStart (s : State) : Host.Outcome State Fault Refusal :=
  let n := s.ev.idx
  match s.cd.fetches[n]? with
  | none => .next s
  | some f =>
    event (fun s => !f.started && decide (inFlightFetches s < 64) &&
        (!f.steeper || !s.cd.fetches.any (couldStart s))) (startFetch n f) s

/-- Bytes of a DRAM record through the held translation (R416); free ones on a page that holds an unexchanged shadow
(12 R368). -/
def heldBytes (e : TagEnt) (off n : Nat) : Act (List Byte) :=
  collect (upto (dramVa e + off) n) fun a => do
    match e.held.find? fun h => h.va / 0x1_0000 = a / 0x1_0000 with
    | none => trap .xlateNotPresent a
    | some h =>
      let s ← get
      let loc := h.loc + a % 0x1_0000
      if isLocal loc then
        if s.m.shadows.contains (loc / 0x1_0000) then drawByte
        else if s.m.poison.contains (loc / 128) then trap .poisonConsumed a
        else return s.m.byte loc
      else remoteByte 0 a loc

/-- The pieces of 4 KiB of an image of `n` bytes: their numbers and lengths. -/
def imagePieces (n : Nat) : List (Nat × Nat) := (upto 0 ((n + 4095) / 4096)).map fun p => (p, Nat.min 4096 (n - 4096 * p))

/-- The image that a fetch brings (R413, R416): pieces that have landed are what they were then, those asked for (`want`)
are read now. -/
def fetchImage (f : Fetch) (want : Nat → Bool) : Act Brought := do
  let s ← get
  let e := s.tag f.tag
  if f.flash then
    let r := storedImage (flashCmp e) e.imgb ((f.data.map (·.2)).flatten)
    let l := (imagePieces r.bytes.length).map fun p => (SMap.find f.landed p.1).getD ((r.bytes.drop (4096 * p.1)).take 4096)
    return { r with bytes := l.flatten }
  else
    let l ← collect (imagePieces e.imgb) fun p =>
      match SMap.find f.landed p.1 with
      | some b => pure b
      | none => if want p.1 then heldBytes e (4096 * p.1) p.2 else pure (List.replicate p.2 0)
    return { bytes := l.flatten }

/-- Land bytes in the expert store (02 R50). -/
def landXs (a : Nat) (l : List Byte) (s : State) : State :=
  { s with m := { s.m with
      xs := (placed a l).foldl (fun b e => SMap.set 0 b e.1 e.2) s.m.xs
      xsPoison := s.m.xsPoison.filter fun p => !(decide (a ≤ p * 128) && decide (p * 128 + 128 ≤ a + l.length)) } }

/-- A fetched copy is resident (R416). -/
def becomeResident (n : Nat) (f : Fetch) : Act Unit := do
  modify fun s =>
    let s := dropFetch n (s.updCopyOf f.tag f.sec fun c => { c with run := 2, ahead := f.steeper })
    let s := s.updTag f.tag fun e => { e with lost := false }
    { s with cd := { s.cd with
        fetchFlash := if f.flash then (s.cd.fetchFlash + 1) % 2 ^ 32 else s.cd.fetchFlash
        fetchDram := if f.flash then s.cd.fetchDram else (s.cd.fetchDram + 1) % 2 ^ 32 } }
  let s ← get
  match bowlOf s f.tag with
  | some b => caddyTry b.l.region (decideFull b b.l.slots)
  | none => pure ()

/-- Land 4 KiB pieces of an image that starts at an expert-store address; the engine of the slice's cluster counts their
bytes (12 R378). -/
def landPieces (n at_ : Nat) (l : List Byte) (ps : List Nat) (s : State) : State :=
  ps.foldl (fun s p =>
    let b := (l.drop (p * 4096)).take 4096
    let s := landXs (at_ + p * 4096) b (updFetch n (fun f => { f with landed := SMap.put f.landed p b }) s)
    s.updCluster (at_ / 2 ^ 24) fun y => { y with ceBytes := (y.ceBytes + b.length) % 2 ^ 64 }) s

/-- The infuser of a slice's cluster counts the blocks it has decoded, and a malformed one (12 R378). -/
def countBlocks (at_ : Nat) (r : Brought) (s : State) : State :=
  s.updCluster (at_ / 2 ^ 24) fun y => { y with
    ceBlocks := (y.ceBlocks + r.blocks) % 2 ^ 32, ceBad := (y.ceBad + if r.bad then 1 else 0) % 2 ^ 32 }

/-- FETCH_COMPLETE (R416): of fetch `idx`; with `flag` only the image's 4 KiB piece `num` lands so far. -/
def execFetchComplete (s : State) : Host.Outcome State Fault Refusal :=
  let n := s.ev.idx
  let piece := s.ev.num
  let part := s.ev.flag
  match s.cd.fetches[n]? with
  | none => .next s
  | some f =>
    event (fun _ => f.started && !f.failed && f.cmds.isEmpty && !(part && (SMap.find f.landed piece).isSome)) (do
      match ← unitTry (fetchImage f fun p => !part || p = piece) with
      | .error _ => modify (updFetch n fun f => { f with failed := true })
      | .ok r =>
        let s ← get
        let e := s.tag f.tag
        let at_ := (e.copyAt f.sec).addr
        if part then
          if piece * 4096 < r.bytes.length then set (landPieces n at_ r.bytes [piece] s) else pure ()
        else
          let rest := (upto 0 ((r.bytes.length + 4095) / 4096)).filter fun p => (SMap.find f.landed p).isNone
          set (countBlocks at_ r (landPieces n at_ r.bytes rest s))
          if !r.bad && imageValid e.key f.fmt e.imgb r.bytes then becomeResident n f
          else modify (updFetch n fun f => { f with failed := true })) s

/-- FETCH_FAIL (R417): of fetch `idx`, once none of its Reads is out. -/
def execFetchFail (s : State) : Host.Outcome State Fault Refusal :=
  let n := s.ev.idx
  match s.cd.fetches[n]? with
  | none => .next s
  | some f =>
    event (fun _ => f.started && f.failed && f.cmds.isEmpty) (do
      modify fun s => dropFetch n ((toAbsent f.tag f.sec s).updTag f.tag fun e =>
        if f.flash then { e with badf := true } else { e with badd := true })
      postEvent f.region .expertImageBad
      let s ← get
      match layerOf s (s.tag f.tag).key, sourceOf s (s.tag f.tag) f.fmt with
      | some l, some _ => modify (askFetch l f.tag f.sec f.steeper)
      | _, _ => caddyTry f.region (noSource f.tag f.sec)) s

/-! Flash ports (R431). -/

/-- A flash port counts an error (R437). -/
def flashError (p : Nat) (s : State) : State :=
  { s with cd := { s.cd with errors := SMap.put s.cd.errors p ((SMap.get 0 s.cd.errors p + 1) % 2 ^ 32) } }

/-- Where the staging area of a port keeps an offset of a stored form (R431, R437). -/
def stageAddr (s : State) (p off : Nat) : Nat :=
  let r := SMap.get (0 : DWord) s.cd.stage p
  (bits r 20 36).toNat * 2 ^ 20 + off % (Nat.max 1 (bits r 0 8).toNat * 2 ^ 20)

/-- NVME_COMPLETION (R431): of the Read at offset `num` of fetch `idx`, with its `bytes`, or with `flag` an error. The rule
does not say whether the bytes that land in the staging area take a stamp; here they are committed with a new one (DESIGN
CHOICE, log 56). -/
def execNvmeCompletion (s : State) : Host.Outcome State Fault Refusal :=
  let n := s.ev.idx
  let e := s.ev
  match s.cd.fetches[n]? with
  | none => .next s
  | some f =>
    match f.cmds.find? fun c => c.off = e.num with
    | none => .next s
    | some c =>
      let p := flashPort (s.tag f.tag)
      event (fun _ => e.flag || e.bytes.length = c.len) (do
        if e.flag then modify fun s => flashError p (updFetch n (fun f => { f with failed := true, cmds := f.cmds.filter (· ≠ c) }) s)
        else
          let s ← get
          let a := stageAddr s p c.off
          if a + c.len > Config.memBytes then throw (.fault (.noSuchPhysical a))
          else set (commitLocal none (placed a e.bytes)
            (updFetch n (fun f => { f with cmds := f.cmds.filter (· ≠ c), data := SMap.put f.data c.off e.bytes }) s))) s

/-- NVME_TIMEOUT (R431): Reads of fetch `idx` have not completed within 1,800,000 clocks; each counts. -/
def execNvmeTimeout (s : State) : Host.Outcome State Fault Refusal :=
  let n := s.ev.idx
  match s.cd.fetches[n]? with
  | none => .next s
  | some f =>
    let late := f.cmds.filter fun c => decide (c.since + 1800000 ≤ s.cycle)
    event (fun _ => !late.isEmpty) (modify fun s =>
      let s := updFetch n (fun f => { f with failed := true, cmds := f.cmds.filter fun c => !late.contains c }) s
      late.foldl (fun s _ => flashError (flashPort (s.tag f.tag)) s) s) s

/-! The steeper (R432, R433). -/

/-- Fields of PREFETCH (R432). -/
def preXsb (r : Region) : Nat := nbits r.prefetch 32 32
def preKp (r : Region) : Nat := Nat.min 16 (nbits r.prefetch 16 16)
def preOut (r : Region) : Nat := nbits r.prefetch 0 16

/-- Extents of a region's copies that were fetched ahead and not used. -/
def aheadExtents (s : State) (region : Nat) : Nat :=
  (((allCopies s).filter fun c => c.2.2.ahead && c.2.2.region = region).map fun c => c.2.2.n).sum +
  ((s.cd.fetches.filter fun f => f.steeper && f.region = region).map fun f => ((s.tag f.tag).copyAt f.sec).n).sum

/-- Start the demand fetches that can start: they come before fetches ahead of time (R414). -/
def startDemands : Nat → Act Unit
  | 0 => pure ()
  | n + 1 => do
    startDemands n
    let s ← get
    match s.cd.fetches[n]? with
    | none => pure ()
    | some f => if couldStart s f then startFetch n f else pure ()

/-- Start a fetch of a key ahead of time, where it fits (R433). -/
def hint (l : Layer) (r : Region) (key : Nat) : Act Unit := do
  let s ← get
  match findTag s key with
  | none => pure ()
  | some i =>
    if (s.tag i).prim.run ≠ 0 || (sourceOf s (s.tag i) l.pp).isNone then pure ()
    else
      startDemands s.cd.fetches.length
      let s ← get
      let n := extentsOf (s.tag i)
      if decide ((s.cd.fetches.filter fun f => f.steeper && f.region = l.region).length ≥ preOut r) ||
          decide (aheadExtents s l.region + n > preXsb r) || decide (inFlightFetches s ≥ 64) || (placeFor s l n).isNone then
        pure ()
      else
        set (askFetch l i false true s)
        startFetch s.cd.fetches.length { tag := i, sec := false, fmt := l.pp, region := l.region, steeper := true }

/-- STEEPER_SCORE (R433). -/
def execSteeperScore (s : State) : Host.Outcome State Fault Refusal :=
  match s.cd.steep with
  | none => .next s
  | some (layer, x) =>
    event (fun _ => true) (do
      let s ← get
      match SMap.find s.cd.layers layer with
      | none => pure ()
      | some from_ =>
        let g := s.gate from_.nxCluster from_.nxSet
        match SMap.find s.cd.layers g.layer with
        | none => pure ()
        | some l =>
          let r := effRegion s l.region
          if g.run ≠ 2 || !from_.nxv then pure ()
          else
            let n := if preKp r = 0 then g.k else preKp r
            each ((gateChoice g x (Nat.min n g.e)).1) fun i => hint l r (g.layer * 2 ^ 12 + g.expert i)
      modify fun s => { s with cd := { s.cd with steep := none } }) s

end Sys2Proof.Machine
end

