-- ==== Sys2Proof/Decode.lean ====
section
/-! DEFINITION. Decoding of plain words, bundles and templates, and the encoder that inverts it (04 R94-R110).
Each decoder is total: an encoding that the map leaves unassigned becomes `illegalOpcode`, whose meaning takes the
trap of R109, and bytes that end too early are refused by name. -/

namespace Sys2Proof

/-- Why the decoder refuses a byte list. -/
inductive DecodeReject
  /-- The list ends before the instruction does. -/
  | tooShort
  deriving DecidableEq, Repr

/-! Fields of the five formats (R94). -/

def rdR3 (w : Word) : R3 := ⟨bits w 14 6, bits w 8 6, bits w 2 6⟩
def rdR3F (w : Word) : R3F := ⟨bits w 14 6, bits w 8 6, bits w 2 6, bits w 0 2⟩
def rdRI (w : Word) : RI := ⟨bits w 14 6, bits w 8 6, bits w 0 8⟩
def rdRL (w x : Word) : RL := ⟨bits w 14 6, bits w 8 6, bits w 0 8, x⟩
def rdRL5 (w x : Word) : RL5 := ⟨bits w 14 6, bits w 8 6, bits w 3 5, x⟩
def rdRL4 (w x : Word) : RL4 := ⟨bits w 14 6, bits w 8 6, bits w 4 4, x⟩
def rdB (w : Word) : BOff := ⟨bits w 0 20⟩
def rdCmd (w x : Word) : Cmd := ⟨bits w 14 6, bits w 8 6, bits w 0 8, bits x 0 24⟩

/-- Commands by subcommand (R107); an unlisted one is ILLEGAL_OPCODE (R109). -/
def decodeCommand (w x : Word) : Instr :=
  match (bits x 24 8).toNat with
  | 1 => .nestq (rdCmd w x)
  | 2 => .nestf (rdCmd w x)
  | 3 => .nestr (rdCmd w x)
  | 4 => .nests (rdCmd w x)
  | 16 => .cpy (rdCmd w x)
  | 17 => .cpys (rdCmd w x)
  | 18 => .cpyt (rdCmd w x)
  | 19 => .cpyd (rdCmd w x)
  | 20 => .lease (rdCmd w x)
  | 21 => .lrel (rdCmd w x)
  | 32 => match (bits w 0 1).toNat with
    | 1 => .msendH (rdCmd w x)
    | _ => .msendP (rdCmd w x)
  | 33 => .disp (rdCmd w x)
  | 34 => .cmb (rdCmd w x)
  | 35 => .qwait (rdCmd w x)
  | 36 => .qread (rdCmd w x)
  | 48 => .rlook (rdCmd w x)
  | 49 => .rpin (rdCmd w x)
  | 50 => .runpin (rdCmd w x)
  | 51 => .rfetch (rdCmd w x)
  | 52 => .revict (rdCmd w x)
  | 53 => match (bits w 0 2).toNat with
    | 1 => .rpolUnlayer (rdCmd w x)
    | 2 => .rpolCat (rdCmd w x)
    | 3 => .rpolUncat (rdCmd w x)
    | _ => .rpolLayer (rdCmd w x)
  | 64 => match (bits w 0 1).toNat with
    | 1 => .sqopenClose (rdCmd w x)
    | _ => .sqopen (rdCmd w x)
  | 65 => .sqframe (rdCmd w x)
  | 66 => .sqtrunc (rdCmd w x)
  | 67 => .sqckpt (rdCmd w x)
  | 68 => .sqspec (rdCmd w x)
  | 69 => .sqcmit (rdCmd w x)
  | 70 => match (bits w 0 2).toNat with
    | 1 => .sqcurPlay (rdCmd w x)
    | 2 => .sqcurKv (rdCmd w x)
    | _ => .sqcurRead (rdCmd w x)
  | 80 => .prel (rdCmd w x)
  | 81 => .pstat (rdCmd w x)
  | _ => .illegalOpcode

/-- CTL words (R105); `x` is the word that follows. -/
def decodeCtl (w x : Word) : Instr :=
  match (bits w 26 6).toNat with
  | 0 => match (bits w 0 2).toNat with
    | 0 => .add (rdR3 w)
    | 1 => .sub (rdR3 w)
    | 2 => .min (rdR3 w)
    | _ => .max (rdR3 w)
  | 1 => match (bits w 0 2).toNat with
    | 0 => .minu (rdR3 w)
    | 1 => .maxu (rdR3 w)
    | _ => .illegalOpcode
  | 2 => match (bits w 0 2).toNat with
    | 0 => .and (rdR3 w)
    | 1 => .or (rdR3 w)
    | 2 => .xor (rdR3 w)
    | _ => .andn (rdR3 w)
  | 3 => match (bits w 0 2).toNat with
    | 0 => .shl (rdR3 w)
    | 1 => .shr (rdR3 w)
    | 2 => .sar (rdR3 w)
    | _ => .ror (rdR3 w)
  | 4 => match (bits w 0 2).toNat with
    | 0 => .mul (rdR3 w)
    | 1 => .mulh (rdR3 w)
    | 2 => .mulhu (rdR3 w)
    | _ => .illegalOpcode
  | 5 => match (bits w 0 2).toNat with
    | 0 => .div (rdR3 w)
    | 1 => .divu (rdR3 w)
    | 2 => .rem (rdR3 w)
    | _ => .remu (rdR3 w)
  | 6 => .addi (rdRI w)
  | 7 => .andi (rdRI w)
  | 8 => .ori (rdRI w)
  | 9 => .xori (rdRI w)
  | 10 => .shli (rdRI w)
  | 11 => .shri (rdRI w)
  | 12 => .sari (rdRI w)
  | 13 => .li (rdRL w x)
  | 14 => .lih (rdRL w x)
  | 15 => match (bits w 0 2).toNat with
    | 0 => .clz (rdR3 w)
    | 1 => .ctz (rdR3 w)
    | 2 => .popc (rdR3 w)
    | _ => .illegalOpcode
  | 16 => .bfx (rdRL w x)
  | 17 => .bfxu (rdRL w x)
  | 18 => .bfi (rdRL w x)
  | 19 => .lea (rdR3F w)
  | 20 => .sel (rdRL w x)
  | 21 => match (bits w 0 2).toNat with
    | 0 => .cmpEq (rdR3 w)
    | 1 => .cmpNe (rdR3 w)
    | 2 => .cmpLt (rdR3 w)
    | _ => .cmpLe (rdR3 w)
  | 22 => match (bits w 0 2).toNat with
    | 0 => .cmpLtu (rdR3 w)
    | 1 => .cmpLeu (rdR3 w)
    | _ => .illegalOpcode
  | 23 => match (bits w 0 3).toNat with
    | 0 => .cmpiEq (rdRL5 w x)
    | 1 => .cmpiNe (rdRL5 w x)
    | 2 => .cmpiLt (rdRL5 w x)
    | 3 => .cmpiLe (rdRL5 w x)
    | 4 => .cmpiLtu (rdRL5 w x)
    | 5 => .cmpiLeu (rdRL5 w x)
    | _ => .illegalOpcode
  | 24 => .pset (rdRI w)
  | 25 => match (bits w 0 2).toNat with
    | 0 => .pmovAnd (rdR3 w)
    | 1 => .pmovOr (rdR3 w)
    | 2 => .pmovXor (rdR3 w)
    | _ => .pmovAndn (rdR3 w)
  | 26 => .br (rdB w)
  | 27 => .call (rdB w)
  | 28 => .jr (rdR3F w)
  | 29 => .loop (rdRL w x)
  | 30 => .lds (rdRL w x)
  | 31 => .sts (rdRL w x)
  | 32 => match (bits w 0 4).toNat with
    | 0 => .atomAdd (rdRL4 w x)
    | 1 => .atomAnd (rdRL4 w x)
    | 2 => .atomOr (rdRL4 w x)
    | 3 => .atomXor (rdRL4 w x)
    | 4 => .atomMin (rdRL4 w x)
    | 5 => .atomMax (rdRL4 w x)
    | 6 => .atomMinu (rdRL4 w x)
    | 7 => .atomMaxu (rdRL4 w x)
    | 8 => .atomSwp (rdRL4 w x)
    | _ => .illegalOpcode
  | 33 => .cas (rdRL w x)
  | 34 => .tkwait (rdRI w)
  | 35 => .tkpost (rdRI w)
  | 36 => .semwait (rdRL w x)
  | 37 => .semadd (rdRL w x)
  | 38 => .semset (rdRL w x)
  | 39 => .arvw (rdR3F w)
  | 40 => .arvclr (rdR3F w)
  | 41 => .fence (rdR3F w)
  | 42 => .acq (rdR3F w)
  | 43 => .publish
  | 44 => .barv (rdR3F w)
  | 45 => .barw (rdR3F w)
  | 46 => .mqadv (rdR3F w)
  | 47 => .wset (rdR3F w)
  | 48 => .wrel (rdR3F w)
  | 49 => .hset (rdR3F w)
  | 50 => .tmpld (rdRL w x)
  | 51 => .trap (rdRI w)
  | 52 => match (bits w 0 2).toNat with
    | 1 => .rftSkip
    | 2 => .rftRedirect
    | _ => .rftRetry
  | 53 => .sysr (rdRL w x)
  | 54 => .sysw (rdRL w x)
  | 55 => .yield
  | 56 => match (bits w 0 2).toNat with
    | 1 => .tendAbort
    | 2 => .tendEsc
    | _ => .tend
  | 57 => .nop
  | 58 => decodeCommand w x
  | _ => .illegalOpcode

/-- LD words (R106). -/
def decodeLd (w x : Word) : Instr :=
  match (bits w 26 6).toNat with
  | 0 => .sbindLd (rdR3F w)
  | 1 => .sunbLd (rdR3F w)
  | 2 => .ldq (rdR3F w)
  | 3 => .gath (rdR3F w)
  | 4 => .ldt (rdRL w x)
  | 5 => .mfill (rdRL w x)
  | 6 => .pref (rdRL w x)
  | 7 => .nli (rdRL w x)
  | 8 => .nadd (rdR3F w)
  | 9 => .naddi (rdRI w)
  | 10 => match (bits w 0 2).toNat with
    | 0 => .ncmpEq (rdR3 w)
    | 1 => .ncmpNe (rdR3 w)
    | 2 => .ncmpLt (rdR3 w)
    | _ => .ncmpLe (rdR3 w)
  | 11 => match (bits w 0 2).toNat with
    | 0 => .ncmpLtu (rdR3 w)
    | 1 => .ncmpLeu (rdR3 w)
    | _ => .illegalOpcode
  | 12 => .nbr (rdB w)
  | 13 => .nloop (rdRL w x)
  | 34 => .tkwait (rdRI w)
  | 35 => .tkpost (rdRI w)
  | 41 => .fence (rdR3F w)
  | 43 => .publish
  | 57 => .nop
  | _ => .illegalOpcode

/-- ST words (R106). -/
def decodeSt (w x : Word) : Instr :=
  match (bits w 26 6).toNat with
  | 0 => .sbindSt (rdR3F w)
  | 1 => .sunbSt (rdR3F w)
  | 7 => .nli (rdRL w x)
  | 8 => .nadd (rdR3F w)
  | 9 => .naddi (rdRI w)
  | 10 => match (bits w 0 2).toNat with
    | 0 => .ncmpEq (rdR3 w)
    | 1 => .ncmpNe (rdR3 w)
    | 2 => .ncmpLt (rdR3 w)
    | _ => .ncmpLe (rdR3 w)
  | 11 => match (bits w 0 2).toNat with
    | 0 => .ncmpLtu (rdR3 w)
    | 1 => .ncmpLeu (rdR3 w)
    | _ => .illegalOpcode
  | 12 => .nbr (rdB w)
  | 13 => .nloop (rdRL w x)
  | 16 => .stq (rdR3F w)
  | 17 => .scat (rdR3F w)
  | 18 => .stt (rdRL w x)
  | 19 => match (bits w 0 4).toNat with
    | 0 => .atomvAdd (rdRL4 w x)
    | 1 => .atomvAnd (rdRL4 w x)
    | 2 => .atomvOr (rdRL4 w x)
    | 3 => .atomvXor (rdRL4 w x)
    | 4 => .atomvMin (rdRL4 w x)
    | 5 => .atomvMax (rdRL4 w x)
    | 6 => .atomvMinu (rdRL4 w x)
    | 7 => .atomvMaxu (rdRL4 w x)
    | 8 => .atomvSwp (rdRL4 w x)
    | _ => .illegalOpcode
  | 20 => .rput (rdRL w x)
  | 21 => .mwb (rdRL w x)
  | 34 => .tkwait (rdRI w)
  | 35 => .tkpost (rdRI w)
  | 41 => .fence (rdR3F w)
  | 43 => .publish
  | 57 => .nop
  | _ => .illegalOpcode

/-- A word read as an instruction: its guard, the row, and whether it has a nonzero bit in a reserved field of a row
that carries no operand (YIELD, PUBLISH, NOP, RFT, TEND), which traps RESERVED_FIELD (R96). -/
structure Decoded where
  g : BitVec 6
  i : Instr
  resv : Bool
  deriving DecidableEq, Repr

/-- The row that a word of a stream class names. -/
def decodeInstr : Strm → Word → Word → Instr
  | .ctl => decodeCtl
  | .ld => decodeLd
  | .st => decodeSt

/-- Operand bits [19:0] that a row without operands leaves unassigned (R156, R158, R160, R161, R145). -/
def strayBits (w : Word) : Instr → Bool
  | .yield | .publish | .nop => bits w 0 20 ≠ 0
  | .rftRetry | .rftSkip | .rftRedirect | .tend | .tendAbort | .tendEsc => bits w 2 18 ≠ 0 || bits w 0 2 = 3
  | _ => false

/-- Words of a stream class. -/
def decodeWord (strm : Strm) (w x : Word) : Decoded :=
  let i := decodeInstr strm w x
  ⟨bits w 20 6, i, strayBits w i⟩

/-- Opcodes whose format is RL or command, so that an extension word follows (R94, R95). -/
def hasExt (strm : Strm) (w : Word) : Bool :=
  let op := (bits w 26 6).toNat
  match strm with
  | .ctl => [13, 14, 16, 17, 18, 20, 23, 29, 30, 31, 32, 33, 36, 37, 38, 50, 53, 54, 58].contains op
  | .ld => [4, 5, 6, 7, 13].contains op
  | .st => [7, 13, 18, 19, 20, 21].contains op

/-- A word from the head of a byte list (R4). -/
def wordOfBytes (l : List Byte) : Word := BitVec.ofNat 32 (ofBytes (l.take 4))

/-- Decode one plain instruction from bytes, with the bytes that follow it. -/
def decodeBytes (strm : Strm) (l : List Byte) : Except DecodeReject (Decoded × List Byte) :=
  if l.length < 4 then .error .tooShort
  else
    let w := wordOfBytes l
    if hasExt strm w then
      if l.length < 8 then .error .tooShort
      else .ok (decodeWord strm w (wordOfBytes (l.drop 4)), l.drop 8)
    else .ok (decodeWord strm w 0, l.drop 4)

/-- Header word below its SLOTS field (R98). -/
def rdHdr (w : Word) : BundleHdr :=
  ⟨bits w 24 4, bits w 18 6, bits w 16 2, bits w 13 3, bits w 11 2, bits w 8 3, bits w 7 1, bits w 6 1, bits w 0 6⟩

/-- Patch word (R100). -/
def rdPatch (w : Word) : Patch := ⟨bits w 26 6, bits w 22 4, bits w 20 2, bits w 16 4, bits w 0 16⟩

/-- Slots of a header, M first. -/
def hdrSlots (w : Word) : List Bool :=
  [(bits w 31 1) = 1, (bits w 30 1) = 1, (bits w 29 1) = 1, (bits w 28 1) = 1]

/-- Number of words in a bundle (R98). -/
def bundleWords (w : Word) : Nat := 1 + ((hdrSlots w).filter id).length

/-- Patch words given to the present slots in order. -/
def givePatches : List Bool → List Word → List (Option Patch)
  | [], _ => []
  | false :: r, ws => none :: givePatches r ws
  | true :: r, [] => none :: givePatches r []
  | true :: r, w :: ws => some (rdPatch w) :: givePatches r ws

/-- A bundle from its header and the words after it (R98, R99). -/
def decodeBundle (w : Word) (ws : List Word) : Instr :=
  match givePatches (hdrSlots w) ws with
  | [pm, pa, pb, pf] =>
    if (hdrSlots w).any id then .issueBundle (rdHdr w) pm pa pb pf else .emptyBundle (rdHdr w)
  | _ => .emptyBundle (rdHdr w)

/-- Fields of an A, B or F template (R289). -/
def rdVTmpl (t : QWord) : VTmpl :=
  ⟨bits t 114 6, bits t 108 6, bits t 102 6, bits t 96 6, bits t 92 4, bits t 89 3, bits t 88 1, bits t 85 3,
   bits t 82 3, bits t 78 4, bits t 74 4, bits t 70 4, bits t 66 4, bits t 50 16, bits t 18 32, bits t 0 18⟩

/-- Fields of an M template (R326). -/
def rdMTmpl (t : QWord) : MTmpl :=
  ⟨bits t 118 2, bits t 112 6, bits t 106 6, bits t 100 6, bits t 94 6, bits t 90 4, bits t 86 4, bits t 78 8,
   bits t 74 4, bits t 70 4, bits t 66 4, bits t 62 4, bits t 41 21, bits t 20 21, bits t 10 10, bits t 0 10⟩

/-- M templates by opcode (R108). -/
def decodeM (t : QWord) : Option Instr :=
  let o := rdMTmpl t
  match (bits t 120 8).toNat with
  | 1 => if bits t 0 120 = 0 then some .mnop else none
  | 2 => some (.mls o)
  | 3 => some (.accrd o)
  | 4 => some (.accz o)
  | 5 => some (.accld o)
  | 6 => some (.amld o)
  | 7 => some (.draw o)
  | 32 => some (.mmaM8K1 o)
  | 33 => some (.mmaM8K2 o)
  | 34 => some (.mmaM8K4 o)
  | 35 => some (.mmaM8K8 o)
  | 36 => some (.mmaM16K1 o)
  | 37 => some (.mmaM16K2 o)
  | 38 => some (.mmaM16K4 o)
  | 39 => some (.mmaM16K8 o)
  | 40 => some (.mmaM32K1 o)
  | 41 => some (.mmaM32K2 o)
  | 42 => some (.mmaM32K4 o)
  | 43 => some (.mmaM32K8 o)
  | 44 => some (.mmaM64K1 o)
  | 45 => some (.mmaM64K2 o)
  | 46 => some (.mmaM64K4 o)
  | 47 => some (.mmaM64K8 o)
  | _ => none

/-- A and B templates by opcode (R108); VSCL has two rows, told apart by AUX[7] (R293). -/
def decodeV (slot : VSlot) (t : QWord) : Option Instr :=
  let o : VUnit := ⟨slot, rdVTmpl t⟩
  match (bits t 120 8).toNat with
  | 1 => some (.vadd o)
  | 2 => some (.vsub o)
  | 3 => some (.vmul o)
  | 4 => some (.vfma o)
  | 5 => some (.vfms o)
  | 6 => some (.vmin o)
  | 7 => some (.vmax o)
  | 8 => some (.vabs o)
  | 9 => some (.vneg o)
  | 10 => some (.vand o)
  | 11 => some (.vor o)
  | 12 => some (.vxor o)
  | 13 => some (.vnot o)
  | 14 => some (.vshl o)
  | 15 => some (.vshr o)
  | 16 => some (.vsar o)
  | 17 => some (.vcmpEq o)
  | 18 => some (.vcmpNe o)
  | 19 => some (.vcmpLt o)
  | 20 => some (.vcmpLe o)
  | 21 => some (.vcmpGt o)
  | 22 => some (.vcmpGe o)
  | 23 => some (.vsel o)
  | 24 => some (.vmov o)
  | 25 => some (.vbcast o)
  | 26 => some (.vperm o)
  | 27 => some (.vslide o)
  | 28 => some (.vredSum o)
  | 29 => some (.vredMin o)
  | 30 => some (.vredMax o)
  | 31 => some (.vredAnd o)
  | 32 => some (.vredOr o)
  | 33 => some (.vredXor o)
  | 34 => some (.vscanSum o)
  | 35 => some (.vscanMin o)
  | 36 => some (.vscanMax o)
  | 37 => some (.vcvt o)
  | 38 => some (if bits o.t.aux 7 1 = 1 then .vsclDerive o else .vscl o)
  | 39 => some (.viota o)
  | 40 => some (.vpopc o)
  | 41 => some (.vfirst o)
  | 42 => some (.vtopk o)
  | 43 => some (.vld o)
  | 44 => some (.vst o)
  | 45 => some (.gate o)
  | 46 => some (.vpen o)
  | 47 => some (.vsbias o)
  | 48 => some (.vban o)
  | 49 => some (.vmatch o)
  | _ => none

/-- F templates by opcode (R108). -/
def decodeF (t : QWord) : Option Instr :=
  let o := rdVTmpl t
  match (bits t 120 8).toNat with
  | 1 => some (.vexp o)
  | 2 => some (.vlog o)
  | 3 => some (.vrcp o)
  | 4 => some (.vrsq o)
  | 5 => some (.vtanh o)
  | 6 => some (.vsigm o)
  | _ => none

/-! Encoder, from the same tables. -/

def wrR3 (g : BitVec 6) (op : Nat) (f : Nat) (o : R3) : Word := (BitVec.ofNat 6 op ++ g ++ o.d ++ o.a ++ o.b ++ BitVec.ofNat 2 f : BitVec 32)
def wrR3F (g : BitVec 6) (op : Nat) (o : R3F) : Word := (BitVec.ofNat 6 op ++ g ++ o.d ++ o.a ++ o.b ++ o.f : BitVec 32)
def wrRI (g : BitVec 6) (op : Nat) (o : RI) : Word := (BitVec.ofNat 6 op ++ g ++ o.d ++ o.a ++ o.imm : BitVec 32)
def wrRL (g : BitVec 6) (op : Nat) (o : RL) : Word := (BitVec.ofNat 6 op ++ g ++ o.d ++ o.a ++ o.f8 : BitVec 32)
def wrRL5 (g : BitVec 6) (op : Nat) (sel : Nat) (o : RL5) : Word := (BitVec.ofNat 6 op ++ g ++ o.d ++ o.a ++ o.hi ++ BitVec.ofNat 3 sel : BitVec 32)
def wrRL4 (g : BitVec 6) (op : Nat) (sel : Nat) (o : RL4) : Word := (BitVec.ofNat 6 op ++ g ++ o.d ++ o.a ++ o.hi ++ BitVec.ofNat 4 sel : BitVec 32)
def wrB (g : BitVec 6) (op : Nat) (o : BOff) : Word := (BitVec.ofNat 6 op ++ g ++ o.off : BitVec 32)
def wrCmd (g : BitVec 6) (o : Cmd) : Word := (BitVec.ofNat 6 58 ++ g ++ o.d ++ o.a ++ o.f8 : BitVec 32)
def wrSub (sub : Nat) (o : Cmd) : Word := (BitVec.ofNat 8 sub ++ o.imm : BitVec 32)
def wrHdr (slots : BitVec 4) (h : BundleHdr) : Word :=
  (slots ++ h.hold ++ h.g ++ h.popSrc ++ h.popN ++ h.pushDst ++ h.pushN ++ h.lbs ++ h.lbe ++ h.rsv : BitVec 32)
def wrPatch (p : Patch) : Word := (p.idx ++ p.field ++ p.mode ++ p.rsv ++ p.val : BitVec 32)
def wrVTmpl (top : Nat) (t : VTmpl) : QWord :=
  (BitVec.ofNat 8 top ++ t.dst ++ t.sa ++ t.sb ++ t.sc ++ t.fmt ++ t.rm ++ t.sat ++ t.mask ++ t.pk ++ t.std ++ t.sta ++
    t.stb ++ t.stc ++ t.aux ++ t.imm ++ t.rsv : BitVec 128)
def wrMTmpl (top : Nat) (t : MTmpl) : QWord :=
  (BitVec.ofNat 8 top ++ t.acc ++ t.row ++ t.dst ++ t.sa ++ t.sc ++ t.fmt ++ t.fw ++ t.opt ++ t.str ++ t.std ++ t.sta ++
    t.stc ++ t.addr ++ t.xtra ++ t.aux ++ t.rsv : BitVec 128)

/-- The SLOTS bit of a patch. -/
def slotBit (p : Option Patch) : BitVec 1 := if p.isSome then 1 else 0

/-- What a row's encoding is: plain words of a stream, a bundle's words, a 128-bit template of a slot class, or none
(an event has no encoding). -/
inductive Code
  | plain (strm : Strm) (ws : List Word)
  | bundle (ws : List Word)
  | mTmpl (t : QWord)
  | vTmpl (slot : VSlot) (t : QWord)
  | fTmpl (t : QWord)
  | none
  deriving DecidableEq, Repr

/-- The code of an instruction. The five rows that CTL, LD and ST share (R106) are given as CTL words. `g` is the guard; a bundle keeps its own. -/
def encode (g : BitVec 6) : Instr → Code
  | .add o => .plain .ctl [wrR3 g 0 0 o]
  | .sub o => .plain .ctl [wrR3 g 0 1 o]
  | .min o => .plain .ctl [wrR3 g 0 2 o]
  | .max o => .plain .ctl [wrR3 g 0 3 o]
  | .minu o => .plain .ctl [wrR3 g 1 0 o]
  | .maxu o => .plain .ctl [wrR3 g 1 1 o]
  | .and o => .plain .ctl [wrR3 g 2 0 o]
  | .or o => .plain .ctl [wrR3 g 2 1 o]
  | .xor o => .plain .ctl [wrR3 g 2 2 o]
  | .andn o => .plain .ctl [wrR3 g 2 3 o]
  | .shl o => .plain .ctl [wrR3 g 3 0 o]
  | .shr o => .plain .ctl [wrR3 g 3 1 o]
  | .sar o => .plain .ctl [wrR3 g 3 2 o]
  | .ror o => .plain .ctl [wrR3 g 3 3 o]
  | .mul o => .plain .ctl [wrR3 g 4 0 o]
  | .mulh o => .plain .ctl [wrR3 g 4 1 o]
  | .mulhu o => .plain .ctl [wrR3 g 4 2 o]
  | .div o => .plain .ctl [wrR3 g 5 0 o]
  | .divu o => .plain .ctl [wrR3 g 5 1 o]
  | .rem o => .plain .ctl [wrR3 g 5 2 o]
  | .remu o => .plain .ctl [wrR3 g 5 3 o]
  | .addi o => .plain .ctl [wrRI g 6 o]
  | .andi o => .plain .ctl [wrRI g 7 o]
  | .ori o => .plain .ctl [wrRI g 8 o]
  | .xori o => .plain .ctl [wrRI g 9 o]
  | .shli o => .plain .ctl [wrRI g 10 o]
  | .shri o => .plain .ctl [wrRI g 11 o]
  | .sari o => .plain .ctl [wrRI g 12 o]
  | .li o => .plain .ctl [wrRL g 13 o, o.ext]
  | .lih o => .plain .ctl [wrRL g 14 o, o.ext]
  | .clz o => .plain .ctl [wrR3 g 15 0 o]
  | .ctz o => .plain .ctl [wrR3 g 15 1 o]
  | .popc o => .plain .ctl [wrR3 g 15 2 o]
  | .bfx o => .plain .ctl [wrRL g 16 o, o.ext]
  | .bfxu o => .plain .ctl [wrRL g 17 o, o.ext]
  | .bfi o => .plain .ctl [wrRL g 18 o, o.ext]
  | .lea o => .plain .ctl [wrR3F g 19 o]
  | .sel o => .plain .ctl [wrRL g 20 o, o.ext]
  | .cmpEq o => .plain .ctl [wrR3 g 21 0 o]
  | .cmpNe o => .plain .ctl [wrR3 g 21 1 o]
  | .cmpLt o => .plain .ctl [wrR3 g 21 2 o]
  | .cmpLe o => .plain .ctl [wrR3 g 21 3 o]
  | .cmpLtu o => .plain .ctl [wrR3 g 22 0 o]
  | .cmpLeu o => .plain .ctl [wrR3 g 22 1 o]
  | .cmpiEq o => .plain .ctl [wrRL5 g 23 0 o, o.ext]
  | .cmpiNe o => .plain .ctl [wrRL5 g 23 1 o, o.ext]
  | .cmpiLt o => .plain .ctl [wrRL5 g 23 2 o, o.ext]
  | .cmpiLe o => .plain .ctl [wrRL5 g 23 3 o, o.ext]
  | .cmpiLtu o => .plain .ctl [wrRL5 g 23 4 o, o.ext]
  | .cmpiLeu o => .plain .ctl [wrRL5 g 23 5 o, o.ext]
  | .pset o => .plain .ctl [wrRI g 24 o]
  | .pmovAnd o => .plain .ctl [wrR3 g 25 0 o]
  | .pmovOr o => .plain .ctl [wrR3 g 25 1 o]
  | .pmovXor o => .plain .ctl [wrR3 g 25 2 o]
  | .pmovAndn o => .plain .ctl [wrR3 g 25 3 o]
  | .br o => .plain .ctl [wrB g 26 o]
  | .call o => .plain .ctl [wrB g 27 o]
  | .jr o => .plain .ctl [wrR3F g 28 o]
  | .loop o => .plain .ctl [wrRL g 29 o, o.ext]
  | .lds o => .plain .ctl [wrRL g 30 o, o.ext]
  | .sts o => .plain .ctl [wrRL g 31 o, o.ext]
  | .atomAdd o => .plain .ctl [wrRL4 g 32 0 o, o.ext]
  | .atomAnd o => .plain .ctl [wrRL4 g 32 1 o, o.ext]
  | .atomOr o => .plain .ctl [wrRL4 g 32 2 o, o.ext]
  | .atomXor o => .plain .ctl [wrRL4 g 32 3 o, o.ext]
  | .atomMin o => .plain .ctl [wrRL4 g 32 4 o, o.ext]
  | .atomMax o => .plain .ctl [wrRL4 g 32 5 o, o.ext]
  | .atomMinu o => .plain .ctl [wrRL4 g 32 6 o, o.ext]
  | .atomMaxu o => .plain .ctl [wrRL4 g 32 7 o, o.ext]
  | .atomSwp o => .plain .ctl [wrRL4 g 32 8 o, o.ext]
  | .cas o => .plain .ctl [wrRL g 33 o, o.ext]
  | .tkwait o => .plain .ctl [wrRI g 34 o]
  | .tkpost o => .plain .ctl [wrRI g 35 o]
  | .semwait o => .plain .ctl [wrRL g 36 o, o.ext]
  | .semadd o => .plain .ctl [wrRL g 37 o, o.ext]
  | .semset o => .plain .ctl [wrRL g 38 o, o.ext]
  | .arvw o => .plain .ctl [wrR3F g 39 o]
  | .arvclr o => .plain .ctl [wrR3F g 40 o]
  | .fence o => .plain .ctl [wrR3F g 41 o]
  | .acq o => .plain .ctl [wrR3F g 42 o]
  | .barv o => .plain .ctl [wrR3F g 44 o]
  | .barw o => .plain .ctl [wrR3F g 45 o]
  | .mqadv o => .plain .ctl [wrR3F g 46 o]
  | .wset o => .plain .ctl [wrR3F g 47 o]
  | .wrel o => .plain .ctl [wrR3F g 48 o]
  | .hset o => .plain .ctl [wrR3F g 49 o]
  | .tmpld o => .plain .ctl [wrRL g 50 o, o.ext]
  | .trap o => .plain .ctl [wrRI g 51 o]
  | .sysr o => .plain .ctl [wrRL g 53 o, o.ext]
  | .sysw o => .plain .ctl [wrRL g 54 o, o.ext]
  | .nestq o => .plain .ctl [wrCmd g o, wrSub 1 o]
  | .nestf o => .plain .ctl [wrCmd g o, wrSub 2 o]
  | .nestr o => .plain .ctl [wrCmd g o, wrSub 3 o]
  | .nests o => .plain .ctl [wrCmd g o, wrSub 4 o]
  | .sbindLd o => .plain .ld [wrR3F g 0 o]
  | .sunbLd o => .plain .ld [wrR3F g 1 o]
  | .ldq o => .plain .ld [wrR3F g 2 o]
  | .gath o => .plain .ld [wrR3F g 3 o]
  | .ldt o => .plain .ld [wrRL g 4 o, o.ext]
  | .mfill o => .plain .ld [wrRL g 5 o, o.ext]
  | .pref o => .plain .ld [wrRL g 6 o, o.ext]
  | .nli o => .plain .ld [wrRL g 7 o, o.ext]
  | .nadd o => .plain .ld [wrR3F g 8 o]
  | .naddi o => .plain .ld [wrRI g 9 o]
  | .ncmpEq o => .plain .ld [wrR3 g 10 0 o]
  | .ncmpNe o => .plain .ld [wrR3 g 10 1 o]
  | .ncmpLt o => .plain .ld [wrR3 g 10 2 o]
  | .ncmpLe o => .plain .ld [wrR3 g 10 3 o]
  | .ncmpLtu o => .plain .ld [wrR3 g 11 0 o]
  | .ncmpLeu o => .plain .ld [wrR3 g 11 1 o]
  | .nbr o => .plain .ld [wrB g 12 o]
  | .nloop o => .plain .ld [wrRL g 13 o, o.ext]
  | .sbindSt o => .plain .st [wrR3F g 0 o]
  | .sunbSt o => .plain .st [wrR3F g 1 o]
  | .stq o => .plain .st [wrR3F g 16 o]
  | .scat o => .plain .st [wrR3F g 17 o]
  | .stt o => .plain .st [wrRL g 18 o, o.ext]
  | .atomvAdd o => .plain .st [wrRL4 g 19 0 o, o.ext]
  | .atomvAnd o => .plain .st [wrRL4 g 19 1 o, o.ext]
  | .atomvOr o => .plain .st [wrRL4 g 19 2 o, o.ext]
  | .atomvXor o => .plain .st [wrRL4 g 19 3 o, o.ext]
  | .atomvMin o => .plain .st [wrRL4 g 19 4 o, o.ext]
  | .atomvMax o => .plain .st [wrRL4 g 19 5 o, o.ext]
  | .atomvMinu o => .plain .st [wrRL4 g 19 6 o, o.ext]
  | .atomvMaxu o => .plain .st [wrRL4 g 19 7 o, o.ext]
  | .atomvSwp o => .plain .st [wrRL4 g 19 8 o, o.ext]
  | .rput o => .plain .st [wrRL g 20 o, o.ext]
  | .mwb o => .plain .st [wrRL g 21 o, o.ext]
  | .issueBundle h pm pa pb pf =>
    .bundle (wrHdr (slotBit pm ++ slotBit pa ++ slotBit pb ++ slotBit pf) h :: ([pm, pa, pb, pf].filterMap id).map wrPatch)
  | .emptyBundle h => .bundle [wrHdr 0 h]
  | .mls t => .mTmpl (wrMTmpl 2 t)
  | .accrd t => .mTmpl (wrMTmpl 3 t)
  | .accz t => .mTmpl (wrMTmpl 4 t)
  | .accld t => .mTmpl (wrMTmpl 5 t)
  | .amld t => .mTmpl (wrMTmpl 6 t)
  | .draw t => .mTmpl (wrMTmpl 7 t)
  | .mmaM8K1 t => .mTmpl (wrMTmpl 32 t)
  | .mmaM8K2 t => .mTmpl (wrMTmpl 33 t)
  | .mmaM8K4 t => .mTmpl (wrMTmpl 34 t)
  | .mmaM8K8 t => .mTmpl (wrMTmpl 35 t)
  | .mmaM16K1 t => .mTmpl (wrMTmpl 36 t)
  | .mmaM16K2 t => .mTmpl (wrMTmpl 37 t)
  | .mmaM16K4 t => .mTmpl (wrMTmpl 38 t)
  | .mmaM16K8 t => .mTmpl (wrMTmpl 39 t)
  | .mmaM32K1 t => .mTmpl (wrMTmpl 40 t)
  | .mmaM32K2 t => .mTmpl (wrMTmpl 41 t)
  | .mmaM32K4 t => .mTmpl (wrMTmpl 42 t)
  | .mmaM32K8 t => .mTmpl (wrMTmpl 43 t)
  | .mmaM64K1 t => .mTmpl (wrMTmpl 44 t)
  | .mmaM64K2 t => .mTmpl (wrMTmpl 45 t)
  | .mmaM64K4 t => .mTmpl (wrMTmpl 46 t)
  | .mmaM64K8 t => .mTmpl (wrMTmpl 47 t)
  | .vadd u => .vTmpl u.slot (wrVTmpl 1 u.t)
  | .vsub u => .vTmpl u.slot (wrVTmpl 2 u.t)
  | .vmul u => .vTmpl u.slot (wrVTmpl 3 u.t)
  | .vfma u => .vTmpl u.slot (wrVTmpl 4 u.t)
  | .vfms u => .vTmpl u.slot (wrVTmpl 5 u.t)
  | .vmin u => .vTmpl u.slot (wrVTmpl 6 u.t)
  | .vmax u => .vTmpl u.slot (wrVTmpl 7 u.t)
  | .vabs u => .vTmpl u.slot (wrVTmpl 8 u.t)
  | .vneg u => .vTmpl u.slot (wrVTmpl 9 u.t)
  | .vand u => .vTmpl u.slot (wrVTmpl 10 u.t)
  | .vor u => .vTmpl u.slot (wrVTmpl 11 u.t)
  | .vxor u => .vTmpl u.slot (wrVTmpl 12 u.t)
  | .vnot u => .vTmpl u.slot (wrVTmpl 13 u.t)
  | .vshl u => .vTmpl u.slot (wrVTmpl 14 u.t)
  | .vshr u => .vTmpl u.slot (wrVTmpl 15 u.t)
  | .vsar u => .vTmpl u.slot (wrVTmpl 16 u.t)
  | .vcmpEq u => .vTmpl u.slot (wrVTmpl 17 u.t)
  | .vcmpNe u => .vTmpl u.slot (wrVTmpl 18 u.t)
  | .vcmpLt u => .vTmpl u.slot (wrVTmpl 19 u.t)
  | .vcmpLe u => .vTmpl u.slot (wrVTmpl 20 u.t)
  | .vcmpGt u => .vTmpl u.slot (wrVTmpl 21 u.t)
  | .vcmpGe u => .vTmpl u.slot (wrVTmpl 22 u.t)
  | .vsel u => .vTmpl u.slot (wrVTmpl 23 u.t)
  | .vmov u => .vTmpl u.slot (wrVTmpl 24 u.t)
  | .vbcast u => .vTmpl u.slot (wrVTmpl 25 u.t)
  | .vperm u => .vTmpl u.slot (wrVTmpl 26 u.t)
  | .vslide u => .vTmpl u.slot (wrVTmpl 27 u.t)
  | .vredSum u => .vTmpl u.slot (wrVTmpl 28 u.t)
  | .vredMin u => .vTmpl u.slot (wrVTmpl 29 u.t)
  | .vredMax u => .vTmpl u.slot (wrVTmpl 30 u.t)
  | .vredAnd u => .vTmpl u.slot (wrVTmpl 31 u.t)
  | .vredOr u => .vTmpl u.slot (wrVTmpl 32 u.t)
  | .vredXor u => .vTmpl u.slot (wrVTmpl 33 u.t)
  | .vscanSum u => .vTmpl u.slot (wrVTmpl 34 u.t)
  | .vscanMin u => .vTmpl u.slot (wrVTmpl 35 u.t)
  | .vscanMax u => .vTmpl u.slot (wrVTmpl 36 u.t)
  | .vcvt u => .vTmpl u.slot (wrVTmpl 37 u.t)
  | .vscl u => .vTmpl u.slot (wrVTmpl 38 u.t)
  | .vsclDerive u => .vTmpl u.slot (wrVTmpl 38 u.t)
  | .viota u => .vTmpl u.slot (wrVTmpl 39 u.t)
  | .vpopc u => .vTmpl u.slot (wrVTmpl 40 u.t)
  | .vfirst u => .vTmpl u.slot (wrVTmpl 41 u.t)
  | .vtopk u => .vTmpl u.slot (wrVTmpl 42 u.t)
  | .vld u => .vTmpl u.slot (wrVTmpl 43 u.t)
  | .vst u => .vTmpl u.slot (wrVTmpl 44 u.t)
  | .gate u => .vTmpl u.slot (wrVTmpl 45 u.t)
  | .vpen u => .vTmpl u.slot (wrVTmpl 46 u.t)
  | .vsbias u => .vTmpl u.slot (wrVTmpl 47 u.t)
  | .vban u => .vTmpl u.slot (wrVTmpl 48 u.t)
  | .vmatch u => .vTmpl u.slot (wrVTmpl 49 u.t)
  | .vexp t => .fTmpl (wrVTmpl 1 t)
  | .vlog t => .fTmpl (wrVTmpl 2 t)
  | .vrcp t => .fTmpl (wrVTmpl 3 t)
  | .vrsq t => .fTmpl (wrVTmpl 4 t)
  | .vtanh t => .fTmpl (wrVTmpl 5 t)
  | .vsigm t => .fTmpl (wrVTmpl 6 t)
  | .cpy o => .plain .ctl [wrCmd g o, wrSub 16 o]
  | .cpys o => .plain .ctl [wrCmd g o, wrSub 17 o]
  | .cpyt o => .plain .ctl [wrCmd g o, wrSub 18 o]
  | .cpyd o => .plain .ctl [wrCmd g o, wrSub 19 o]
  | .lease o => .plain .ctl [wrCmd g o, wrSub 20 o]
  | .lrel o => .plain .ctl [wrCmd g o, wrSub 21 o]
  | .msendP o => .plain .ctl [wrCmd g o, wrSub 32 o]
  | .msendH o => .plain .ctl [wrCmd g o, wrSub 32 o]
  | .disp o => .plain .ctl [wrCmd g o, wrSub 33 o]
  | .cmb o => .plain .ctl [wrCmd g o, wrSub 34 o]
  | .qwait o => .plain .ctl [wrCmd g o, wrSub 35 o]
  | .qread o => .plain .ctl [wrCmd g o, wrSub 36 o]
  | .rlook o => .plain .ctl [wrCmd g o, wrSub 48 o]
  | .rpin o => .plain .ctl [wrCmd g o, wrSub 49 o]
  | .runpin o => .plain .ctl [wrCmd g o, wrSub 50 o]
  | .rfetch o => .plain .ctl [wrCmd g o, wrSub 51 o]
  | .revict o => .plain .ctl [wrCmd g o, wrSub 52 o]
  | .rpolLayer o => .plain .ctl [wrCmd g o, wrSub 53 o]
  | .rpolUnlayer o => .plain .ctl [wrCmd g o, wrSub 53 o]
  | .rpolCat o => .plain .ctl [wrCmd g o, wrSub 53 o]
  | .rpolUncat o => .plain .ctl [wrCmd g o, wrSub 53 o]
  | .sqopen o => .plain .ctl [wrCmd g o, wrSub 64 o]
  | .sqopenClose o => .plain .ctl [wrCmd g o, wrSub 64 o]
  | .sqframe o => .plain .ctl [wrCmd g o, wrSub 65 o]
  | .sqtrunc o => .plain .ctl [wrCmd g o, wrSub 66 o]
  | .sqckpt o => .plain .ctl [wrCmd g o, wrSub 67 o]
  | .sqspec o => .plain .ctl [wrCmd g o, wrSub 68 o]
  | .sqcmit o => .plain .ctl [wrCmd g o, wrSub 69 o]
  | .sqcurRead o => .plain .ctl [wrCmd g o, wrSub 70 o]
  | .sqcurPlay o => .plain .ctl [wrCmd g o, wrSub 70 o]
  | .sqcurKv o => .plain .ctl [wrCmd g o, wrSub 70 o]
  | .prel o => .plain .ctl [wrCmd g o, wrSub 80 o]
  | .pstat o => .plain .ctl [wrCmd g o, wrSub 81 o]
  | .publish => .plain .ctl [wrR3F g 43 ⟨0, 0, 0, 0⟩]
  | .rftRetry => .plain .ctl [wrR3F g 52 ⟨0, 0, 0, 0⟩]
  | .rftSkip => .plain .ctl [wrR3F g 52 ⟨0, 0, 0, 1⟩]
  | .rftRedirect => .plain .ctl [wrR3F g 52 ⟨0, 0, 0, 2⟩]
  | .yield => .plain .ctl [wrR3F g 55 ⟨0, 0, 0, 0⟩]
  | .tend => .plain .ctl [wrR3F g 56 ⟨0, 0, 0, 0⟩]
  | .tendAbort => .plain .ctl [wrR3F g 56 ⟨0, 0, 0, 1⟩]
  | .tendEsc => .plain .ctl [wrR3F g 56 ⟨0, 0, 0, 2⟩]
  | .nop => .plain .ctl [wrR3F g 57 ⟨0, 0, 0, 0⟩]
  | .mnop => .mTmpl (BitVec.ofNat 8 1 ++ (0 : BitVec 120) : BitVec 128)
  | .heldAccessRetry => .none
  | .flipLimitExpiry => .none
  | .flipToHostFinish => .none
  | .windowFillDone => .none
  | .deviceWriteback => .none
  | .publicationCommit => .none
  | .scopeRefusalTimeout => .none
  | .shadowWriteRelease => .none
  | .snapshotPressure => .none
  | .snapshotExpired => .none
  | .dirtyEvictUncorrectable => .none
  | .registerWrite => .none
  | .barCfgWrite => .none
  | .muInvPage => .none
  | .muInvAsid => .none
  | .muInvAll => .none
  | .muInvNone => .none
  | .nsRinvRegion => .none
  | .nsRinvAll => .none
  | .ldShinvRegion => .none
  | .ldShinvAll => .none
  | .tileDispatch => .none
  | .priorityAging => .none
  | .tileCommit => .none
  | .yieldRequest => .none
  | .boundaryYield => .none
  | .yieldDeadline => .none
  | .saveComplete => .none
  | .saveBound => .none
  | .tileRestore => .none
  | .watchdog => .none
  | .streamEntryRead => .none
  | .streamEntryLand => .none
  | .ldDirectOpComplete => .none
  | .heldFaultTrap => .none
  | .stStreamEntryWrite => .none
  | .stDirectOpComplete => .none
  | .mqGrant => .none
  | .mqEntryLand => .none
  | .mqFullTimeout => .none
  | .tokenPushDeliver => .none
  | .lateFaultTrap => .none
  | .mlsStart => .none
  | .shadowFull => .none
  | .mmaKStep => .none
  | .copyChunkArrival => .none
  | .copyComplete => .none
  | .copyFault => .none
  | .leaseExpiry => .none
  | .shageanFlitReceive => .none
  | .shageanGoBack => .none
  | .linkAckTimeout => .none
  | .linkResync => .none
  | .shageanPacketReceive => .none
  | .peerRequest => .none
  | .peerResponse => .none
  | .handlerInboxGrant => .none
  | .handlerMessage => .none
  | .handlerEnqueueRetry => .none
  | .gateSetLoadReq => .none
  | .gateSetBiasReload => .none
  | .gateSetFreeReq => .none
  | .gateSetLoad => .none
  | .gateSetFree => .none
  | .tokenScore => .none
  | .steeperScore => .none
  | .combineArrival => .none
  | .dropNoticeArrival => .none
  | .waveStart => .none
  | .wavePass => .none
  | .qwaitTimeout => .none
  | .jobCountersClear => .none
  | .saucerCopyArrive => .none
  | .flushDeadline => .none
  | .expertEnqueueRetry => .none
  | .expertTileRetire => .none
  | .absenceThreshold => .none
  | .fetchStart => .none
  | .fetchComplete => .none
  | .fetchFail => .none
  | .nvmeCompletion => .none
  | .nvmeTimeout => .none
  | .sqCplayWrite => .none
  | .lineFrameReceive => .none
  | .advertisementTimer => .none
  | .portAcceptStart => .none
  | .portEnable => .none
  | .portDisable => .none
  | .whiskLoad => .none
  | .coldReset => .none
  | .bootStagingWrite => .none
  | .bootGo => .none
  | .featureAccept => .none
  | .ringEnable => .none
  | .ringDoorbell => .none
  | .ringEntryNest => .none
  | .ringEntryCopy => .none
  | .ringEntryCopyin => .none
  | .ringEntryAttest => .none
  | .apertureAccess => .none
  | .tdispLockInterface => .none
  | .tdispStartInterface => .none
  | .tdispStopInterface => .none
  | .hostAtomicCompletion => .none
  | .hostAtomicWithdraw => .none
  | .thermalTrip => .none
  | .svNqEnqueue => .none
  | .svNdonePop => .none
  | .svFlipPop => .none
  | .mailboxS2hSend => .none
  | .mailboxH2sSend => .none
  | .mailboxS2hClear => .none
  | .mbAtomSeq => .none
  | .mbAtomClaim => .none
  | .mbAtomWdraw => .none
  | .illegalOpcode => .none
  | .engineOperationComplete => .none
  | .samovarInstruction => .none
  | .thermalSensorReading => .none
  | .powerLoss => .none
  | .linkStateChange => .none
  | .doeMailboxMessage => .none

/-- The words of a well-formed instruction; none for an event or a template. -/
def encodeWords (g : BitVec 6) (i : Instr) : List Word :=
  match encode g i with
  | .plain _ ws => ws
  | .bundle ws => ws
  | _ => []

/-- Decode what `encode` gives: the guard (0 where the code has none) and the row. -/
def decodeCode : Code → Option Decoded
  | .plain strm [w] => if hasExt strm w then none else some (decodeWord strm w 0)
  | .plain strm [w, x] => if hasExt strm w then some (decodeWord strm w x) else none
  | .plain _ _ => none
  | .bundle (w :: ws) => if ws.length + 1 = bundleWords w then some ⟨0, decodeBundle w ws, false⟩ else none
  | .bundle [] => none
  | .mTmpl t => (decodeM t).map (⟨0, ·, false⟩)
  | .vTmpl slot t => (decodeV slot t).map (⟨0, ·, false⟩)
  | .fTmpl t => (decodeF t).map (⟨0, ·, false⟩)
  | .none => none

/-- Is this the answer that the map leaves the word unassigned? -/
def Instr.isIllegal : Instr → Bool
  | .illegalOpcode => true
  | _ => false

/-- The instruction read from an instruction whose bits are `w`, least significant bit of the first word first. The
word is read as a CTL word, then as an LD word, then as an ST word: the three stream classes share one numbering of
bits and the table names no stream (log 3). -/
def decodeTableWord (nbits w : Nat) : Option Instr :=
  let l := bytesOf 20 (w % 2 ^ nbits)
  let try_ (strm : Strm) : Option Instr :=
    match decodeBytes strm l with
    | .ok (d, _) => if d.i.isIllegal then none else some d.i
    | .error _ => none
  match try_ .ctl with
  | some i => some i
  | none =>
    match try_ .ld with
    | some i => some i
    | none => try_ .st

end Sys2Proof
end

