-- ==== Sys2Proof/Machine/Fetch.lean ====
section
/-! DEFINITION. Fetching and decoding the instruction at a sequencer's program counter (02 R37, R42, 04 R94–R100). -/

namespace Sys2Proof.Machine

/-- Bytes of an instruction word on core `c`: executable, committed memory (02 R36, R37); free ones on a page that holds an
unexchanged shadow (12 R368). -/
def fetchBytes (c va : Nat) : Act (List Byte) := do
  let t ← tileOf c
  let loc ← translate (t.reg.ctx (some (clusterOf c))) .exec va
  let s ← get
  if isLocal loc then
    if s.m.shadows.contains (loc / 0x1_0000) then collect (upto 0 4) fun _ => drawByte
    else if s.m.poison.contains (loc / 128) then trap .poisonConsumed va
    else return s.m.readN loc 4
  else collect (upto loc 4) fun a => remoteByte 0 va a

/-- One word at an address modulo 2^64. -/
def fetchWord (c : Nat) (a : DWord) : Act Word := do
  let l ← fetchBytes c a.toNat
  return wordOfBytes l

/-- The stream class of a sequencer that fetches plain words. -/
def strmOf (q : Seq) : Strm :=
  match q with
  | .ld => .ld | .st => .st | _ => .ctl

/-- What stands at a program counter: a plain instruction or a bundle, and its length in bytes. -/
inductive Fetched
  | plain (d : Decoded) (len : Nat)
  | bundle (i : Instr) (len : Nat)
  deriving DecidableEq, Repr

/-- Fetch a plain instruction at an address. -/
def fetchPlain (c : Nat) (q : Seq) (a : DWord) : Act Fetched := do
  let w ← fetchWord c a
  if hasExt (strmOf q) w then
    let x ← fetchWord c (a + 4)
    return .plain (decodeWord (strmOf q) w x) 8
  else return .plain (decodeWord (strmOf q) w 0) 4

/-- Fetch a bundle at an address. -/
def fetchBundle (c : Nat) (a : DWord) : Act Fetched := do
  let w ← fetchWord c a
  let ws ← collect (upto 1 (bundleWords w - 1)) fun i => fetchWord c (a + BitVec.ofNat 64 (4 * i))
  return .bundle (decodeBundle w ws) (4 * bundleWords w)

/-- Fetch what stands at the program counter of sequencer `q` of core `c`. -/
def fetch (c : Nat) (q : Seq) : Act Fetched := do
  let s ← get
  let pc := ((s.coreOf c).seq q).pc
  if q = .cmp then fetchBundle c pc else fetchPlain c q pc

/-- Bytes of the instruction or bundle at a program counter; 4 where it cannot be fetched (log 9). -/
def lengthAt (c : Nat) (q : Seq) (s : State) : Nat :=
  match fetch c q s with
  | .ok (.plain _ n) _ => n
  | .ok (.bundle _ n) _ => n
  | .error _ _ => 4

/-- Does a decoded word pass the checks that its opcode does not make (04 R97, R109)? -/
def wordOk (q : Seq) (d : Decoded) : Bool := d.g.toNat < 48 && !d.resv && fieldsOk q d.i

/-- An unassigned opcode or selector (04 R109). -/
def execIllegalOpcode (s : State) : Host.Outcome State Fault Refusal := settle s.core s.sq (trap .illegalOpcode 0 s)

end Sys2Proof.Machine
end

