-- ==== Sys2Proof/Machine/CtlTrap.lean ====
section
/-! DEFINITION. CTL: TRAP, the return from a trap, and the ends of a tile (05 R153–R158, 06 R172, 08 R261). -/

namespace Sys2Proof.Machine

/-- TRAP (R157). -/
def execTrap (o : RI) (s : State) : Host.Outcome State Fault Refusal :=
  plain .ctl (.trap o) (do
    let s ← get
    takeTrap s.core .ctl .trapInsn 0 o.imm) s

/-! RFT (R156). -/

/-- Let a stopped sequencer run again where it stands; one stopped at END stays complete (R215), one stopped at its
back-edge is held there again (06 R188). -/
def resume (x : SeqState) : SeqState :=
  { x with run := if x.run = .trapped then
      (if x.stage = .complete then .idle else if x.edge then .atBackEdge else .running) else x.run }

/-- Put a sequencer at its trap entry in its epilogue; without a trap entry it has completed (R156, 06 R172). -/
def redirect (r : NestRec) (q : Seq) (x : SeqState) : SeqState :=
  if r.entryHalf q 3 = 0 ∨ r.entryAt q 3 = r.endAt q then
    { x with pc := BitVec.ofNat 64 (r.endAt q), stage := .complete, run := .idle, edge := false }
  else { x with pc := BitVec.ofNat 64 (r.entryAt q 3), stage := .epilogue, run := .running, edge := false }

/-- Empty the held copies and the loop buffer of CMP (09 R282). -/
def clearHeld (k : Core) : Core :=
  { k with comp := { k.comp with
    held := [none, none, none, none], lb := .empty, captured := [], lbAddr := 0, lbNext := 0, replay := none } }

/-- Trap mode off (R156). -/
def leaveTrap (c : Nat) : Act Unit := modCoreAt c fun k => { k with trap := { k.trap with mode := false } }

/-- CTL resumes at an address (R156): at its back-edge where the trap found it held there (06 R188). An instruction that
was to be executed again and is passed over is forgotten. -/
def resumeCtl (c : Nat) (a : DWord) : Act Unit := modify fun s =>
  let s := s.updSeq c .ctl fun x => { x with pinned := x.pinned.filter fun e => e.1 = a.toNat }
  let k := s.coreOf c
  match k.tile with
  | some t =>
    if k.ctl.edge && t.yieldReq.isSome && a.toNat = t.nrec.entryAt .ctl 1 then
      s.updSeq c .ctl fun x => { x.clearWaits with pc := a, run := .atBackEdge }
    else s.goto c .ctl a
  | none => s.goto c .ctl a

/-- The forms of RFT (R156): `form` is 0 RETRY, 1 SKIP, 2 REDIRECT. -/
def rft (form : Nat) : Act Unit := do
  let s ← get
  let c := s.core
  let k := s.coreOf c
  let t ← tileOf c
  let q := seqOf k.trap.seq
  let ret := k.trap.ret
  trapLowest [(form = 2 && q = .ctl, .reservedField, 0), (!k.trap.mode, .privilege, 0),
    (ret.toNat % 4 ≠ 0, .align, ret.toNat)]
  leaveTrap c
  if q = .ctl then
    if form = 1 then
      let next := ret + BitVec.ofNat 64 (lengthAt c .ctl (s.updSeq c .ctl fun x => { x with pc := ret }))
      modCoreAt c fun k => { k with trap := { k.trap with ret := next } }
      resumeCtl c next
    else resumeCtl c ret
  else
    if form = 0 then modCoreAt c fun k => k.updSeq q resume
    else if form = 1 then
      if (k.seq q).stage = .complete then modCoreAt c fun k => k.updSeq q resume
      else if q = .cmp then modify fun s => s.nextBundle c (lengthAt c q s)
      else modify fun s => s.advance c q (lengthAt c q s)
    else modCoreAt c fun k => k.updSeq q (redirect t.nrec q)
    if q = .cmp then
      if form = 2 then modCoreAt c clearHeld else pure ()
    else retryHeads c q (form ≠ 1)
    resumeCtl c ret

/-- RFT.RETRY (R156). -/
def execRftRetry (s : State) : Host.Outcome State Fault Refusal := plain .ctl .rftRetry (rft 0) s

/-- RFT.SKIP (R156). -/
def execRftSkip (s : State) : Host.Outcome State Fault Refusal := plain .ctl .rftSkip (rft 1) s

/-- RFT.REDIRECT (R156). -/
def execRftRedirect (s : State) : Host.Outcome State Fault Refusal := plain .ctl .rftRedirect (rft 2) s

/-! TEND (R158). -/

/-- Have LD, CMP and ST completed their epilogues, and everything that the final publication waits for drained
(R158, 08 R256, R261, 09 R285)? -/
def tendReady (s : State) (c : Nat) : Bool :=
  let k := s.coreOf c
  decide (k.ld.stage = .complete ∧ k.cmp.stage = .complete ∧ k.st.stage = .complete) &&
  k.ld.run = .idle && k.cmp.run = .idle && k.st.run = .idle &&
  stDrained k && !putsOut s c && (k.ops.all fun o => o.compute) && k.comp.pushes.isEmpty && k.comp.lateVa.isNone && (k.windows.all fun w => w.2.mq.msgs.isEmpty)

/-- TEND (R158). While it waits for the other sequencers no code of R163 fits, and CTL shows as running (log 19). -/
def execTend (s : State) : Host.Outcome State Fault Refusal :=
  plain .ctl .tend (do
    let s ← get
    trapIf (s.coreOf s.core).trap.mode .reservedField
    if tendReady s s.core then publishFor s.core .ctl .tend else waitFor .engine) s

/-- Cause, sequencer, address and program counter of the record that an abort posts (R158; log 12). -/
def abortCause (k : Core) : Nat × Nat × Nat × Nat :=
  if k.trap.mode then (k.trap.code, k.trap.seq, k.trap.va.toNat, k.trap.pc.toNat)
  else (Code.trapInsn.num, 0xFF, 0, 0)

/-- TEND.ABORT (R158). -/
def execTendAbort (s : State) : Host.Outcome State Fault Refusal :=
  plain .ctl .tendAbort (do
    let s ← get
    let (code, q, va, pc) := abortCause (s.coreOf s.core)
    abortTile s.core code q va pc) s

/-- TEND.ESC (R158). -/
def execTendEsc (s : State) : Host.Outcome State Fault Refusal :=
  plain .ctl .tendEsc (do
    let s ← get
    let (code, q, va, pc) := abortCause (s.coreOf s.core)
    escalateTile s.core code q va pc) s

end Sys2Proof.Machine
end

