-- ==== Sys2Proof/Machine/MatOps.lean ====
section
/-! DEFINITION. What the operations of the matrix engine and of the draw unit compute (11 R330–R348, 03 R82, R89). -/

namespace Sys2Proof.Machine

/-! Accumulators and masks. -/

/-- A row of an accumulator: 128 words (R324). -/
def Core.accRow (k : Core) (a r : Nat) : List Word := SMap.get (List.replicate 128 0) k.mx.acc (64 * a + r)

/-- A mask tile: 512 bytes (R324, R344). -/
def Core.amTile (k : Core) (t : Nat) : List Byte := SMap.get (bytesOf 512 0) k.mx.am t

/-- STEPCNT of an accumulator. -/
def Core.stepcnt (k : Core) (a : Nat) : Nat := SMap.get 0 k.mx.stepcnt a

/-- The format of an M operation. -/
def mFmt (t : MTmpl) : Fmt := (fmtOf t.fmt.toNat).getD .fp32

/-- ACCRD (R340, R341). -/
def runAccrd (k : Core) (t : MTmpl) : EngOut :=
  let f := mFmt t
  let rm := (rmOf (bits t.opt 0 3).toNat).getD .rne
  let row := k.accRow t.acc.toNat t.row.toNat
  let r := row.map fun w =>
    roundTo f rm (bits t.opt 3 1 = 1) 0 (if bits t.opt 4 1 = 1 then valInt w.toInt else decodeVal .fp32 w.toNat)
  let part := (bits t.aux 0 3).toNat
  let d := writePart t.dst.toNat (part * 128 * f.width / 8) (bytesOfLanes f.width (r.map (·.1)))
  let s := if bits t.opt 6 1 = 1 then writeAll t.sc.toNat (bytesOf 4 (k.stepcnt t.acc.toNat) ++ bytesOf 508 0) else []
  { writes := d ++ s, flags := (r.map (·.2)).foldl (· ||| ·) 0 }

/-- n of ACCZ (R328). -/
def acczRows (t : MTmpl) : Nat := (bits t.aux 0 6).toNat + 1

/-- ACCZ (R342). -/
def runAccz (t : MTmpl) : EngOut :=
  let a := t.acc.toNat
  { writes := ((upto t.row.toNat (acczRows t)).map fun r => EngWrite.acc a r (List.replicate 128 0)) ++ [.step a 0] }

/-- ACCLD (R343). -/
def runAccld (k : Core) (t : MTmpl) : EngOut :=
  let a := t.acc.toNat
  let f := mFmt t
  let l := lanesOf f.width (k.source t.sa.toNat)
  let part := (bits t.aux 0 1).toNat
  let row := if f.width = 32 then l.map (BitVec.ofNat 32)
    else ((l.drop (part * 128)).take 128).map fun c => BitVec.ofNat 32 (f32Code (toFp32 f c))
  { writes := [.acc a t.row.toNat row, .step a 0] }

/-- AMLD (R344). -/
def runAmld (k : Core) (t : MTmpl) : EngOut := { writes := [.maskTile t.acc.toNat (k.source t.sa.toNat)] }

/-! The draw unit (R346–R348). -/

/-- C of DRAW. -/
def drawCount (t : MTmpl) : Nat := (bits t.aux 0 9).toNat + 1

/-- The logits (R346). -/
def drawLogits (k : Core) (t : MTmpl) : List Val :=
  let c := drawCount t
  let n := (c + 127) / 128
  let l := if bits t.opt 0 1 = 1 then floatsFrom k t.sa.toNat n
    else ((upto t.row.toNat n).map fun r => (k.accRow t.acc.toNat r).map fun w => decodeVal .fp32 w.toNat).flatten
  l.take c

/-- A logit that takes part: neither NaN nor −∞ (R347). -/
def drawable (v : Val) : Bool := v ≠ .nan && v ≠ .inf true

/-- What DRAW finds: idx, U, Z, mx, st and flags (R347). -/
structure Drawn where
  idx : Nat := 0
  u : Nat := 0
  z : Val := .num false 0 0
  mx : Val := .inf true
  st : Nat := 2
  flags : Flags := 0
  deriving DecidableEq, Repr

/-- DRAW's computation (R347): logits, temperature, seed and counter. -/
def drawFrom (x : List Val) (t : Val) (seed ctr : DWord) : Drawn :=
  let ok := (x.zipIdx.map fun e => (e.2, e.1)).filter fun e => drawable e.2
  match best ok with
  | none => {}
  | some (_, mx) =>
    let greedy := t.isZero || t.neg? || t = .nan || t = .inf false
    if greedy then
      { idx := ((ok.find? fun e => e.2.eqv mx).map (·.1)).getD 0, mx := mx, st := 1
        flags := if t.isZero then 0 else flagNV }
    else
      let e := x.map fun v =>
        if drawable v then
          let d := addVal .rne v mx.flip
          let q := divVal d.1 t
          let r := rneAcc (q.1, q.2 ||| d.2)
          let y := rneAcc (expVal false r.1)
          (y.1, y.2 ||| r.2)
        else (.num false 0 0, 0)
      let pre := scanList (sumStep .rne) false (negZero, (0 : Flags)) e
      let z := pre.getLastD (negZero, 0)
      let u := (drawHash seed ctr).toNat / 256
      let lim := rneAcc (mulVal (.num false u (-24)) z.1)
      let idx := match pre.zipIdx.find? fun p => lim.1.lt p.1.1 with
        | some p => p.2
        | none => (ok.getLastD (0, .nan)).1
      { idx := idx, u := u, z := z.1, mx := mx, st := 0, flags := z.2 ||| lim.2 }

/-- DRAW (R346–R348). -/
def runDraw (k : Core) (t : MTmpl) : EngOut :=
  let p := lanesOf 32 (k.source t.sc.toNat)
  let pos := p.getD 0 0 + p.getD 1 0 % 2 ^ 24 * 2 ^ 32
  let seed : DWord := BitVec.ofNat 64 (p.getD 2 0 + p.getD 3 0 * 2 ^ 32)
  let r := drawFrom (drawLogits k t) (decodeVal .fp32 (p.getD 4 0)) seed (drawCtr pos (p.getD 5 0))
  { writes := .slice r.idx :: writeAll t.dst.toNat
      (bytesOfLanes 32 ([r.idx, r.u, f32Code r.z, f32Code r.mx, r.st] ++ List.replicate 123 0))
    flags := r.flags }

/-! Planes and K steps (R330–R338, 03 R82, R89). -/

/-- Bytes of a plane record (R330). -/
def planeBytes : Nat := 12288
def recordBytesOf (scl : Bool) : Nat := if scl then 13056 else 12288

/-- A plane from a record (R332). -/
def planeOf (scl : Bool) (l : List Byte) : Plane :=
  { bytes := l.take planeBytes, scales := if scl then (l.drop planeBytes).take 768 else [] }

/-- Elements of `w` bits of a 96-byte K row (R75, R82). -/
def rowElems (w : Nat) (l : List Byte) : List Nat := if w = 4 then nibbles l else (pieces (w / 8) (96 * 8 / w) l).map ofBytes

/-- Block size and block count (R82). -/
def blockSize (w : Nat) : Nat := if w = 16 then 16 else 32
def blockCount (w : Nat) : Nat := 96 * 8 / w / blockSize w

/-- The exact sum of products of a block, with flags (R89). -/
def blockSum (a w : List Val) : Val × Flags :=
  (a.zip w).foldl (fun (s : Val × Flags) e =>
    let p := mulVal e.1 e.2
    let t := addVal .rne s.1 p.1
    (t.1, s.2 ||| p.2 ||| t.2)) (.num false 0 0, 0)

/-- The FP32 code as a value and back. -/
def f32Val (w : Word) : Val := decodeVal .fp32 w.toNat

/-- A block's scale and its flags: 0xFF makes NaN and raises NV (R78). -/
def scaleVal (b : Byte) : Val × Flags := (decodeVal .e8m0 b.toNat, if b = 0xFF then flagNV else 0)

/-- One accumulator element over the blocks of a K step, floating (R89). -/
def accFloat (acc : Word) (blocks : List (List Val × List Val × (Val × Flags) × (Val × Flags))) : Word × Flags :=
  let r := blocks.foldl (fun (s : Val × Flags) b =>
    let x := blockSum b.1 b.2.1
    let (sa, sw) := b.2.2
    let p := mulVal x.1 sa.1
    let q := mulVal p.1 sw.1
    let c := rneAcc (q.1, s.2 ||| x.2 ||| sa.2 ||| sw.2 ||| p.2 ||| q.2)
    let t := addVal .rne s.1 c.1
    rneAcc (t.1, c.2 ||| t.2)) (f32Val acc, (0 : Flags))
  (BitVec.ofNat 32 (f32Code r.1), r.2)

/-- One accumulator element over the blocks of a K step, integer (R89). -/
def accInt (acc : Word) (blocks : List (List Int × List Int)) : Word × Flags :=
  let r := blocks.foldl (fun (s : Int × Flags) b =>
    let t := satInt (.int 32) (s.1 + ((b.1.zip b.2).map fun e => e.1 * e.2).sum)
    (t.1, s.2 ||| t.2)) (acc.toInt, (0 : Flags))
  (BitVec.ofInt 32 r.1, r.2)

/-- One element of an accumulator for one K step: the activation row, the plane's column, their scales (R89). -/
def accStep (fa fw : Fmt) (acc : Word) (row col sa sw : List Byte) : Word × Flags :=
  let bs := blockSize fa.width
  let nb := blockCount fa.width
  let a := pieces bs nb (rowElems fa.width row)
  let w := pieces bs nb (rowElems fw.width col)
  if fa.isInt then accInt acc (((a.map (·.map (intOf fa))).zip (w.map (·.map (intOf fw)))))
  else
    let sc := fun (l : List Byte) i => scaleVal (l.getD i 127)
    accFloat acc ((a.zip w).zipIdx.map fun e =>
      (e.1.1.map (decodeVal fa), e.1.2.map (decodeVal fw), sc sa e.2, sc sw e.2))

/-- Chunk address of row `m`, K step `j` (R335). -/
def mmaChunk (t : MTmpl) (m j : Nat) : Nat := 128 * (t.addr.toNat + m * t.xtra.toNat + j)

/-- Is position (r, n) masked (R337)? -/
def maskedAt (t : MTmpl) (am0 am1 : List Byte) (r n : Nat) : Bool :=
  (bits t.opt 2 1 = 1 && decide (n < 64) && !bitOf am0 (64 * r + n)) ||
  (bits t.opt 3 1 = 1 && decide (64 ≤ n) && !bitOf am1 (64 * r + n - 64))

/-- One row of one K step (R336). -/
def mmaRow (k : Core) (x : MmaRun) (pl : Plane) (old : List Word) (m : Nat) : List Word × Flags :=
  let t := x.copy
  let fa := mFmt t
  let fw := (fmtOf t.fw.toNat).getD .fp32
  let scl := bits t.opt 0 1 = 1
  let c := mmaChunk t m x.done
  let row := k.spRead c 96
  let sa := if scl then k.spRead (c + 96) 6 else []
  let r := old.zipIdx.map fun e =>
    if maskedAt t x.am0 x.am1 (t.row.toNat + m) e.2 then
      let v := accStep fa fw e.1 row ((pl.bytes ++ List.replicate (planeBytes - pl.bytes.length) 0).drop (96 * e.2) |>.take 96) sa
        (if scl then (pl.scales.drop (6 * e.2)).take 6 else [])
      (BitVec.ofNat 32 0xFF80_0000, v.2)
    else accStep fa fw e.1 row ((pl.bytes ++ List.replicate (planeBytes - pl.bytes.length) 0).drop (96 * e.2) |>.take 96) sa
        (if scl then (pl.scales.drop (6 * e.2)).take 6 else [])
  (r.map (·.1), (r.map (·.2)).foldl (· ||| ·) 0)

end Sys2Proof.Machine
end

