-- ==== Sys2Proof/Machine/Templates.lean ====
section
/-! DEFINITION. Which templates are accepted, how a patch and an advance change one, and what an operation names as
sources and destinations (04 R100–R102, 09 R269, 10 R289–R293, 11 R326–R328, R334). -/

namespace Sys2Proof.Machine

/-! A, B and F templates (10 R289–R293, R320). -/

/-- Which operand fields an operation uses, and which formats, modes and bits it accepts (10 R293). -/
structure VRow where
  fmts : List Nat
  /-- DST: 0 unused, 1 V or Q, 2 V only, 3 also K1–K7 with a 32-bit format. -/
  d : Nat := 0
  /-- SA and SB: 0 unused, 1 V or Q, 2 V only. -/
  a : Nat := 0
  b : Nat := 0
  /-- SC: 0 unused, 1 a source, 2 a second destination, V only. -/
  c : Nat := 0
  sat : Bool := false
  /-- RM: 0 unused, 1 any mode, 2 any but stochastic. -/
  rm : Nat := 0
  /-- Accepted AUX bits. -/
  aux : Nat := 0
  /-- IMM is a value. -/
  imm : Bool := false
  /-- No other mask than K0. -/
  k0 : Bool := false
  /-- VLD's or VST's address stride stands in STA or STB. -/
  str : Nat := 0
  /-- The operation's own limits on AUX, IMM, SA and SB. -/
  ok : Bool := true
  immOk : Bool := true
  saOk : Bool := true
  sbOk : Bool := true
  deriving DecidableEq, Repr

/-- Lane width of a format code. -/
def codeWidth (f : BitVec 4) : Nat := ((fmtOf f.toNat).map Fmt.width).getD 32

/-- PD of AUX[5:0] (10 R302). -/
def pdOk (aux : BitVec 16) : Bool := let p := (bits aux 0 6).toNat; p = 0 || decide (24 ≤ p ∧ p ≤ 39)

/-- Is the FP32 code finite? -/
def f32Finite (c : Word) : Bool := bits c 23 8 ≠ 255

/-- PART of VCVT (10 R306). -/
def cvtOk (t : VTmpl) : Bool :=
  let ws := codeWidth t.fmt
  let wd := codeWidth (bits t.aux 0 4)
  let part := (bits t.aux 4 3).toNat
  decide ((bits t.aux 0 4).toNat ≤ 13) &&
  (decide (13 < t.fmt.toNat) ||
    (if ws > wd then decide (part < ws / wd) else if ws < wd then decide (part < wd / ws) else part = 0))

/-- GATE's limits on AUX (10 R313). -/
def gateOk (t : VTmpl) : Bool :=
  let e := gateE t.aux
  let k := gateK t.aux
  decide (e ≤ 512 ∧ 1 ≤ k ∧ k ≤ 16 ∧ k ≤ e)

/-- Do GATE's scores or biases fit from register `r` on (10 R313)? -/
def gateFits (t : VTmpl) (r : Nat) : Bool := decide (r + (gateE t.aux + 127) / 128 ≤ 32)

/-- The row of a vector or special-function operation (10 R293, R320). -/
def vRow : Instr → Option (VTmpl × VRow)
  | .vadd u => some (u.t, { fmts := [1, 2, 3, 5, 6, 7, 11, 12, 13], d := 1, a := 1, b := 1, sat := true, rm := 1 })
  | .vsub u => some (u.t, { fmts := [1, 2, 3, 5, 6, 7, 11, 12, 13], d := 1, a := 1, b := 1, sat := true, rm := 1 })
  | .vmul u => some (u.t, { fmts := [1, 2, 3, 5, 6, 7, 11, 12, 13], d := 1, a := 1, b := 1, sat := true, rm := 1 })
  | .vfma u => some (u.t, { fmts := [1, 2, 3, 5, 6, 7, 11, 12, 13], d := 1, a := 1, b := 1, c := 1, sat := true, rm := 1 })
  | .vfms u => some (u.t, { fmts := [1, 2, 3, 5, 6, 7, 11, 12, 13], d := 1, a := 1, b := 1, c := 1, sat := true, rm := 1 })
  | .vmin u => some (u.t, { fmts := [1, 2, 3, 5, 6, 7, 11, 12, 13], d := 1, a := 1, b := 1 })
  | .vmax u => some (u.t, { fmts := [1, 2, 3, 5, 6, 7, 11, 12, 13], d := 1, a := 1, b := 1 })
  | .vabs u => some (u.t, { fmts := [1, 2, 3, 5, 6, 7, 11, 12, 13], d := 1, a := 1, sat := true })
  | .vneg u => some (u.t, { fmts := [1, 2, 3, 5, 6, 7, 11, 12, 13], d := 1, a := 1, sat := true })
  | .vand u => some (u.t, { fmts := [1, 2, 3, 5, 6, 7], d := 1, a := 1, b := 1 })
  | .vor u => some (u.t, { fmts := [1, 2, 3, 5, 6, 7], d := 1, a := 1, b := 1 })
  | .vxor u => some (u.t, { fmts := [1, 2, 3, 5, 6, 7], d := 1, a := 1, b := 1 })
  | .vnot u => some (u.t, { fmts := [1, 2, 3, 5, 6, 7], d := 1, a := 1 })
  | .vshl u => some (u.t, { fmts := [1, 2, 3, 5, 6, 7], d := 1, a := 1, b := (if bits u.t.aux 15 1 = 1 then 0 else 1), aux := (if bits u.t.aux 15 1 = 1 then 0x801F else 0), ok := (decide ((bits u.t.aux 0 5).toNat < codeWidth u.t.fmt)) })
  | .vshr u => some (u.t, { fmts := [1, 2, 3, 5, 6, 7], d := 1, a := 1, b := (if bits u.t.aux 15 1 = 1 then 0 else 1), aux := (if bits u.t.aux 15 1 = 1 then 0x801F else 0), ok := (decide ((bits u.t.aux 0 5).toNat < codeWidth u.t.fmt)) })
  | .vsar u => some (u.t, { fmts := [1, 2, 3, 5, 6, 7], d := 1, a := 1, b := (if bits u.t.aux 15 1 = 1 then 0 else 1), aux := (if bits u.t.aux 15 1 = 1 then 0x801F else 0), ok := (decide ((bits u.t.aux 0 5).toNat < codeWidth u.t.fmt)) })
  | .vcmpEq u => some (u.t, { fmts := [1, 2, 3, 5, 6, 7, 11, 12, 13], d := 3, a := 1, b := 1, aux := 0x7F, ok := pdOk u.t.aux })
  | .vcmpNe u => some (u.t, { fmts := [1, 2, 3, 5, 6, 7, 11, 12, 13], d := 3, a := 1, b := 1, aux := 0x7F, ok := pdOk u.t.aux })
  | .vcmpLt u => some (u.t, { fmts := [1, 2, 3, 5, 6, 7, 11, 12, 13], d := 3, a := 1, b := 1, aux := 0x7F, ok := pdOk u.t.aux })
  | .vcmpLe u => some (u.t, { fmts := [1, 2, 3, 5, 6, 7, 11, 12, 13], d := 3, a := 1, b := 1, aux := 0x7F, ok := pdOk u.t.aux })
  | .vcmpGt u => some (u.t, { fmts := [1, 2, 3, 5, 6, 7, 11, 12, 13], d := 3, a := 1, b := 1, aux := 0x7F, ok := pdOk u.t.aux })
  | .vcmpGe u => some (u.t, { fmts := [1, 2, 3, 5, 6, 7, 11, 12, 13], d := 3, a := 1, b := 1, aux := 0x7F, ok := pdOk u.t.aux })
  | .vsel u => some (u.t, { fmts := [1, 2, 3, 5, 6, 7, 9, 10, 11, 12, 13], d := 1, a := 1, b := 1, c := 1 })
  | .vmov u => some (u.t, { fmts := [0, 1, 2, 3, 4, 5, 6, 7, 8, 9, 10, 11, 12, 13], d := 1, a := 1 })
  | .vbcast u => some (u.t, { fmts := [1, 2, 3, 5, 6, 7, 9, 10, 11, 12, 13], d := 1, a := (bits u.t.aux 15 1).toNat, aux := (if bits u.t.aux 15 1 = 1 then 0x83FF else 0), imm := (bits u.t.aux 15 1 = 0), ok := (decide ((bits u.t.aux 0 10).toNat < 4096 / codeWidth u.t.fmt)) })
  | .vperm u => some (u.t, { fmts := [2, 3, 6, 7, 11, 12, 13], d := 1, a := 1, b := 1 })
  | .vslide u => some (u.t, { fmts := [1, 2, 3, 5, 6, 7, 9, 10, 11, 12, 13], d := 1, a := 1, b := 1, aux := 0x3FF, ok := (decide ((sval 10 (bits u.t.aux 0 10).toNat).natAbs < 4096 / codeWidth u.t.fmt)) })
  | .vredSum u => some (u.t, { fmts := [1, 2, 3, 5, 6, 7, 11, 12, 13], d := 1, a := 1, rm := 2 })
  | .vredMin u => some (u.t, { fmts := [1, 2, 3, 5, 6, 7, 11, 12, 13], d := 1, a := 1, rm := 2 })
  | .vredMax u => some (u.t, { fmts := [1, 2, 3, 5, 6, 7, 11, 12, 13], d := 1, a := 1, rm := 2 })
  | .vredAnd u => some (u.t, { fmts := [1, 2, 3, 5, 6, 7], d := 1, a := 1 })
  | .vredOr u => some (u.t, { fmts := [1, 2, 3, 5, 6, 7], d := 1, a := 1 })
  | .vredXor u => some (u.t, { fmts := [1, 2, 3, 5, 6, 7], d := 1, a := 1 })
  | .vscanSum u => some (u.t, { fmts := [1, 2, 3, 5, 6, 7, 11, 12, 13], d := 1, a := 1, rm := 2, aux := 1 })
  | .vscanMin u => some (u.t, { fmts := [1, 2, 3, 5, 6, 7, 11, 12, 13], d := 1, a := 1, rm := 2, aux := 1 })
  | .vscanMax u => some (u.t, { fmts := [1, 2, 3, 5, 6, 7, 11, 12, 13], d := 1, a := 1, rm := 2, aux := 1 })
  | .vcvt u => some (u.t, { fmts := [0, 1, 2, 3, 4, 5, 6, 7, 8, 9, 10, 11, 12, 13], d := 1, a := 1, sat := true, rm := 1, aux := 0x7F, k0 := true, ok := cvtOk u.t })
  | .vscl u => some (u.t, { fmts := [11, 12, 13], d := 1, a := 1, b := 1, rm := 1, aux := 0x100 })
  | .vsclDerive u => some (u.t, { fmts := [11, 12, 13], d := 1, a := 1, rm := 1, aux := 0x8F, k0 := true, ok := (decide (8 ≤ (bits u.t.aux 0 4).toNat ∧ (bits u.t.aux 0 4).toNat ≤ 10)) })
  | .viota u => some (u.t, { fmts := [1, 2, 3, 5, 6, 7], d := 1, sat := true, aux := 0xFF, imm := true })
  | .vpopc u => some (u.t, { fmts := [0, 1, 2, 3, 4, 5, 6, 7, 8, 9, 10, 11, 12, 13], d := 1, a := 1, aux := 0x3F, ok := pdOk u.t.aux })
  | .vfirst u => some (u.t, { fmts := [0, 1, 2, 3, 4, 5, 6, 7, 8, 9, 10, 11, 12, 13], d := 1, a := 1, aux := 0x3F, ok := pdOk u.t.aux })
  | .vtopk u => some (u.t, { fmts := [1, 2, 3, 5, 6, 7, 11, 12, 13], d := 1, a := 1, c := 2, aux := 0xFF, ok := (decide (1 ≤ (bits u.t.aux 0 8).toNat ∧ (bits u.t.aux 0 8).toNat ≤ Nat.min 128 (4096 / codeWidth u.t.fmt))) })
  | .vld u => some (u.t, { fmts := [0, 1, 2, 3, 4, 5, 6, 7, 8, 9, 10, 11, 12, 13], d := 1, imm := true, str := 1 })
  | .vst u => some (u.t, { fmts := [0, 1, 2, 3, 4, 5, 6, 7, 8, 9, 10, 11, 12, 13], a := 1, imm := true, str := 2 })
  | .gate u => some (u.t, { fmts := [13], d := 2, a := 2, b := 2, c := 2, aux := 0xFFFF, imm := true, k0 := true, ok := gateOk u.t, immOk := f32Finite u.t.imm, saOk := gateFits u.t u.t.sa.toNat, sbOk := gateFits u.t u.t.sb.toNat })
  | .vpen u => some (u.t, { fmts := [11, 12, 13], d := 1, a := 1, b := 1, rm := 2, aux := 0x3F, imm := true, ok := (decide ((bits u.t.aux 0 5).toNat < codeWidth u.t.fmt)), immOk := (f32Finite u.t.imm && (bits u.t.aux 5 1 = 1 || (bits u.t.imm 31 1 = 0 && u.t.imm ≠ 0))) })
  | .vsbias u => some (u.t, { fmts := [11, 12, 13], d := 1, a := 1, b := 1, rm := 2, aux := 0x7F, imm := true, ok := (decide ((bits u.t.aux 0 7).toNat ≤ 64)) })
  | .vban u => some (u.t, { fmts := [11, 12, 13], d := 1, a := 1, b := 1, aux := 0xFF, imm := true, ok := (decide ((bits u.t.aux 0 8).toNat ≤ 128)) })
  | .vmatch u => some (u.t, { fmts := [0], d := 2, a := 1, b := 1, c := 2, aux := 0x3F, k0 := true, ok := pdOk u.t.aux })
  | .vexp t => some (t, { fmts := [11, 12, 13], d := 1, a := 1, sat := true, rm := 1, aux := 1 })
  | .vlog t => some (t, { fmts := [11, 12, 13], d := 1, a := 1, sat := true, rm := 1, aux := 1 })
  | .vrcp t => some (t, { fmts := [11, 12, 13], d := 1, a := 1, sat := true, rm := 1 })
  | .vrsq t => some (t, { fmts := [11, 12, 13], d := 1, a := 1, sat := true, rm := 1 })
  | .vtanh t => some (t, { fmts := [11, 12, 13], d := 1, a := 1, sat := true, rm := 1 })
  | .vsigm t => some (t, { fmts := [11, 12, 13], d := 1, a := 1, sat := true, rm := 1 })
  | _ => none

/-! Which values are accepted (10 R290–R293, 11 R327, R328, R334, R346). -/

/-- Is a DST, SA, SB or SC field a register that this use accepts? -/
def regOk (use : Nat) (field : Nat) : Bool :=
  match use with
  | 0 => field = 0
  | 1 => decide (field < 48)
  | _ => decide (field < 32)

/-- Does an operation accept its DST? -/
def dstOk (r : VRow) (t : VTmpl) : Bool :=
  match r.d with
  | 3 => decide (t.dst.toNat < 48) || (decide (49 ≤ t.dst.toNat ∧ t.dst.toNat < 56) && codeWidth t.fmt = 32)
  | u => regOk u t.dst.toNat

/-- Is a source field a queue register? -/
def isQueue (field : Nat) : Bool := decide (32 ≤ field ∧ field < 48)

/-- Is a peek bit accepted: only for a source that names a queue (R290)? -/
def peekOk (use : Nat) (field : Nat) (pk : Bool) : Bool := !pk || (decide (0 < use) && isQueue field)

/-- The fields of an A, B or F operation by number, 15 for the reserved bits, with whether it accepts what each holds
(R291–R293). -/
def vChecks (r : VRow) (t : VTmpl) : List (Nat × Bool) :=
  [(0, dstOk r t),
   (1, regOk r.a t.sa.toNat && r.saOk), (2, regOk r.b t.sb.toNat && r.sbOk), (3, regOk r.c t.sc.toNat),
   (4, r.fmts.contains t.fmt.toNat),
   (5, match r.rm with
     | 0 => t.rm = 0
     | 1 => decide (t.rm.toNat ≤ 5) && !(r.imm && t.rm = 5)
     | _ => decide (t.rm.toNat ≤ 4)),
   (6, r.sat || t.sat = 0),
   (7, !r.k0 || t.mask = 0),
   (8, peekOk r.a t.sa.toNat (bits t.pk 2 1 = 1) && peekOk r.b t.sb.toNat (bits t.pk 1 1 = 1) &&
     peekOk (if r.c = 1 then 1 else 0) t.sc.toNat (bits t.pk 0 1 = 1)),
   (9, r.d ≠ 0 || t.std = 0), (10, r.a ≠ 0 || r.str = 1 || t.sta = 0),
   (11, r.b ≠ 0 || r.str = 2 || t.stb = 0), (12, r.c ≠ 0 || t.stc = 0),
   (13, t.aux.toNat &&& (0xFFFF - r.aux) = 0 && r.ok),
   (14, (r.imm || t.rm = 5 || t.imm = 0) && r.immOk),
   (15, t.rsv = 0)]

/-- M and k of an MMA (04 R108). -/
def mmaDims : Instr → Option (MTmpl × Nat × Nat)
  | .mmaM8K1 t => some (t, 8, 1)
  | .mmaM8K2 t => some (t, 8, 2)
  | .mmaM8K4 t => some (t, 8, 4)
  | .mmaM8K8 t => some (t, 8, 8)
  | .mmaM16K1 t => some (t, 16, 1)
  | .mmaM16K2 t => some (t, 16, 2)
  | .mmaM16K4 t => some (t, 16, 4)
  | .mmaM16K8 t => some (t, 16, 8)
  | .mmaM32K1 t => some (t, 32, 1)
  | .mmaM32K2 t => some (t, 32, 2)
  | .mmaM32K4 t => some (t, 32, 4)
  | .mmaM32K8 t => some (t, 32, 8)
  | .mmaM64K1 t => some (t, 64, 1)
  | .mmaM64K2 t => some (t, 64, 2)
  | .mmaM64K4 t => some (t, 64, 4)
  | .mmaM64K8 t => some (t, 64, 8)
  | _ => none

/-- The M template of an M operation; MNOP has no fields. -/
def mTmplOf : Instr → Option MTmpl
  | .mls t => some t
  | .accrd t => some t
  | .accz t => some t
  | .accld t => some t
  | .amld t => some t
  | .draw t => some t
  | i => (mmaDims i).map (·.1)

/-- An M template with only the fields that R328 lists for an operation kept. -/
def mKeep (t : MTmpl) : Instr → MTmpl
  | .mls _ => { t with acc := 0, row := 0, dst := 0, sa := 0, sc := 0, fmt := 0, fw := 0, str := 0, std := 0, stc := 0, aux := 0, rsv := 0 }
  | .accrd _ => { t with sa := 0, fw := 0, sta := 0, addr := 0, xtra := 0, rsv := 0 }
  | .accz _ => { t with dst := 0, sa := 0, sc := 0, fmt := 0, fw := 0, opt := 0, std := 0, sta := 0, stc := 0, addr := 0, xtra := 0, rsv := 0 }
  | .accld _ => { t with dst := 0, sc := 0, fw := 0, opt := 0, std := 0, stc := 0, addr := 0, xtra := 0, rsv := 0 }
  | .amld _ => { t with row := 0, dst := 0, sc := 0, fmt := 0, fw := 0, opt := 0, str := 0, std := 0, stc := 0, addr := 0, xtra := 0, aux := 0, rsv := 0 }
  | .draw _ => { t with fmt := 0, fw := 0, addr := 0, xtra := 0, rsv := 0 }
  | _ => { t with dst := 0, sa := 0, sc := 0, std := 0, stc := 0, aux := 0, rsv := 0 }

/-- The weight formats that MMA takes with an activation format (R334). -/
def mmaWeights (fmt : Nat) : List Nat :=
  match fmt with
  | 8 => [8]
  | 9 | 10 => [9, 10]
  | 11 => [11]
  | 12 => [12]
  | 0 | 4 => [0, 4]
  | 1 | 5 => [1, 5]
  | _ => []

/-- The limits of R328, R334 and R346 on the fields that an M operation uses, by field number. -/
def mLimits (t : MTmpl) : Instr → List (Nat × Bool)
  | .mls _ => [(7, t.opt.toNat < 8), (13, bits t.opt 1 1 = 1 || t.xtra = 0)]
  | .accrd _ =>
    let step := bits t.opt 6 1 = 1
    [(2, decide (t.dst.toNat < 48)), (4, if step then decide (t.sc.toNat < 48) else t.sc = 0), (5, decide (t.fmt.toNat ≤ 13)),
     (7, decide ((bits t.opt 0 3).toNat ≤ 4 ∧ t.opt.toNat < 128)), (11, step || t.stc = 0),
     (14, decide (t.aux.toNat < 8) && (decide (13 < t.fmt.toNat) || decide ((bits t.aux 0 3).toNat * codeWidth t.fmt < 32)))]
  | .accz _ => [(1, decide (t.row.toNat + acczRows t ≤ 64)), (14, decide (t.aux.toNat < 64))]
  | .accld _ =>
    [(3, decide (t.sa.toNat < 48)), (5, [3, 11, 12, 13].contains t.fmt.toNat),
     (14, decide (t.aux.toNat < 2) && (codeWidth t.fmt = 16 || t.aux = 0))]
  | .amld _ => [(0, decide (t.acc.toNat < 2)), (3, decide (t.sa.toNat < 48))]
  | .draw _ =>
    let n := (drawCount t + 127) / 128
    [(2, decide (t.dst.toNat < 48)), (4, decide (t.sc.toNat < 48)), (7, decide (t.opt.toNat < 2)), (14, decide (t.aux.toNat < 512))] ++
    (if bits t.opt 0 1 = 1 then [(0, decide (t.acc = 0)), (1, decide (t.row = 0)), (3, decide (t.sa.toNat + n ≤ 32)), (8, decide (t.str = 0))]
     else [(1, decide (t.row.toNat + n ≤ 64)), (3, decide (t.sa = 0)), (10, decide (t.sta = 0))])
  | i =>
    match mmaDims i with
    | some (_, m, _) =>
      let w := mmaWeights t.fmt.toNat
      [(1, decide (t.row.toNat + m ≤ 64)), (5, !w.isEmpty), (6, w.isEmpty || w.contains t.fw.toNat),
       (7, t.opt.toNat < 32 && (w.isEmpty || ((bits t.opt 0 1 = 0 || decide (8 ≤ t.fmt.toNat ∧ t.fmt.toNat ≤ 10)) &&
         ((bits t.opt 2 2).toNat = 0 || decide (8 ≤ t.fmt.toNat)))))]
    | none => []

/-- The fields of an M operation by number, 15 for the reserved bits, with whether it accepts what each holds: 0 where it
does not use the field (R327, R328). -/
def mChecks (t : MTmpl) (i : Instr) : List (Nat × Bool) :=
  let u := mKeep t i
  [(0, decide (u.acc = t.acc)), (1, decide (u.row = t.row)), (2, decide (u.dst = t.dst)), (3, decide (u.sa = t.sa)),
   (4, decide (u.sc = t.sc)), (5, decide (u.fmt = t.fmt)), (6, decide (u.fw = t.fw)), (7, decide (u.opt = t.opt)),
   (8, decide (u.str = t.str)), (9, decide (u.std = t.std)), (10, decide (u.sta = t.sta)), (11, decide (u.stc = t.stc)),
   (12, decide (u.addr = t.addr)), (13, decide (u.xtra = t.xtra)), (14, decide (u.aux = t.aux)), (15, decide (u.rsv = t.rsv))] ++ mLimits t i

/-- An operation's fields with whether it accepts what each holds. -/
def opChecks (i : Instr) : List (Nat × Bool) :=
  match mTmplOf i with
  | some t => mChecks t i
  | none =>
    match vRow i with
    | some (t, r) => vChecks r t
    | none => [(15, i = .mnop)]

/-- Does the operation accept its issued copy? -/
def opAccepts (i : Instr) : Bool := (opChecks i).all fun e => e.2

/-! From the table to the issued copy (04 R100–R102). -/

/-- The operation that a slot reads from a copy: slots 0 M, 1 A, 2 B, 3 F; `none` for a TOP not assigned in its class,
and for an MNOP with a field that is not zero. -/
def slotOp (slot : Nat) (t : QWord) : Option Instr :=
  match slot with
  | 0 => decodeM t
  | 1 => decodeV .a t
  | 2 => decodeV .b t
  | _ => decodeF t

/-- Is a TOP assigned in a slot's class (R108)? -/
def topAssigned (slot top : Nat) : Bool :=
  match slot with
  | 0 => decide (1 ≤ top ∧ top ≤ 7) || decide (32 ≤ top ∧ top < 48)
  | 3 => decide (1 ≤ top ∧ top ≤ 6)
  | _ => decide (1 ≤ top ∧ top ≤ 0x31)

/-- A field of a layout: low bit, width, and whether it is signed (R289, R326). -/
structure FieldAt where
  lo : Nat
  w : Nat
  signed : Bool := false
  deriving DecidableEq, Repr

/-- The fields of an A, B or F template (R289). -/
def vFields : List FieldAt :=
  [⟨114, 6, false⟩, ⟨108, 6, false⟩, ⟨102, 6, false⟩, ⟨96, 6, false⟩, ⟨92, 4, false⟩, ⟨89, 3, false⟩, ⟨88, 1, false⟩,
   ⟨85, 3, false⟩, ⟨82, 3, false⟩, ⟨78, 4, true⟩, ⟨74, 4, true⟩, ⟨70, 4, true⟩, ⟨66, 4, true⟩, ⟨50, 16, false⟩, ⟨18, 32, false⟩]

/-- The fields of an M template (R326). -/
def mFields : List FieldAt :=
  [⟨118, 2, false⟩, ⟨112, 6, false⟩, ⟨106, 6, false⟩, ⟨100, 6, false⟩, ⟨94, 6, false⟩, ⟨90, 4, false⟩, ⟨86, 4, false⟩,
   ⟨78, 8, false⟩, ⟨74, 4, true⟩, ⟨70, 4, true⟩, ⟨66, 4, true⟩, ⟨62, 4, true⟩, ⟨41, 21, false⟩, ⟨20, 21, false⟩, ⟨10, 10, false⟩]

/-- The field that a patch names. -/
def fieldAt (slot f : Nat) : Option FieldAt := (if slot = 0 then mFields else vFields)[f]?

/-- The value of a field of a template. -/
def getField (t : QWord) (f : FieldAt) : Nat := nbits t.toNat f.lo f.w

/-- The fields of a copy whose values its operation does not accept, 15 for reserved bits (R291, 11 R327). An MNOP uses
none. -/
def copyFaults (slot : Nat) (t : QWord) : List Nat :=
  match slotOp slot t with
  | some i => ((opChecks i).filter fun e => !e.2).map (·.1)
  | none =>
    (((mFields ++ [⟨0, 10, false⟩]) : List FieldAt).zipIdx.filter fun e => getField t e.1 ≠ 0).map (·.2)

/-- Is a copy accepted? -/
def copyOk (slot : Nat) (t : QWord) : Bool := (copyFaults slot t).isEmpty

/-- A template with a field replaced. -/
def setField (t : QWord) (f : FieldAt) (v : Nat) : QWord := BitVec.ofNat 128 (setNbits t.toNat f.lo f.w v)

/-- Does a value fit a field of its kind? -/
def fitsField (f : FieldAt) (y : Int) : Bool :=
  if f.signed then decide (-(2 ^ (f.w - 1) : Int) ≤ y ∧ y < 2 ^ (f.w - 1)) else decide (0 ≤ y ∧ y < 2 ^ f.w)

/-- A field as patched: `none` where it leaves its range (R102). -/
def patchedField (t : QWord) (f : FieldAt) (p : Patch) : Option Nat :=
  let x := getField t f
  let y : Int × Bool :=
    match p.mode.toNat with
    | 1 => let y : Nat := x - x % 2 ^ 16 + p.val.toNat
           ((y : Int), decide (y < 2 ^ f.w))
    | 2 => let y : Int := (if f.signed then sval f.w x else (x : Int)) + p.val.toInt
           (y, fitsField f y)
    | _ => (p.val.toNat, fitsField f p.val.toNat)
  if y.2 then some (wrapInt f.w y.1) else none

/-- What a patch meets that cannot be used, or that makes a copy not accepted: `stored` are the faults that the table
entry holds beside it, whose code is the lower one (R102, 03 R73, 10 R291). -/
def patchCode (stored : List Nat) : Code := if stored.isEmpty then .patchRange else .reservedField

/-- The issued copy of a table entry under a patch (R102, 03 R73, 10 R291, 11 R352); the entry and the patch are one word
of a bundle, so that the lowest code among several is the one answered. A combination that is not accepted counts as
stored where the entry holds it, and as made by the patch where only the copy does (log 55). -/
def issuedCopy (slot : Nat) (t : QWord) (p : Patch) : Except Code QWord :=
  let top := (bits t 120 8).toNat
  let n := p.field.toNat
  let stored := copyFaults slot t
  if top = 0 then .error .emptyTemplate
  else if !topAssigned slot top then .error .illegalOpcode
  else if p.mode = 0 then (if copyOk slot t then .ok t else .error .reservedField)
  else
    match fieldAt slot n with
    | none => .error (patchCode stored)
    | some f =>
      match patchedField t f p with
      | none => .error (patchCode (stored.filter fun m => m ≠ n))
      | some y =>
        let c := setField t f y
        if copyOk slot c then .ok c
        else .error (patchCode ((copyFaults slot c).filter fun m => m ≠ n && stored.contains m))

/-! The advance of a held or captured copy (09 R269, 10 R290, 11 R327). -/

/-- An operand field moved by a stride within its class; none where it leaves it. -/
def movedOpnd (field : BitVec 6) (st : BitVec 4) : Option (BitVec 6) :=
  let v := field.toNat
  let (lo, hi) := if v < 32 then (0, 32) else if v < 48 then (32, 48) else (48, 56)
  let y : Int := (v : Int) + st.toInt
  if decide ((lo : Int) ≤ y ∧ y < hi) then some (BitVec.ofInt 6 y) else none

/-- A number moved by an amount within `w` bits. -/
def movedNum (w : Nat) (x : BitVec w) (d : Int) : Option (BitVec w) :=
  let y : Int := x.toNat + d
  if decide (0 ≤ y ∧ y < 2 ^ w) then some (BitVec.ofInt w y) else none

/-- The operation with its strides applied; none where an operand leaves its class. -/
def advanceV (t : VTmpl) (str : Nat) : Option VTmpl := do
  let dst ← movedOpnd t.dst t.std
  let sa ← if str = 1 then some t.sa else movedOpnd t.sa t.sta
  let sb ← if str = 2 then some t.sb else movedOpnd t.sb t.stb
  let sc ← movedOpnd t.sc t.stc
  let imm ← movedNum 32 t.imm (if str = 1 then 512 * t.sta.toInt else if str = 2 then 512 * t.stb.toInt else 0)
  return { t with dst := dst, sa := sa, sb := sb, sc := sc, imm := imm }

/-- The same for an M operation (R327). -/
def advanceM (t : MTmpl) (i : Instr) : Option MTmpl :=
  match i with
  | .mls _ => do
    let a ← movedNum 21 t.addr (t.sta.toInt * (if bits t.opt 2 1 = 1 then 102 else 96))
    return { t with addr := a }
  | .accz _ => do
    let r ← movedNum 6 t.row (t.str.toInt * acczRows t)
    return { t with row := r }
  | i =>
    match mmaDims i with
    | some (_, m, k) => do
      let r ← movedNum 6 t.row (t.str.toInt * m)
      let a ← movedNum 21 t.addr (t.sta.toInt * k)
      return { t with row := r, addr := a }
    | none => do
      let r ← movedNum 6 t.row t.str.toInt
      let sa ← movedOpnd t.sa t.sta
      let d ← movedOpnd t.dst t.std
      let c ← movedOpnd t.sc t.stc
      return { t with row := r, sa := sa, dst := d, sc := c }

/-- `advance` of R269 on a copy of a slot; none where it traps PATCH_RANGE. -/
def advanceCopy (slot : Nat) (c : QWord) : Option QWord :=
  let top := (bits c 120 8).toNat
  match slotOp slot c with
  | none => none
  | some i =>
    let y :=
      match mTmplOf i with
      | some t => (advanceM t i).map (wrMTmpl top)
      | none =>
        match vRow i with
        | some (t, r) => (advanceV t r.str).map (wrVTmpl top)
        | none => some c
    match y with
    | some y => if copyOk slot y then some y else none
    | none => none

/-! What an operation reads and writes (09 R267, R274). -/

/-- A register that CMP interlocks on (R267). -/
inductive Reg
  | v (n : Nat)
  | k (n : Nat)
  | p (n : Nat)
  | acc (n : Nat)
  | am (n : Nat)
  | slice
  deriving DecidableEq, Repr

/-- The register that an operand field names, if it names one. -/
def regField (f : BitVec 6) : List Reg :=
  match opndOf f.toNat with
  | some (.v n) => [.v n]
  | some (.k n) => [.k n]
  | _ => []

/-- The predicate that PD names. -/
def pdReg (aux : BitVec 16) : List Reg := let p := (bits aux 0 6).toNat; if p = 0 then [] else [.p p]

/-- Registers that an A, B or F operation reads. -/
def vReads (t : VTmpl) (r : VRow) : Instr → List Reg
  | .gate _ =>
    let n := (gateE t.aux + 127) / 128
    (upto t.sa.toNat n).map Reg.v ++ (upto t.sb.toNat n).map Reg.v
  | .vmatch _ => regField t.dst ++ regField t.sa ++ regField t.sb
  | _ =>
    (if r.a = 0 then [] else regField t.sa) ++ (if r.b = 0 then [] else regField t.sb) ++
    (if r.c = 1 then regField t.sc else []) ++ (if t.mask = 0 then [] else [.k t.mask.toNat])

/-- Registers that an A, B or F operation writes. -/
def vWrites (t : VTmpl) (r : VRow) : Instr → List Reg
  | .vcmpEq _ | .vcmpNe _ | .vcmpLt _ | .vcmpLe _ | .vcmpGt _ | .vcmpGe _ | .vpopc _ | .vfirst _ =>
    regField t.dst ++ pdReg t.aux
  | .vmatch _ => regField t.dst ++ regField t.sc ++ pdReg t.aux
  | _ => (if r.d = 0 then [] else regField t.dst) ++ (if r.c = 2 then regField t.sc else [])

/-- Registers that an M operation reads. -/
def mReads (t : MTmpl) : Instr → List Reg
  | .mls _ => if bits t.opt 1 1 = 1 then [.slice] else []
  | .accrd _ => [.acc t.acc.toNat]
  | .accz _ => []
  | .accld _ | .amld _ => regField t.sa
  | .draw _ =>
    (if bits t.opt 0 1 = 1 then (upto t.sa.toNat ((drawCount t + 127) / 128)).map Reg.v else [.acc t.acc.toNat]) ++
    regField t.sc
  | _ => [.acc t.acc.toNat] ++ (if bits t.opt 2 1 = 1 then [.am 0] else []) ++ (if bits t.opt 3 1 = 1 then [.am 1] else [])

/-- Registers that an M operation writes. -/
def mWrites (t : MTmpl) : Instr → List Reg
  | .mls _ => []
  | .accrd _ => regField t.dst ++ (if bits t.opt 6 1 = 1 then regField t.sc else [])
  | .amld _ => [.am t.acc.toNat]
  | .draw _ => [.slice] ++ regField t.dst
  | _ => [.acc t.acc.toNat]

/-- The queue that a field names, with its peek bit. -/
def queueField (f : BitVec 6) (pk : Bool) : List (Nat × Bool) := if isQueue f.toNat then [(f.toNat - 32, pk)] else []

/-- What an operation names: registers read and written, source queues with their peek bits, destination queues. -/
structure Uses where
  reads : List Reg := []
  writes : List Reg := []
  srcs : List (Nat × Bool) := []
  dsts : List Nat := []
  deriving DecidableEq, Repr

/-- The uses of an operation. -/
def usesOf (i : Instr) : Uses :=
  match mTmplOf i with
  | some t =>
    { reads := mReads t i, writes := mWrites t i
      srcs :=
        match i with
        | .accld _ | .amld _ => queueField t.sa false
        | .draw _ => queueField t.sc false
        | _ => []
      dsts :=
        match i with
        | .accrd _ =>
          (queueField t.dst false ++ (if bits t.opt 6 1 = 1 then queueField t.sc false else [])).map (·.1)
        | .draw _ => (queueField t.dst false).map (·.1)
        | _ => [] }
  | none =>
    match vRow i with
    | some (t, r) =>
      { reads := vReads t r i, writes := vWrites t r i
        srcs := (if r.a = 0 then [] else queueField t.sa (bits t.pk 2 1 = 1)) ++
          (if r.b = 0 then [] else queueField t.sb (bits t.pk 1 1 = 1)) ++
          (if r.c = 1 then queueField t.sc (bits t.pk 0 1 = 1) else [])
        dsts := (if r.d = 0 then [] else queueField t.dst false).map (·.1) }
    | none => {}

/-- What an A, B or F operation computes. -/
def vRun (x : VIn) : Instr → EngOut
  | .vadd _ => runVadd x
  | .vsub _ => runVsub x
  | .vmul _ => runVmul x
  | .vfma _ => runVfma x
  | .vfms _ => runVfms x
  | .vmin _ => runVmin x
  | .vmax _ => runVmax x
  | .vabs _ => runVabs x
  | .vneg _ => runVneg x
  | .vand _ => runVand x
  | .vor _ => runVor x
  | .vxor _ => runVxor x
  | .vnot _ => runVnot x
  | .vshl _ => runVshl x
  | .vshr _ => runVshr x
  | .vsar _ => runVsar x
  | .vcmpEq _ => runVcmpEq x
  | .vcmpNe _ => runVcmpNe x
  | .vcmpLt _ => runVcmpLt x
  | .vcmpLe _ => runVcmpLe x
  | .vcmpGt _ => runVcmpGt x
  | .vcmpGe _ => runVcmpGe x
  | .vsel _ => runVsel x
  | .vmov _ => runVmov x
  | .vbcast _ => runVbcast x
  | .vperm _ => runVperm x
  | .vslide _ => runVslide x
  | .vredSum _ => runVredSum x
  | .vredMin _ => runVredMin x
  | .vredMax _ => runVredMax x
  | .vredAnd _ => runVredAnd x
  | .vredOr _ => runVredOr x
  | .vredXor _ => runVredXor x
  | .vscanSum _ => runVscanSum x
  | .vscanMin _ => runVscanMin x
  | .vscanMax _ => runVscanMax x
  | .vcvt _ => runVcvt x
  | .vscl _ => runVscl x
  | .vsclDerive _ => runVsclDerive x
  | .viota _ => runViota x
  | .vpopc _ => runVpopc x
  | .vfirst _ => runVfirst x
  | .vtopk _ => runVtopk x
  | .vld _ => runVld x
  | .vst _ => runVst x
  | .gate _ => runGate x
  | .vpen _ => runVpen x
  | .vsbias _ => runVsbias x
  | .vban _ => runVban x
  | .vmatch _ => runVmatch x
  | .vexp _ => runVexp x
  | .vlog _ => runVlog x
  | .vrcp _ => runVrcp x
  | .vrsq _ => runVrsq x
  | .vtanh _ => runVtanh x
  | .vsigm _ => runVsigm x
  | _ => {}

/-- What an M operation that is neither MLS nor MMA computes. -/
def mRun (k : Core) : Instr → EngOut
  | .accrd t => runAccrd k t
  | .accz t => runAccz t
  | .accld t => runAccld k t
  | .amld t => runAmld k t
  | .draw t => runDraw k t
  | _ => {}

/-- What an operation computes at issue on core state `k`; `n` counts earlier issues of its template (03 R84). -/
def runOp (k : Core) (n : Nat) (i : Instr) : EngOut :=
  match vRow i with
  | some (t, _) => vRun { k := k, t := t, n := n } i
  | none => mRun k i

end Sys2Proof.Machine
end

