-- ==== Sys2Proof/Machine/Compute.lean ====
section
/-! DEFINITION. CMP: the issue of a bundle, held copies, the loop buffer, and how operations leave their engines
(04 R98–R102, 09 R266–R285, 10 R295, R311, R312, 11 R325, R331–R341, R350–R353). -/

namespace Sys2Proof.Machine

/-! An operation about to issue. -/

/-- An operation about to issue: its slot, what it is, and its table entry where it came from one. -/
structure OpAt where
  slot : Nat
  i : Instr
  key : Option Nat := none
  deriving DecidableEq, Repr

/-- The operation of an issued copy. -/
def opAt (slot : Nat) (x : SlotCopy) : OpAt := ⟨slot, (slotOp slot x.t).getD .mnop, some (slot * 64 + x.idx)⟩

/-- Scratchpad bytes that an operation reads or writes: offset, length, and whether it writes (10 R311, 11 R332, R335). -/
def spans (k : Core) (i : Instr) : List (Nat × Nat × Bool) :=
  match i with
  | .vld u => [(u.t.imm.toNat, 512, false)]
  | .vst u => [(u.t.imm.toNat, 512, true)]
  | .mls t =>
    if bits t.opt 0 1 = 1 then
      [(128 * (t.addr.toNat + (if bits t.opt 1 1 = 1 then k.mx.slice * t.xtra.toNat else 0)),
        recordBytesOf (bits t.opt 2 1 = 1), false)]
    else []
  | i =>
    match mmaDims i with
    | some (t, m, n) => (upto 0 m).flatMap fun r => (upto 0 n).map fun j => (mmaChunk t r j, 128, false)
    | none => []

/-- Does [a, a + n) meet [b, b + m)? -/
def overlap (a n b m : Nat) : Bool := decide (a < b + m) && decide (b < a + n)

/-- The first byte of an MLS record: scratchpad offset or expert-store address (11 R332). -/
def mlsAddr (k : Core) (t : MTmpl) : Nat :=
  128 * (t.addr.toNat + (if bits t.opt 1 1 = 1 then k.mx.slice * t.xtra.toNat else 0))

/-- Does a range leave the tile's allocation (02 R44)? -/
def outside (t : Tile) (a n : Nat) : Bool := decide (a + n > t.reg.spTile) || decide (a + n > Config.scratchBytes)

/-- The conditions that an engine finds at issue (10 R311, 11 R332, R335, R352). -/
def issueTraps (k : Core) (t : Tile) (i : Instr) : List (Bool × Code × Nat) :=
  (match i with
   | .vld u => [(u.t.imm.toNat % 64 ≠ 0, Code.align, u.t.imm.toNat)]
   | .vst u => [(u.t.imm.toNat % 64 ≠ 0, .align, u.t.imm.toNat), (hitsSnap k u.t.imm.toNat 512, .xlatePermission, u.t.imm.toNat)]
   | .mls m =>
     [(bits m.opt 0 1 = 0 && decide (mlsAddr k m + recordBytesOf (bits m.opt 2 1 = 1) > Config.expertBytes),
       .xlateNotPresent, mlsAddr k m)]
   | _ => []) ++
  (spans k i).map fun x => (outside t x.1 x.2.1, Code.scratchRange, x.1)

/-! Interlocks and engine ports (09 R267, R268, 10 R312, 11 R325, R339, R350). -/

/-- The register that a result goes to. -/
def EngWrite.reg : EngWrite → List Reg
  | .vreg n _ => [.v n]
  | .kreg n _ _ => [.k n]
  | .pred n _ => [.p n]
  | .slice _ => [.slice]
  | .maskTile t _ => [.am t]
  | .acc a _ _ => [.acc a]
  | _ => []

/-- Registers that operations in the engines have still to write; `snap` leaves out those that an MMA owns (11 R341). -/
def busyRegs (k : Core) (snap : Bool) : List Reg :=
  (k.ops.flatMap fun o => o.writes.flatMap EngWrite.reg) ++
  (if snap then [] else k.mx.mmas.map fun m => Reg.acc m.copy.acc.toNat)

/-- Scratchpad ranges that operations have still to write. -/
def pendingWrites (k : Core) : List (Nat × Nat) :=
  k.ops.flatMap fun o => o.writes.flatMap fun w =>
    match w with
    | .scratch a d => [(a, d.length)]
    | _ => []

/-- Scratchpad ranges that MLS and MMA operations issued up to a bundle have still to read (11 R350). -/
def pendingReads (k : Core) (bundle : Nat) : List (Nat × Nat) :=
  (k.mx.load.flatMap fun x =>
    if x.sp && !x.started && decide (x.bundle ≤ bundle) then [(x.addr, recordBytesOf x.scl)] else []) ++
  (k.mx.mmas.flatMap fun x =>
    if x.bundle ≤ bundle then
      (upto 0 x.m).flatMap fun r => (upto x.done (x.steps - x.done)).map fun j => (mmaChunk x.copy r j, 128)
    else [])

/-- Does the operation's scratchpad range wait for earlier operations? -/
def spBusy (k : Core) (i : Instr) : Bool :=
  (spans k i).any fun x =>
    (pendingWrites k).any (fun y => overlap x.1 x.2.1 y.1 y.2) ||
    (x.2.2 && (pendingReads k k.comp.bundle).any fun y => overlap x.1 x.2.1 y.1 y.2)

/-- Is the operation an ACCRD with SNAP? -/
def isSnap : Instr → Bool
  | .accrd t => bits t.opt 5 1 = 1
  | _ => false

/-- Does the operation take a place at the compute port (11 R325)? -/
def atComputePort (i : Instr) : Bool :=
  match i with
  | .accz _ | .accld _ | .draw _ => true
  | i => (mmaDims i).isSome

/-- Operations held at the compute port. -/
def computeHeld (k : Core) : Nat := k.mx.mmas.length + (k.ops.filter fun o => o.compute).length

/-- Can the engine of an operation take it, and are its interlocks met? -/
def opReady (k : Core) (i : Instr) : Bool :=
  let u := usesOf i
  let busy := busyRegs k (isSnap i)
  !((u.reads ++ u.writes).any busy.contains) && !spBusy k i &&
  (match i with
   | .mls _ => decide (k.mx.load.length < 2)
   | i => !atComputePort i || decide (computeHeld k < 2))

/-! Queues and tokens of a bundle (09 R271, R272, R274, R275). -/

/-- The source queues of a bundle, each once, with whether it is popped (R274). -/
def bundleSrcs (ops : List OpAt) : List (Nat × Bool) :=
  let all := ops.flatMap fun o => (usesOf o.i).srcs
  (all.map (·.1)).eraseDups.map fun q => (q, all.any fun e => e.1 = q && !e.2)

/-- The destination queues of a bundle, one entry each time one is named. -/
def bundleDsts (ops : List OpAt) : List Nat := ops.flatMap fun o => (usesOf o.i).dsts

/-- Has a queue a landed head? -/
def hasHead (k : Core) (q : Nat) : Bool := decide (0 < landed (k.queue q))

/-- Entries and reservations that a queue would hold after the bundle. -/
def afterBundle (k : Core) (ops : List OpAt) (q : Nat) : Nat :=
  (k.queue q).length - (if (bundleSrcs ops).any fun e => e.1 = q && e.2 then 1 else 0) +
  ((bundleDsts ops).filter (· = q)).length

/-- The queue conditions that trap (R275). -/
def queueTraps (k : Core) (ops : List OpAt) : List (Bool × Code × Nat) :=
  ((bundleSrcs ops).map fun e =>
    if (k.binding e.1).isSome then (decide (8 ≤ e.1), Code.reservedField, 0)
    else ((k.queue e.1).isEmpty, Code.qUnderflow, 0)) ++
  ((bundleDsts ops).eraseDups.map fun q =>
    if (k.binding q).isSome then (decide (q < 8), Code.reservedField, 0)
    else (decide (afterBundle k ops q > 4), Code.qOverflow, 0))

/-- Do the queues let the bundle issue (R275)? -/
def queuesReady (k : Core) (ops : List OpAt) : Bool :=
  ((bundleSrcs ops).all fun e => hasHead k e.1) && ((bundleDsts ops).all fun q => decide (afterBundle k ops q ≤ 4))

/-- The sequencer of a POPSRC or PUSHDST field, if it names one. -/
def hdrSeq (x : BitVec 2) : Option Seq := if x = 0 then none else if x = 1 then some .ctl else if x = 2 then some .ld else some .st

/-- Is the bundle's token pop satisfied (R271)? -/
def popReady (k : Core) (h : BundleHdr) : Bool :=
  match hdrSeq h.popSrc with
  | none => true
  | some q => decide (h.popN.toNat + 1 ≤ k.tokens q .cmp)

/-- Tokens that pushes reserved and not delivered will add (R272). -/
def reservedTokens (k : Core) (dst : Seq) : Nat := ((k.comp.pushes.filter fun p => p.dst = dst).map (·.n)).sum

/-- Would the bundle's push overflow its queue (R272)? -/
def pushOverflows (k : Core) (h : BundleHdr) : Bool :=
  match hdrSeq h.pushDst with
  | none => false
  | some q => decide (k.tokens .cmp q + reservedTokens k q + h.pushN.toNat + 1 > 255)

/-! Issue. -/

/-- A bundle that cannot issue now: CMP_PERF counts it, and it is tried again (09 R268, R285). -/
def stallBundle (c : Nat) (w : Wait) : Act Unit := do
  modCoreAt c fun k => { k with comp := { k.comp with stall := (k.comp.stall + 1) % 2 ^ 32 } }
  waitFor w

/-- Give the queue results of an operation their reservations (R274). -/
def reserveWrites (c : Nat) (l : List EngWrite) : Act (List EngWrite) :=
  collect l fun w =>
    match w with
    | .queue q _ d => do
      let r ← reserve c q
      return .queue q r d
    | w => return w

/-- Count an operation issued to a unit (10 R322). -/
def countOp (slot : Nat) (k : Core) : Core :=
  match slot with
  | 1 => { k with vuA := (k.vuA + 1) % 2 ^ 32 }
  | 2 => { k with vuB := (k.vuB + 1) % 2 ^ 32 }
  | 3 => { k with vuF := (k.vuF + 1) % 2 ^ 32 }
  | _ => k

/-- The issued copy of an operation of the compute port that is no MMA. -/
def computeCopy (i : Instr) : QWord :=
  match i with
  | .accz t => wrMTmpl 4 t
  | .accld t => wrMTmpl 5 t
  | .draw t => wrMTmpl 7 t
  | _ => 0

/-- Issue one operation that reads core state `k` (09 R268, 10 R295, 11 R332, R336). -/
def issueOp (c : Nat) (k : Core) (o : OpAt) : Act Unit := do
  let b := k.comp.bundle
  let n := match o.key with
    | some j => SMap.get 0 k.comp.counts j
    | none => 0
  modCoreAt c fun x => countOp o.slot { x with
    nextId := x.nextId + 1
    comp := { x.comp with counts := match o.key with
      | some j => SMap.put x.comp.counts j (n + 1)
      | none => x.comp.counts } }
  let s ← get
  let id := (s.coreOf c).nextId
  let pc := k.cmp.pc
  match o.i with
  | .mls t =>
    let sp := bits t.opt 0 1 = 1
    modCoreAt c fun x => { x with mx := { x.mx with
      load := x.mx.load ++ [{ bundle := b, copy := t, addr := mlsAddr k t, sp := sp, scl := bits t.opt 2 1 = 1, pc := pc }] } }
  | i =>
    match mmaDims i with
    | some (t, m, steps) =>
      modCoreAt c fun x => { x with mx := { x.mx with
        stepcnt := SMap.put x.mx.stepcnt t.acc.toNat 0
        mmas := x.mx.mmas ++ [{ id := id, bundle := b, copy := t, m := m, steps := steps, am0 := k.amTile 0, am1 := k.amTile 1, pc := pc }] } }
    | none =>
      let r := runOp k n i
      let ws ← reserveWrites c r.writes
      modCoreAt c fun x => { x with
        ops := x.ops ++ [{ id := id, bundle := b, slot := o.slot, writes := ws, flags := r.flags, late := r.late, pc := pc, compute := atComputePort i, copy := computeCopy i }] }

/-- The conditions found at issue (09 R272, R273, R275). -/
def opTraps (k : Core) (t : Tile) (h : BundleHdr) (ops : List OpAt) : List (Bool × Code × Nat) :=
  (ops.flatMap fun o => issueTraps k t o.i) ++ queueTraps k ops ++ [(pushOverflows k h, .tokenOverflow, 0)]

/-- The scratchpad chunks that operations touch. -/
def opChunks (k : Core) (ops : List OpAt) : List Nat :=
  (ops.flatMap fun o => (spans k o.i).flatMap fun x => upto (x.1 / 4096) ((x.1 + x.2.1 + 4095) / 4096 - x.1 / 4096)).eraseDups

/-- Trap the lowest code among conditions and the fill faults of the chunks that operations touch (09 R273, 10 R311,
11 R352). -/
def trapAtIssue (c : Nat) (l : List (Bool × Code × Nat)) (chunks : List Nat) : Act Unit := do
  let fills ← collect chunks fun ch => do
    match ← attemptUndo (touchChunks c (ch * 4096) 1) with
    | .error (.trap code va) => return [(ch + 1, Stop.trap code va)]
    | _ => return []
  match worst (((l.filter (·.1)).map fun x => (0, Stop.trap x.2.1 x.2.2)) ++ fills.flatten) with
  | some (0, e) => throw e
  | some (n + 1, _) => touchChunks c (n * 4096) 1
  | none => pure ()

/-- Check and issue the operations of a bundle whose guard is true (09 R268, R269, R271–R275). `bad` are conditions of
the held copies' advance. -/
def issueOps (c : Nat) (h : BundleHdr) (ops : List OpAt) (bad : List (Bool × Code × Nat)) : Act Unit := do
  let s ← get
  let k := s.coreOf c
  let t ← tileOf c
  if !(ops.all fun o => opReady k o.i) then stallBundle c .engine else pure ()
  if !popReady k h then stallBundle c .token else pure ()
  trapAtIssue c (bad ++ opTraps k t h ops) (opChunks k ops)
  if !queuesReady k ops then stallBundle c .queue else pure ()
  each (opChunks k ops) fun ch => touchChunks c (ch * 4096) 1
  let s ← get
  let k := s.coreOf c
  each (bundleSrcs ops) fun e => if e.2 then dropHead c e.1 else pure ()
  modCoreAt c fun x =>
    let x := match hdrSeq h.popSrc with
      | some q => x.setTokens q .cmp (x.tokens q .cmp - (h.popN.toNat + 1))
      | none => x
    match hdrSeq h.pushDst with
    | some q => { x with comp := { x.comp with pushes := x.comp.pushes ++ [⟨k.comp.bundle, q, h.pushN.toNat + 1⟩] } }
    | none => x
  each ops fun o => issueOp c k o
  modCoreAt c fun x => { x with comp := { x.comp with bundle := x.comp.bundle + 1 } }

/-! Headers, patches and copies (04 R99–R102). -/

/-- The four slots in order with a list's elements. -/
def slotted {α : Type} (l : List α) : List (Nat × α) := l.zipIdx.map fun e => (e.2, e.1)

/-- The header conditions of R99. -/
def hdrBad (h : BundleHdr) (present : List Bool) : Bool :=
  (h.popSrc = 0 && h.popN ≠ 0) || (h.pushDst = 0 && h.pushN ≠ 0) || h.rsv ≠ 0 || decide (48 ≤ h.g.toNat) ||
  ((slotted present).any fun e => !e.2 && h.hold.getLsbD (3 - e.1))

/-- The patch conditions of R100. -/
def patchBad (p : Patch) : Bool := p.rsv ≠ 0 || (p.mode = 0 && (p.field ≠ 0 || p.val ≠ 0))

/-- The issued copy of a slot that is present (R102). -/
def formCopy (k : Core) (slot : Nat) (p : Patch) : Except Code SlotCopy :=
  match issuedCopy slot (SMap.get 0 k.comp.tmpl (slot * 64 + p.idx.toNat)) p with
  | .ok t => .ok ⟨t, p.idx.toNat⟩
  | .error e => .error e

/-- A copy that could be formed. -/
def okCopy (x : Except Code SlotCopy) : Option SlotCopy :=
  match x with
  | .ok y => some y
  | .error _ => none

/-- The condition that a copy met. -/
def copyTrap (x : Except Code SlotCopy) : List (Bool × Code × Nat) :=
  match x with
  | .ok _ => []
  | .error e => [(true, e, 0)]

/-! Held copies (09 R269). -/

/-- A held copy's next form: `none` in the outer option where the advance traps. -/
def advanceSlot (slot : Nat) (x : Option SlotCopy) : Option (Option SlotCopy) :=
  match x with
  | none => some none
  | some y => (advanceCopy slot y.t).map fun t => some { y with t := t }

/-- For each slot: the operation's copy and the copy held afterwards; none where an advance traps (R269). -/
def slotStep (h : BundleHdr) (slot : Nat) (present : Option SlotCopy) (held : Option SlotCopy) :
    Option (Option SlotCopy × Option SlotCopy) :=
  match present with
  | some x => some (some x, if h.hold.getLsbD (3 - slot) then some x else none)
  | none => (advanceSlot slot held).map fun y => (y, y)

/-- The slots' copies to issue and to hold (R269). -/
def bundleSlots (k : Core) (h : BundleHdr) (copies : List (Option SlotCopy)) :
    List (Nat × Option (Option SlotCopy × Option SlotCopy)) :=
  (slotted (copies.zip k.comp.held)).map fun e => (e.1, slotStep h e.1 e.2.1 e.2.2)

/-- The operations of those slots. -/
def slotOps (l : List (Nat × Option (Option SlotCopy × Option SlotCopy))) : List OpAt :=
  l.filterMap fun e => e.2.bind fun x => x.1.map (opAt e.1)

/-- The condition that an advance meets (R269). -/
def advanceTraps (l : List (Nat × Option (Option SlotCopy × Option SlotCopy))) : List (Bool × Code × Nat) :=
  [(l.any fun e => e.2.isNone, .patchRange, 0)]

/-- Issue a bundle with these copies: guard, held re-issues, checks, issue (R269, R270). `bad` are the conditions that
the bundle's words or its copies met already: they trap at once, whatever the guard is, and with a true guard the
lowest code among them and the conditions of issue of its other slots is taken (R273); `failed` are the slots that are
present and could form no copy. -/
def issueCopies (c : Nat) (h : BundleHdr) (copies : List (Option SlotCopy)) (failed : List Nat)
    (bad : List (Bool × Code × Nat)) : Act Unit := do
  let s ← get
  let k := s.coreOf c
  let t ← tileOf c
  let unsure := (busyRegs k true).contains (.p h.g.toNat)
  let l := bundleSlots k h copies
  if bad.any fun e => e.1 then
    let l := l.filter fun e => !failed.contains e.1
    if k.preg h.g.toNat && !unsure then trapAtIssue c (bad ++ advanceTraps l ++ opTraps k t h (slotOps l)) (opChunks k (slotOps l))
    else trapLowest bad
  else pure ()
  if unsure then stallBundle c .engine else pure ()
  if k.preg h.g.toNat then
    issueOps c h (slotOps l) (advanceTraps l)
    modCoreAt c fun k => { k with comp := { k.comp with held := l.map fun e => (e.2.getD (none, none)).2 } }
  else pure ()
  modCoreAt c fun k => { k with comp := { k.comp with issued := (k.comp.issued + 1) % 2 ^ 32 } }

/-! Faults found after issue (09 R281). -/

/-- CMP traps for a fault found after issue, before its next bundle (R281). In trap mode, and while
CTL has an atomic out, the fault stays to be taken. -/
def lateTrap (c : Nat) : Act Unit := do
  let s ← get
  let k := s.coreOf c
  match k.comp.lateVa with
  | none => pure ()
  | some va =>
    if k.trap.mode || k.ctl.remote.isSome then pure ()
    else modCoreAt c fun k => { k with comp := { k.comp with lateVa := none } }
    trap .poisonConsumed va

/-! The loop buffer (09 R276–R279). -/

/-- Would this next address change CMP's stage (06 R183)? -/
def atBoundary (r : NestRec) (x : SeqState) (addr : Nat) : Bool :=
  match x.stage with
  | .prologue => addr = r.entryAt .cmp 1
  | .kernel => addr = r.entryAt .cmp 2
  | .epilogue => addr = r.endAt .cmp
  | .complete => false

/-- The conditions of R279. -/
def loopBad (k : Core) (t : Tile) (h : BundleHdr) (len : Nat) : Bool :=
  let cap := k.comp.lb = .capturing
  (h.lbs = 1 && cap) || (h.lbe = 1 && !cap && h.lbs = 0) || (cap && decide (64 ≤ k.comp.captured.length)) ||
  ((cap || h.lbs = 1) && h.lbe = 0 && atBoundary t.nrec k.cmp ((k.cmp.pc + BitVec.ofNat 64 len).toNat))

/-- What LBS and LBE do at a bundle from memory (R277). -/
def loopStep (h : BundleHdr) (copies : List (Option SlotCopy)) (len : Nat) (k : Core) : Core :=
  let cap := k.comp.lb = .capturing || h.lbs = 1
  if cap then
    let old := if h.lbs = 1 then [] else k.comp.captured
    let slots : BitVec 4 := BitVec.ofNat 4 (copies.foldl (fun n x => 2 * n + (if x.isSome then 1 else 0)) 0)
    let body := old ++ [{ hdr := h, slots := slots, addr := k.cmp.pc.toNat, copies := copies }]
    let start := match body with
      | b :: _ => b.addr
      | [] => 0
    if h.lbe = 1 then
      { k with comp := { k.comp with
        lb := .armed, captured := body, lbAddr := start, lbNext := (k.cmp.pc + BitVec.ofNat 64 len).toNat, replays := 0 } }
    else { k with comp := { k.comp with lb := .capturing, captured := body, lbAddr := start, lbNext := 0 } }
  else k

/-- A bundle from memory (R269): `ps` are the patch words of the slots M, A, B, F. -/
def bundle (h : BundleHdr) (ps : List (Option Patch)) : Act Unit := do
  let s ← get
  let c := s.core
  let k := s.coreOf c
  let t ← tileOf c
  lateTrap c
  let len := 4 + 4 * (ps.filter Option.isSome).length
  let forms := (slotted ps).map fun e => e.2.map (formCopy k e.1)
  let bad := [(hdrBad h (ps.map Option.isSome), Code.reservedField, 0),
      (ps.any fun p => match p with | some p => patchBad p | none => false, .reservedField, 0),
      (loopBad k t h len, .reservedField, 0)] ++
    forms.flatMap fun x => match x with | some x => copyTrap x | none => []
  let copies := forms.map fun x => x.bind okCopy
  issueCopies c h copies (((slotted (forms.zip copies)).filter fun e => e.2.1.isSome && e.2.2.isNone).map (·.1)) bad
  modCoreAt c (loopStep h copies len)
  modify fun s => s.nextBundle c len

/-- A bundle issued from the loop buffer (R277): its current copies are advanced, whatever its guard is. -/
def replayBundle (c : Nat) : Act Unit := do
  lateTrap c
  let s ← get
  let k := s.coreOf c
  match k.comp.replay.bind (k.comp.captured[·]?) with
  | none => pure ()
  | some b =>
    let l := (slotted b.copies).map fun e => advanceSlot e.1 e.2
    let copies := l.map fun x => x.getD none
    issueCopies c b.hdr copies (((slotted l).filter fun e => e.2.isNone).map (·.1)) [(l.any Option.isNone, .patchRange, 0)]
    modCoreAt c fun k => { k with comp := { k.comp with
      captured := k.comp.captured.set (k.comp.replay.getD 0) { b with copies := copies } } }
    modify fun s => s.nextBundle c 0

/-- Does CMP's next bundle come from the loop buffer (R277)? Where it does, the replay has begun. -/
def replaying (c : Nat) (s : State) : Option State :=
  let k := s.coreOf c
  if k.comp.replay.isSome then some s
  else if k.comp.lb = .armed && k.cmp.pc.toNat = k.comp.lbAddr then
    some (s.updCore c fun k => { k with comp := { k.comp with replay := some 0 } })
  else none

/-- LATE_FAULT_TRAP (R281): a replay that is due has begun, so that TRAP_PC's bundle is the captured one (R282). -/
def execLateFaultTrap (s : State) : Host.Outcome State Fault Refusal :=
  let c := s.ev.core
  let k := s.coreOf c
  if k.tile.isSome && k.comp.lateVa.isSome && k.cmp.run ≠ .trapped then
    settle c .cmp (lateTrap c ((replaying c s).getD s))
  else .next s

/-- ISSUE_BUNDLE (R269). -/
def execIssueBundle (h : BundleHdr) (pm pa pb pf : Option Patch) (s : State) : Host.Outcome State Fault Refusal :=
  settle s.core .cmp (bundle h [pm, pa, pb, pf] s)

/-- EMPTY_BUNDLE (R270): with SLOTS = 0 every held copy is issued again. -/
def execEmptyBundle (h : BundleHdr) (s : State) : Host.Outcome State Fault Refusal :=
  settle s.core .cmp (bundle h [none, none, none, none] s)

/-! How operations leave their engines. -/

/-- The sectors with a byte that a masked write at `a` writes. -/
def sectorsOf (a : Nat) (d : List (Option Byte)) : List Nat :=
  (upto (a / 128) ((a + d.length + 127) / 128 - a / 128)).filter fun x =>
    (d.zipIdx).any fun e => e.1.isSome && decide ((a + e.2) / 128 = x)

/-- Write one result (10 R294, R295). -/
def applyWrite (c : Nat) (w : EngWrite) : Act Unit :=
  match w with
  | .vreg n d => modCoreAt c fun k => { k with
      v := SMap.put k.v n ((d.zip (k.vreg n)).map fun e => e.1.getD e.2) }
  | .kreg n en v => modCoreAt c fun k => { k with k := SMap.put k.k n ((k.kreg n &&& ~~~en) ||| (v &&& en)) }
  | .pred n v => modCoreAt c fun k => k.setP n v
  | .scratch a d => modCoreAt c fun k =>
      let old := k.spRead a d.length
      let k' := k.spWrite a ((d.zip old).map fun e => e.1.getD e.2)
      let on := (d.zip (upto a d.length)).filter fun e => e.1.isSome
      let k' := if d.all Option.isSome then k' else { k' with spPoison := k.spPoison, soiled := k.watched (on.map (·.2)) ++ k.soiled }
      (sectorsOf a d).foldl (fun k x => dirtySectors k (x * 128) 1) k'
  | .queue q rid d => land c q rid d
  | .slice v => modCoreAt c fun k => { k with mx := { k.mx with slice := v % 512 } }
  | .maskTile t d => modCoreAt c fun k => { k with mx := { k.mx with am := SMap.put k.mx.am t d } }
  | .acc a r d => modCoreAt c fun k => { k with mx := { k.mx with acc := SMap.put k.mx.acc (64 * a + r) d } }
  | .step a n => modCoreAt c fun k => { k with mx := { k.mx with stepcnt := SMap.put k.mx.stepcnt a n } }

/-- Note a fault found after issue (R281). -/
def noteLate (c slot : Nat) (pc : DWord) (va : Nat) : Act Unit :=
  modCoreAt c fun k => { k with comp := { k.comp with late := 1 <<< (3 - slot), lateVa := some va, latePc := pc } }

/-- Do two operations write one register or one scratchpad byte? -/
def conflict (a b : EngOp) : Bool :=
  let rs := b.writes.flatMap EngWrite.reg
  (a.writes.flatMap EngWrite.reg).any rs.contains ||
  (a.writes.any fun x => b.writes.any fun y =>
    match x, y with
    | .scratch p d, .scratch q e => overlap p d.length q e.length
    | _, _ => false)

/-- Did the operation go through the matrix engine's read port (11 R325)? -/
def EngOp.atReadPort (o : EngOp) : Bool := o.slot = 0 && !o.compute

/-- May an operation complete: after those of its bundle's earlier slots that write the same place (10 R295), in the
order of its port (11 R325), and not over bytes still to be read (11 R350)? One that a save keeps unstarted may not
(11 R354). -/
def opMayEnd (k : Core) (o : EngOp) : Bool :=
  decide (k.mx.parked ≠ some o.id) &&
  (k.ops.all fun p => !(p.bundle = o.bundle && decide (p.slot < o.slot) && conflict p o)) &&
  (!o.compute || ((k.ops.all fun p => !p.compute || decide (o.id ≤ p.id)) && k.mx.mmas.all fun m => decide (o.id < m.id))) &&
  (!o.atReadPort || k.ops.all fun p => !p.atReadPort || decide (o.id ≤ p.id)) &&
  (o.writes.all fun w =>
    match w with
    | .scratch a d => (pendingReads k o.bundle).all fun y => !overlap a d.length y.1 y.2
    | _ => true)

/-- ENGINE_OPERATION_COMPLETE (R268, 03 R87): operation number `num` of core `core` writes its results. -/
def execEngineOperationComplete (s : State) : Host.Outcome State Fault Refusal :=
  let c := s.ev.core
  let k := s.coreOf c
  match k.ops.find? fun o => o.id = s.ev.num with
  | none => .next s
  | some o =>
    event (fun _ => opMayEnd k o) (do
      each o.writes (applyWrite c)
      match o.late with
      | some va => noteLate c o.slot o.pc va
      | none => pure ()
      modCoreAt c fun k => { k with flags := k.flags ||| o.flags, ops := k.ops.filter fun p => p.id ≠ o.id }) s

/-- Have all operations of a bundle and of those before it written all their results (09 R272, 11 R351)? An MLS has
once its record is read. -/
def bundleDone (k : Core) (b : Nat) : Bool :=
  (k.ops.all fun o => decide (b < o.bundle)) && (k.mx.mmas.all fun m => decide (b < m.bundle)) &&
  (k.mx.load.all fun m => m.started || decide (b < m.bundle))

/-- TOKEN_PUSH_DELIVER (R272): the oldest push of core `core` reaches its queue. -/
def execTokenPushDeliver (s : State) : Host.Outcome State Fault Refusal :=
  let c := s.ev.core
  let k := s.coreOf c
  match k.comp.pushes with
  | [] => .next s
  | p :: r =>
    event (fun _ => bundleDone k p.bundle) (modCoreAt c fun k =>
      { k with comp := { k.comp with pushes := r } }.setTokens .cmp p.dst (k.tokens .cmp p.dst + p.n)) s

/-! The matrix engine at work (11 R331, R332, R336). -/

/-- The first poisoned sector of an MLS record (R353). -/
def mlsPoison (s : State) (k : Core) (x : MlsRun) : Option Nat :=
  let n := recordBytesOf x.scl
  let l := if x.sp then k.spPoison else s.m.xsPoison
  ((upto (x.addr / 128) ((x.addr + n + 127) / 128 - x.addr / 128)).find? l.contains).map fun p => Nat.max x.addr (p * 128)

/-- MLS_START (R331): the oldest MLS finds the shadow empty and reads its record. -/
def execMlsStart (s : State) : Host.Outcome State Fault Refusal :=
  let c := s.ev.core
  let k := s.coreOf c
  match k.mx.load with
  | [] => .next s
  | x :: r =>
    event (fun _ => k.mx.shadowRun = .empty && !x.started) (do
      let n := recordBytesOf x.scl
      let data := if x.sp then k.spRead x.addr n else (upto x.addr n).map fun a => SMap.get 0 s.m.xs a
      match mlsPoison s k x with
      | some va => noteLate c 0 x.pc va
      | none => pure ()
      modCoreAt c fun k => { k with mx := { k.mx with
        load := { x with started := true } :: r, shadow := planeOf x.scl data, shadowRun := .loading } }) s

/-- SHADOW_FULL (R331): every byte of the record has landed. -/
def execShadowFull (s : State) : Host.Outcome State Fault Refusal :=
  let c := s.ev.core
  event (fun s => (s.coreOf c).mx.shadowRun = .loading)
    (modCoreAt c fun k => { k with mx := { k.mx with shadowRun := .full, load := k.mx.load.drop 1 } }) s

/-- Does a K step take a plane (R336)? -/
def takesPlane (x : MmaRun) : Bool := !(x.done = 0 && bits x.copy.opt 4 1 = 1)

/-- The poisoned chunk that a K step reads, if any (R353). -/
def stepPoison (k : Core) (x : MmaRun) : Option Nat :=
  ((upto 0 x.m).map fun r => mmaChunk x.copy r x.done).find? fun a => k.spPoison.contains (a / 128)

/-- Does the MMA at the head of the compute port wait for the shadow plane (R331, R355)? -/
def waitsForPlane (k : Core) : Bool :=
  match k.mx.mmas with
  | [] => false
  | x :: _ => !(k.ops.any fun p => p.compute && decide (p.id < x.id)) && takesPlane x && k.mx.shadowRun ≠ .full

/-- One K step of an MMA (R336). The bytes of the plane that leaves are gone (R331). -/
def kStep (c : Nat) (x : MmaRun) (rest : List MmaRun) : Act Unit := do
  if takesPlane x then
    modCoreAt c fun k => { k with mx := { k.mx with
      active := k.mx.shadow, activeFull := true, shadow := {}, shadowRun := .empty } }
  else pure ()
  let s ← get
  let k := s.coreOf c
  let a := x.copy.acc.toNat
  let row0 := x.copy.row.toNat
  let clear := x.done = 0 && bits x.copy.opt 1 1 = 1
  let rows := (upto 0 x.m).map fun m =>
    mmaRow k x k.mx.active (if clear then List.replicate 128 0 else k.accRow a (row0 + m)) m
  let acc := rows.zipIdx.foldl (fun acc e => SMap.put acc (64 * a + row0 + e.2) e.1.1) k.mx.acc
  let fl := rows.foldl (fun f e => f ||| e.2) (0 : Flags)
  match stepPoison k x with
  | some va => noteLate c 0 x.pc va
  | none => pure ()
  modCoreAt c fun k => { k with
    flags := k.flags ||| fl
    mx := { k.mx with
      acc := acc
      stepcnt := SMap.put k.mx.stepcnt a (x.done + 1)
      ksteps := (k.mx.ksteps + 1) % 2 ^ 32
      mmas := if x.done + 1 < x.steps then { x with done := x.done + 1 } :: rest else rest } }

/-- MMA_K_STEP (R336): the next K step of the MMA at the head of the compute port of core `core`. A save lets none begin
(R353). -/
def execMmaKStep (s : State) : Host.Outcome State Fault Refusal :=
  let c := s.ev.core
  let k := s.coreOf c
  match k.mx.mmas with
  | [] => .next s
  | x :: rest =>
    if k.ops.any fun p => p.compute && decide (p.id < x.id) then .next s
    else if waitsForPlane k then .next s
    else event (fun _ => !k.tile.any fun t => t.saving.isSome) (kStep c x rest) s

/-! The templates' own rows: the operation issued alone, as a bundle with that one slot and no patch issues it. -/

/-- A header that pops and pushes nothing and holds nothing. -/
def noHdr : BundleHdr := ⟨0, 0, 0, 0, 0, 0, 0, 0, 0⟩

/-- The slot that takes an operation. -/
def slotOf (i : Instr) : Nat :=
  match mTmplOf i with
  | some _ => 0
  | none =>
    match i with
    | .mnop => 0
    | .vexp _ | .vlog _ | .vrcp _ | .vrsq _ | .vtanh _ | .vsigm _ => 3
    | _ => 1

/-- Issue one operation on slot `slot` of core `core`. -/
def issueAlone (slot : Nat) (i : Instr) (s : State) : Host.Outcome State Fault Refusal :=
  settle s.core .cmp ((do
    trapIf (!opAccepts i) .reservedField
    issueOps s.core noHdr [{ slot := slot, i := i }] []) s)

/-- The slot of a vector unit. -/
def unitSlot (u : VUnit) : Nat :=
  match u.slot with
  | .a => 1
  | .b => 2

/-- MLS (R332). -/
def execMls (t : MTmpl) (s : State) : Host.Outcome State Fault Refusal := issueAlone 0 (.mls t) s

/-- ACCRD (R340). -/
def execAccrd (t : MTmpl) (s : State) : Host.Outcome State Fault Refusal := issueAlone 0 (.accrd t) s

/-- ACCZ (R342). -/
def execAccz (t : MTmpl) (s : State) : Host.Outcome State Fault Refusal := issueAlone 0 (.accz t) s

/-- ACCLD (R343). -/
def execAccld (t : MTmpl) (s : State) : Host.Outcome State Fault Refusal := issueAlone 0 (.accld t) s

/-- AMLD (R344). -/
def execAmld (t : MTmpl) (s : State) : Host.Outcome State Fault Refusal := issueAlone 0 (.amld t) s

/-- DRAW (R347). -/
def execDraw (t : MTmpl) (s : State) : Host.Outcome State Fault Refusal := issueAlone 0 (.draw t) s

/-- MMA_M8_K1 (R336). -/
def execMmaM8K1 (t : MTmpl) (s : State) : Host.Outcome State Fault Refusal := issueAlone 0 (.mmaM8K1 t) s

/-- MMA_M8_K2 (R336). -/
def execMmaM8K2 (t : MTmpl) (s : State) : Host.Outcome State Fault Refusal := issueAlone 0 (.mmaM8K2 t) s

/-- MMA_M8_K4 (R336). -/
def execMmaM8K4 (t : MTmpl) (s : State) : Host.Outcome State Fault Refusal := issueAlone 0 (.mmaM8K4 t) s

/-- MMA_M8_K8 (R336). -/
def execMmaM8K8 (t : MTmpl) (s : State) : Host.Outcome State Fault Refusal := issueAlone 0 (.mmaM8K8 t) s

/-- MMA_M16_K1 (R336). -/
def execMmaM16K1 (t : MTmpl) (s : State) : Host.Outcome State Fault Refusal := issueAlone 0 (.mmaM16K1 t) s

/-- MMA_M16_K2 (R336). -/
def execMmaM16K2 (t : MTmpl) (s : State) : Host.Outcome State Fault Refusal := issueAlone 0 (.mmaM16K2 t) s

/-- MMA_M16_K4 (R336). -/
def execMmaM16K4 (t : MTmpl) (s : State) : Host.Outcome State Fault Refusal := issueAlone 0 (.mmaM16K4 t) s

/-- MMA_M16_K8 (R336). -/
def execMmaM16K8 (t : MTmpl) (s : State) : Host.Outcome State Fault Refusal := issueAlone 0 (.mmaM16K8 t) s

/-- MMA_M32_K1 (R336). -/
def execMmaM32K1 (t : MTmpl) (s : State) : Host.Outcome State Fault Refusal := issueAlone 0 (.mmaM32K1 t) s

/-- MMA_M32_K2 (R336). -/
def execMmaM32K2 (t : MTmpl) (s : State) : Host.Outcome State Fault Refusal := issueAlone 0 (.mmaM32K2 t) s

/-- MMA_M32_K4 (R336). -/
def execMmaM32K4 (t : MTmpl) (s : State) : Host.Outcome State Fault Refusal := issueAlone 0 (.mmaM32K4 t) s

/-- MMA_M32_K8 (R336). -/
def execMmaM32K8 (t : MTmpl) (s : State) : Host.Outcome State Fault Refusal := issueAlone 0 (.mmaM32K8 t) s

/-- MMA_M64_K1 (R336). -/
def execMmaM64K1 (t : MTmpl) (s : State) : Host.Outcome State Fault Refusal := issueAlone 0 (.mmaM64K1 t) s

/-- MMA_M64_K2 (R336). -/
def execMmaM64K2 (t : MTmpl) (s : State) : Host.Outcome State Fault Refusal := issueAlone 0 (.mmaM64K2 t) s

/-- MMA_M64_K4 (R336). -/
def execMmaM64K4 (t : MTmpl) (s : State) : Host.Outcome State Fault Refusal := issueAlone 0 (.mmaM64K4 t) s

/-- MMA_M64_K8 (R336). -/
def execMmaM64K8 (t : MTmpl) (s : State) : Host.Outcome State Fault Refusal := issueAlone 0 (.mmaM64K8 t) s

/-- VADD (R298). -/
def execVadd (u : VUnit) (s : State) : Host.Outcome State Fault Refusal := issueAlone (unitSlot u) (.vadd u) s

/-- VSUB (R298). -/
def execVsub (u : VUnit) (s : State) : Host.Outcome State Fault Refusal := issueAlone (unitSlot u) (.vsub u) s

/-- VMUL (R298). -/
def execVmul (u : VUnit) (s : State) : Host.Outcome State Fault Refusal := issueAlone (unitSlot u) (.vmul u) s

/-- VFMA (R298). -/
def execVfma (u : VUnit) (s : State) : Host.Outcome State Fault Refusal := issueAlone (unitSlot u) (.vfma u) s

/-- VFMS (R298). -/
def execVfms (u : VUnit) (s : State) : Host.Outcome State Fault Refusal := issueAlone (unitSlot u) (.vfms u) s

/-- VMIN (R299). -/
def execVmin (u : VUnit) (s : State) : Host.Outcome State Fault Refusal := issueAlone (unitSlot u) (.vmin u) s

/-- VMAX (R299). -/
def execVmax (u : VUnit) (s : State) : Host.Outcome State Fault Refusal := issueAlone (unitSlot u) (.vmax u) s

/-- VABS (R299). -/
def execVabs (u : VUnit) (s : State) : Host.Outcome State Fault Refusal := issueAlone (unitSlot u) (.vabs u) s

/-- VNEG (R299). -/
def execVneg (u : VUnit) (s : State) : Host.Outcome State Fault Refusal := issueAlone (unitSlot u) (.vneg u) s

/-- VAND (R300). -/
def execVand (u : VUnit) (s : State) : Host.Outcome State Fault Refusal := issueAlone (unitSlot u) (.vand u) s

/-- VOR (R300). -/
def execVor (u : VUnit) (s : State) : Host.Outcome State Fault Refusal := issueAlone (unitSlot u) (.vor u) s

/-- VXOR (R300). -/
def execVxor (u : VUnit) (s : State) : Host.Outcome State Fault Refusal := issueAlone (unitSlot u) (.vxor u) s

/-- VNOT (R300). -/
def execVnot (u : VUnit) (s : State) : Host.Outcome State Fault Refusal := issueAlone (unitSlot u) (.vnot u) s

/-- VSHL (R300). -/
def execVshl (u : VUnit) (s : State) : Host.Outcome State Fault Refusal := issueAlone (unitSlot u) (.vshl u) s

/-- VSHR (R300). -/
def execVshr (u : VUnit) (s : State) : Host.Outcome State Fault Refusal := issueAlone (unitSlot u) (.vshr u) s

/-- VSAR (R300). -/
def execVsar (u : VUnit) (s : State) : Host.Outcome State Fault Refusal := issueAlone (unitSlot u) (.vsar u) s

/-- VCMP_EQ (R301). -/
def execVcmpEq (u : VUnit) (s : State) : Host.Outcome State Fault Refusal := issueAlone (unitSlot u) (.vcmpEq u) s

/-- VCMP_NE (R301). -/
def execVcmpNe (u : VUnit) (s : State) : Host.Outcome State Fault Refusal := issueAlone (unitSlot u) (.vcmpNe u) s

/-- VCMP_LT (R301). -/
def execVcmpLt (u : VUnit) (s : State) : Host.Outcome State Fault Refusal := issueAlone (unitSlot u) (.vcmpLt u) s

/-- VCMP_LE (R301). -/
def execVcmpLe (u : VUnit) (s : State) : Host.Outcome State Fault Refusal := issueAlone (unitSlot u) (.vcmpLe u) s

/-- VCMP_GT (R301). -/
def execVcmpGt (u : VUnit) (s : State) : Host.Outcome State Fault Refusal := issueAlone (unitSlot u) (.vcmpGt u) s

/-- VCMP_GE (R301). -/
def execVcmpGe (u : VUnit) (s : State) : Host.Outcome State Fault Refusal := issueAlone (unitSlot u) (.vcmpGe u) s

/-- VSEL (R303). -/
def execVsel (u : VUnit) (s : State) : Host.Outcome State Fault Refusal := issueAlone (unitSlot u) (.vsel u) s

/-- VMOV (R303). -/
def execVmov (u : VUnit) (s : State) : Host.Outcome State Fault Refusal := issueAlone (unitSlot u) (.vmov u) s

/-- VBCAST (R303). -/
def execVbcast (u : VUnit) (s : State) : Host.Outcome State Fault Refusal := issueAlone (unitSlot u) (.vbcast u) s

/-- VPERM (R303). -/
def execVperm (u : VUnit) (s : State) : Host.Outcome State Fault Refusal := issueAlone (unitSlot u) (.vperm u) s

/-- VSLIDE (R303). -/
def execVslide (u : VUnit) (s : State) : Host.Outcome State Fault Refusal := issueAlone (unitSlot u) (.vslide u) s

/-- VRED_SUM (R304). -/
def execVredSum (u : VUnit) (s : State) : Host.Outcome State Fault Refusal := issueAlone (unitSlot u) (.vredSum u) s

/-- VRED_MIN (R304). -/
def execVredMin (u : VUnit) (s : State) : Host.Outcome State Fault Refusal := issueAlone (unitSlot u) (.vredMin u) s

/-- VRED_MAX (R304). -/
def execVredMax (u : VUnit) (s : State) : Host.Outcome State Fault Refusal := issueAlone (unitSlot u) (.vredMax u) s

/-- VRED_AND (R304). -/
def execVredAnd (u : VUnit) (s : State) : Host.Outcome State Fault Refusal := issueAlone (unitSlot u) (.vredAnd u) s

/-- VRED_OR (R304). -/
def execVredOr (u : VUnit) (s : State) : Host.Outcome State Fault Refusal := issueAlone (unitSlot u) (.vredOr u) s

/-- VRED_XOR (R304). -/
def execVredXor (u : VUnit) (s : State) : Host.Outcome State Fault Refusal := issueAlone (unitSlot u) (.vredXor u) s

/-- VSCAN_SUM (R305). -/
def execVscanSum (u : VUnit) (s : State) : Host.Outcome State Fault Refusal := issueAlone (unitSlot u) (.vscanSum u) s

/-- VSCAN_MIN (R305). -/
def execVscanMin (u : VUnit) (s : State) : Host.Outcome State Fault Refusal := issueAlone (unitSlot u) (.vscanMin u) s

/-- VSCAN_MAX (R305). -/
def execVscanMax (u : VUnit) (s : State) : Host.Outcome State Fault Refusal := issueAlone (unitSlot u) (.vscanMax u) s

/-- VCVT (R306). -/
def execVcvt (u : VUnit) (s : State) : Host.Outcome State Fault Refusal := issueAlone (unitSlot u) (.vcvt u) s

/-- VSCL (R307). -/
def execVscl (u : VUnit) (s : State) : Host.Outcome State Fault Refusal := issueAlone (unitSlot u) (.vscl u) s

/-- VSCL_DERIVE (R308). -/
def execVsclDerive (u : VUnit) (s : State) : Host.Outcome State Fault Refusal := issueAlone (unitSlot u) (.vsclDerive u) s

/-- VIOTA (R309). -/
def execViota (u : VUnit) (s : State) : Host.Outcome State Fault Refusal := issueAlone (unitSlot u) (.viota u) s

/-- VPOPC (R309). -/
def execVpopc (u : VUnit) (s : State) : Host.Outcome State Fault Refusal := issueAlone (unitSlot u) (.vpopc u) s

/-- VFIRST (R309). -/
def execVfirst (u : VUnit) (s : State) : Host.Outcome State Fault Refusal := issueAlone (unitSlot u) (.vfirst u) s

/-- VTOPK (R310). -/
def execVtopk (u : VUnit) (s : State) : Host.Outcome State Fault Refusal := issueAlone (unitSlot u) (.vtopk u) s

/-- VLD (R311). -/
def execVld (u : VUnit) (s : State) : Host.Outcome State Fault Refusal := issueAlone (unitSlot u) (.vld u) s

/-- VST (R311). -/
def execVst (u : VUnit) (s : State) : Host.Outcome State Fault Refusal := issueAlone (unitSlot u) (.vst u) s

/-- GATE (R314). -/
def execGate (u : VUnit) (s : State) : Host.Outcome State Fault Refusal := issueAlone (unitSlot u) (.gate u) s

/-- VPEN (R316). -/
def execVpen (u : VUnit) (s : State) : Host.Outcome State Fault Refusal := issueAlone (unitSlot u) (.vpen u) s

/-- VSBIAS (R317). -/
def execVsbias (u : VUnit) (s : State) : Host.Outcome State Fault Refusal := issueAlone (unitSlot u) (.vsbias u) s

/-- VBAN (R318). -/
def execVban (u : VUnit) (s : State) : Host.Outcome State Fault Refusal := issueAlone (unitSlot u) (.vban u) s

/-- VMATCH (R319). -/
def execVmatch (u : VUnit) (s : State) : Host.Outcome State Fault Refusal := issueAlone (unitSlot u) (.vmatch u) s

/-- VEXP (R320). -/
def execVexp (t : VTmpl) (s : State) : Host.Outcome State Fault Refusal := issueAlone 3 (.vexp t) s

/-- VLOG (R320). -/
def execVlog (t : VTmpl) (s : State) : Host.Outcome State Fault Refusal := issueAlone 3 (.vlog t) s

/-- VRCP (R320). -/
def execVrcp (t : VTmpl) (s : State) : Host.Outcome State Fault Refusal := issueAlone 3 (.vrcp t) s

/-- VRSQ (R320). -/
def execVrsq (t : VTmpl) (s : State) : Host.Outcome State Fault Refusal := issueAlone 3 (.vrsq t) s

/-- VTANH (R320). -/
def execVtanh (t : VTmpl) (s : State) : Host.Outcome State Fault Refusal := issueAlone 3 (.vtanh t) s

/-- VSIGM (R320). -/
def execVsigm (t : VTmpl) (s : State) : Host.Outcome State Fault Refusal := issueAlone 3 (.vsigm t) s

/-- MNOP (R345). -/
def execMnop (s : State) : Host.Outcome State Fault Refusal := issueAlone 0 .mnop s

end Sys2Proof.Machine
end

