-- ==== Sys2Proof/Machine/CoreRegs.lean ====
section
/-! DEFINITION. What the registers of a core show (02 R63, 03 R87, 05 R162–R164, 07 R233, 08 R264, 09 R285, 10 R322,
11 R355). -/

namespace Sys2Proof.Machine

/-- A bit as a number. -/
def b2n (b : Bool) : Nat := if b then 1 else 0

/-- Bits of a list, the first at bit 0. -/
def packBits (l : List Bool) : Nat := l.foldr (fun b n => 2 * n + b2n b) 0

/-- Numbers of `w` bits, the first lowest. -/
def packNums (w : Nat) (l : List Nat) : Nat := l.foldr (fun x n => 2 ^ w * n + x % 2 ^ w) 0

/-- TILE_INFO (R162). -/
def tileInfo (k : Core) : Nat :=
  match k.tile with
  | none => 0
  | some t => t.nid % 256 + t.reg.id * 2 ^ 12 + t.prio % 16 * 2 ^ 24 + b2n t.reg.supv * 2 ^ 28

/-- TRAP_CAUSE and TRAP_STATUS (R162). -/
def trapCause (r : TrapRegs) : Nat := r.code + r.seq * 2 ^ 12 + r.imm.toNat * 2 ^ 16
def trapStatus (r : TrapRegs) : Nat := r.pend.toNat / 2 * 2 + b2n r.mode * 16

/-- TK_COUNT0 and TK_COUNT1 (R163). -/
def tkCount (k : Core) (lo n : Nat) : Nat := packNums 8 ((upto lo n).map fun i => SMap.get 0 k.tk i)

/-- The code of a sequencer's state (R163). -/
def seqCode (x : SeqState) : Nat :=
  match x.run with
  | .idle => 0
  | .running => 1
  | .stalled .token => 2
  | .stalled .queue => 3
  | .stalled .object => 4
  | .stalled .memory => 5
  | .stalled .engine => 1
  | .trapped => 6
  | .atBackEdge => 7

/-- SEQ_STATE, with CTL reading 1 for itself where `own` says so (R163). -/
def seqState (k : Core) (own : Bool) : Nat :=
  packNums 4 [if own then 1 else seqCode k.ctl, seqCode k.ld, seqCode k.cmp, seqCode k.st]

/-- PHASE_STAMP and RDC_FLOOR (R63). -/
def phaseStamp (k : Core) : Nat :=
  match k.tile with
  | none => 0
  | some t => t.start % 2 ^ 48 + b2n t.press.isSome * 2 ^ 48 + b2n (!t.ver.bytes.isEmpty) * 2 ^ 49
def rdcFloor (k : Core) : Nat := k.rdcFloor % 2 ^ 48

/-- LD_QSTAT and ST_QSTAT (07 R233, 08 R264). -/
def qstat (x : Streamer) (lo : Nat) : Nat :=
  let bit := fun (p : Nat → Binding → Bool) => packBits ((upto lo 8).map fun q =>
    match SMap.find x.binds q with
    | some b => p q b
    | none => false)
  let done := packBits ((upto lo 8).map fun q =>
    match (SMap.find x.binds q).or (SMap.find x.past q) with
    | some b => decide (b.kind ≠ .cyc) && decide (b.deliv = b.walk.entries) || (SMap.find x.past q).isSome
    | none => false)
  bit (fun _ _ => true) + bit (fun _ b => b.kind = .list) * 2 ^ 8 + bit (fun _ b => b.kind = .cyc) * 2 ^ 16 +
    done * 2 ^ 24 + bit (fun _ b => b.held.isSome) * 2 ^ 32

/-- LD_QPOS and ST_QPOS: the second count and the first (07 R233, 08 R264). -/
def qpos (x : Streamer) (q : Nat) : Nat :=
  match (SMap.find x.binds q).or (SMap.find x.past q) with
  | some b => (b.issued + b2n b.started) % 2 ^ 32 + b.deliv % 2 ^ 32 * 2 ^ 32
  | none => 0

/-- LD_AQFAULT and ST_AQFAULT (07 R233, 08 R264). -/
def aqWord (a : AqFault) : Nat := a.entry % 2 ^ 32 + a.queue % 16 * 2 ^ 44 + a.lane % 2 ^ 10 * 2 ^ 48 + b2n a.it * 2 ^ 63

/-- CMP_STAT (09 R285). -/
def cmpStat (k : Core) : Nat :=
  let lb := match k.comp.lb with
    | .empty => 0
    | .capturing => 1
    | .armed => 2
  lb + packBits (k.comp.held.reverse.map Option.isSome) * 2 ^ 8 + k.comp.captured.length % 2 ^ 8 * 2 ^ 16 +
    k.comp.late.toNat * 2 ^ 24 + k.comp.replays % 2 ^ 32 * 2 ^ 32

/-- MX_STAT (11 R355). -/
def mxStat (k : Core) : Nat :=
  (if k.mx.activeFull then 2 else 0) +
  (match k.mx.shadowRun with | .empty => 0 | .loading => 1 | .full => 2) * 2 ^ 4 +
  k.mx.load.length % 4 * 2 ^ 8 + computeHeld k % 4 * 2 ^ 10 +
  packBits ((upto 0 4).map fun a => k.mx.mmas.any fun m => m.copy.acc.toNat = a) * 2 ^ 28 +
  packNums 4 ((upto 0 4).map k.stepcnt) * 2 ^ 32

end Sys2Proof.Machine
end

