-- ==== Sys2Proof/Machine/CaddyCmd.lean ====
section
/-! DEFINITION. The caddy's commands (14 R434–R436). -/

namespace Sys2Proof.Machine

/-- Failure codes (R434). -/
def cdNone : Nat := 1
def cdDenied : Nat := 2
def cdFull : Nat := 3
def cdNoSrc : Nat := 4
def cdPinned : Nat := 5
def cdState : Nat := 6
def cdBadRec : Nat := 7
def cdFailed : Nat := 8

/-- The lowest failure that holds. -/
def lowestFailure (l : List (Bool × Nat)) : Option Nat :=
  (l.filter (·.1)).foldl (fun o e => some (Nat.min e.2 (o.getD e.2))) none

/-- Write a command's result: −n for a failure. -/
def caddyResult (d : BitVec 6) (r : Except Nat Nat) : Act Unit := do
  modCore fun k => k.setS d.toNat (match r with
    | .ok v => BitVec.ofNat 64 v
    | .error n => 0 - BitVec.ofNat 64 n)
  advance .ctl 8

/-- The key in an operand; a nonzero reserved bit traps (R405, R434). -/
def keyOperand (o : Cmd) : Act Nat := do
  let k ← thisCore
  let v := k.sreg o.a.toNat
  trapIf (bits v 34 30 ≠ 0) .reservedField
  return v.toNat

/-- What a command about a copy finds: the entry, and its failures that do not depend on the command (R434). -/
def namedCopy (s : State) (t : Tile) (key : Nat) (sec : Bool) : Option (Nat × Layer) × List (Bool × Nat) :=
  match findTag s key, layerOf s key with
  | some i, some l => (some (i, l), [(outsideSubtree t.reg s l.region, cdDenied), (sec && l.sp = 0xF, cdState)])
  | _, some l => (none, [(true, cdNone), (outsideSubtree t.reg s l.region, cdDenied)])
  | _, _ => (none, [(true, cdNone)])

/-- Items 0 and 1 of RLOOK (R435). -/
def copyItem (l : Layer) (e : TagEnt) (sec : Bool) : Nat :=
  let c := e.copyAt sec
  (if c.run = 2 then c.addr else 0) + l.fmt sec * 2 ^ 32 + c.pins * 2 ^ 36 + c.run * 2 ^ 48

/-- Item 3 of RLOOK (R435); zeros where the header cannot be read. -/
def saucerItem (b : Option Bowl) : Act Nat := do
  match b with
  | none => return 0
  | some b =>
    match ← unitTry b.read with
    | .ok h => return (b.l.slots - ahead h.next h.head) + ahead h.disp h.head * 2 ^ 16 + ahead h.full h.disp * 2 ^ 32
    | .error (code, va) =>
      postEvent b.l.region code va
      return 0

/-- Item 4 of RLOOK (R435). -/
def sourceItem (e : TagEnt) : Nat :=
  (bits e.dram 63 1).toNat * 2 + (bits e.flash 31 1).toNat * 2 ^ 2 + b2n e.badd * 2 ^ 3 + b2n e.badf * 2 ^ 4 + b2n e.mapd * 2 ^ 5 +
  e.nrep * 2 ^ 16

/-- RLOOK (R435). -/
def execRlook (o : Cmd) (s : State) : Host.Outcome State Fault Refusal :=
  plain .ctl (.rlook o) (do
    let s ← get
    let key ← keyOperand o
    let t ← tileOf s.core
    match namedCopy s t key false with
    | (some (i, l), f) =>
      match lowestFailure f with
      | some n => caddyResult o.d (.error n)
      | none =>
        let e := s.tag i
        let v ← match o.imm.toNat with
          | 0 => pure (copyItem l e false)
          | 1 => pure (copyItem l e true)
          | 2 => pure (e.lastUse + e.uses * 2 ^ 32)
          | 3 => saucerItem (bowlOf s i)
          | _ => pure (sourceItem e)
        caddyResult o.d (.ok v)
    | (none, f) => caddyResult o.d (.error ((lowestFailure f).getD cdNone))) s

/-- The secondary copy is named by f8[0]. -/
def cmdSec (o : Cmd) : Bool := bits o.f8 0 1 = 1

/-- A command about one copy: it fails with the lowest failure, or acts, once an eviction of the copy has ended (R420). -/
def onCopy (o : Cmd) (more : State → Nat → Layer → List (Bool × Nat)) (act : Nat → Layer → Act Unit) : Act Unit := do
  let s ← get
  let key ← keyOperand o
  let t ← tileOf s.core
  match namedCopy s t key (cmdSec o) with
  | (some (i, l), f) =>
    match lowestFailure (f ++ more s i l) with
    | some n => caddyResult o.d (.error n)
    | none => if ((s.tag i).copyAt (cmdSec o)).run = 3 then waitFor .object else act i l
  | (none, f) => caddyResult o.d (.error ((lowestFailure f).getD cdNone))

/-- The copy is absent and has no source; there is no such copy where the layer has no SP. -/
def lacksSource (s : State) (i : Nat) (l : Layer) (sec : Bool) : Bool :=
  !(sec && l.sp = 0xF) && ((s.tag i).copyAt sec).run = 0 && (sourceOf s (s.tag i) (l.fmt sec)).isNone

/-- An RPIN writes its result; it has completed. -/
def pinDone (o : Cmd) (r : Except Nat Nat) : Act Unit := do
  modCore fun k => k.updSeq .ctl fun x => { x with pinned := SMap.erase x.pinned x.pc.toNat }
  caddyResult o.d r

/-- The result of an RPIN whose pin stands: with .W it waits for the copy (R436). -/
def pinResult (o : Cmd) (i : Nat) (l : Layer) : Act Unit := do
  let s ← get
  let sec := cmdSec o
  let c := (s.tag i).copyAt sec
  if bits o.f8 1 1 = 0 || c.run = 2 then pinDone o (.ok (copyItem l (s.tag i) sec))
  else if c.run = 0 then pinDone o (.error cdFailed)
  else
    modCore fun k => k.updSeq .ctl fun x => { x with pinned := SMap.put x.pinned x.pc.toNat (i, sec) }
    waitFor .object

/-- Add a pin (R408, R419, R436). -/
def addPin (i : Nat) (l : Layer) (sec : Bool) : Act Unit := do
  modify fun s =>
    let s := s.updCopyOf i sec fun c => { c with pins := c.pins + 1 }
    let s := s.updTag i fun e => { e with lastUse := (s.cd.counter + 1) % 2 ^ 32 }
    { s with cd := { s.cd with counter := (s.cd.counter + 1) % 2 ^ 32 } }
  modify fun s => if ((s.tag i).copyAt sec).run = 2 then s else demandFetch l i sec s

/-- RPIN (R436). One that the caddy has accepted keeps its pin whatever its wait meets, and does not pin again when it is
executed again (05 R152, R153; log 44). -/
def execRpin (o : Cmd) (s : State) : Host.Outcome State Fault Refusal :=
  plain .ctl (.rpin o) (do
    let k ← thisCore
    let sec := cmdSec o
    match SMap.find k.ctl.pinned k.ctl.pc.toNat with
    | some (i, _) =>
      let s ← get
      match layerOf s (s.tag i).key with
      | some l => pinResult o i l
      | none => pinDone o (.error cdFailed)
    | none =>
      onCopy o (fun s i l => [(decide (((s.tag i).copyAt sec).pins ≥ 4095), cdFull), (lacksSource s i l sec, cdNoSrc)])
        (fun i l => do
          addPin i l sec
          pinResult o i l)) s

/-- RUNPIN (R436). -/
def execRunpin (o : Cmd) (s : State) : Host.Outcome State Fault Refusal :=
  plain .ctl (.runpin o) (do
    let sec := cmdSec o
    onCopy o (fun s i _ => [(((s.tag i).copyAt sec).pins = 0, cdState)]) (fun i _ => do
      modify fun s => s.updCopyOf i sec fun c => { c with pins := c.pins - 1 }
      let s ← get
      let left := ((s.tag i).copyAt sec).pins
      pinReleased
      caddyResult o.d (.ok left))) s

/-- RFETCH (R436). -/
def execRfetch (o : Cmd) (s : State) : Host.Outcome State Fault Refusal :=
  plain .ctl (.rfetch o) (do
    let sec := cmdSec o
    onCopy o (fun s i l => [(lacksSource s i l sec, cdNoSrc)]) (fun i l => do
      let s ← get
      match ((s.tag i).copyAt sec).run with
      | 0 =>
        set (demandFetch l i sec s)
        caddyResult o.d (.ok 1)
      | 1 =>
        set (demandFetch l i sec s)
        caddyResult o.d (.ok 2)
      | _ => caddyResult o.d (.ok 0))) s

/-- REVICT (R436, R420). -/
def execRevict (o : Cmd) (s : State) : Host.Outcome State Fault Refusal :=
  plain .ctl (.revict o) (do
    let sec := cmdSec o
    onCopy o (fun s i _ =>
        let c := (s.tag i).copyAt sec
        [(decide (c.pins > 0), cdPinned), (c.run = 1, cdState)])
      (fun i _ => do
        modify fun s => if ((s.tag i).copyAt sec).run = 2 then evict i sec s else s
        caddyResult o.d (.ok 0))) s

/-! Layers (R409, R410, R436). -/

/-- A layer from its record (R409). -/
def layerRec (l : List Byte) : Layer :=
  let at_ := fun o n => ofBytes ((l.drop o).take n)
  { region := nbits (at_ 4 2) 0 12, lcl := nbits (at_ 4 2) 12 4, pp := nbits (at_ 6 1) 0 4, sp := nbits (at_ 6 1) 4 4
    vf := nbits (at_ 7 1) 0 4, e := at_ 8 2, slices := at_ 0xA 2, flush := at_ 0xC 4, recP := [], recS := []
    sbase := at_ 0x20 8, tgbase := at_ 0x28 8, slots := at_ 0x30 2, slotb := at_ 0x32 2, h := at_ 0x34 2
    nxSet := nbits (at_ 0x36 1) 0 4, nxCluster := nbits (at_ 0x36 1) 4 4, nxv := nbits (at_ 0x37 1) 0 1 = 1 }

/-- The ID word as bits [33:12] of a key (R405, R409). -/
def layerKeyOf (id : Nat) : Nat := nbits id 0 12 * 2 ^ 10 + nbits id 12 10

/-- Are a record's fields in range (R409)? -/
def layerLegal (b : List Byte) : Bool :=
  let at_ := fun o n => ofBytes ((b.drop o).take n)
  let l := layerRec b
  nbits (at_ 0 4) 22 10 = 0 && imageFmt l.pp && (l.sp = 0xF || imageFmt l.sp) && nbits (at_ 7 1) 4 4 = 0 &&
  (l.vf = 0x9 || l.vf = 0xB) && decide (1 ≤ l.e ∧ l.e ≤ 512) && (at_ 0x18 8 = 0) = (l.sp = 0xF) && l.sbase % 256 = 0 &&
  l.tgbase % 8 = 0 && [64, 128, 256, 512, 1024].contains l.slots && l.slotb % 64 = 0 && combH l.h &&
  decide (64 + l.vecBytes ≤ l.slotb) && nbits (at_ 0x37 1) 1 7 = 0 && at_ 0x38 72 = 0

/-- The two areas of a layer: its saucers and its slot tags (R410). -/
def Layer.areas (l : Layer) : List (Nat × Nat) :=
  [(l.sbase, l.e * (256 + l.slots * l.slotb)), (l.tgbase, 8 * l.e * l.slots)]

/-- Do the areas of two layers meet in one address space (R436)? -/
def layersMeet (s : State) (l m : Layer) : Bool :=
  (effRegion s l.region).asid = (effRegion s m.region).asid &&
  l.areas.any fun a => m.areas.any fun b => rangesMeet a.1 a.2 b.1 b.2

/-- May the caddy write a page of a layer's area: homed here, owned by the device (R436)? -/
def pageOk (x : Ctx) (va : Nat) : Act Bool := do
  let s ← get
  if va ≥ 2 ^ 56 then return false
  else
    match walk s.m x.xroot va with
    | .ok (_, e, _) => return pteW e && (x.supv || pteU e) && pteLocal s.devId e && !pteH e
    | .error _ => return false

/-- Every page of an area. -/
def areaOk (x : Ctx) (a : Nat × Nat) : Act Bool := do
  let l ← collect (upto (a.1 / 0x1_0000) ((a.1 + a.2 + 0xFFFF) / 0x1_0000 - a.1 / 0x1_0000)) fun p => pageOk x (p * 0x1_0000)
  return l.all id

/-- A layer's nest record as the caddy keeps it (R409): none where it may not be used. -/
def layerNest (l : Layer) (va : Nat) : Act (Option (List Byte)) := do
  let s ← get
  if va % 128 ≠ 0 then return none
  else
    match ← unitTry (readAs (caddyCtx s l) va 128) with
    | .error _ => return none
    | .ok b => return if (nestRecOf b).tiles = 1 ∧ (nestRecOf b).region = l.region then some b else none

/-- Does a layer's saucer hold a waiting or draining slot: is a slot reserved and not freed (R436)? -/
def layerBusy (l : Layer) : Act Bool := do
  let r ← collect (upto 0 l.e) fun e => do
    let x ← cdRead l (l.saucer e) 0x20
    let h := saucerOf x
    return decide (h.next ≠ h.head)
  return r.any id

/-- Write a layer's headers and tags as they are when it is loaded (R410). -/
def initLayer (key : Nat) (l : Layer) : Act Unit := do
  each (upto 0 l.e) fun e =>
    cdWrite l (l.saucer e) (saucerBytes l {} ++ bytesOf 8 (key * 2 ^ 12 + e) ++ bytesOf 216 0)
  cdWrite l l.tgbase ((upto 0 (l.e * l.slots)).map fun _ => bytesOf 8 (l.slotb * 2 ^ 32)).flatten

/-- What stands in the way of loading a layer record: the lowest failure, or the layer with its nest records (R436). Its
region's block is kept from now on (06 R166). -/
def loadLayer (b : List Byte) : Act (Except Nat Layer) := do
  let _ ← useRegion (layerRec b).region
  let s ← get
  let key := layerKeyOf (ofBytes (b.take 4))
  let l := layerRec b
  let old := SMap.find s.cd.layers key
  let others := s.cd.layers.filter fun e => e.1 ≠ key
  let full := old.isNone && decide (others.length ≥ 256)
  let busy ← match old with
    | some o => layerBusy o
    | none => pure false
  let p ← layerNest l (ofBytes ((b.drop 0x10).take 8))
  let q ← if l.sp = 0xF then pure (some []) else layerNest l (ofBytes ((b.drop 0x18).take 8))
  let pages ← collect l.areas (areaOk (caddyCtx s l))
  let bad := !layerLegal b || p.isNone || q.isNone || !pages.all id || others.any fun e => layersMeet s l e.2
  match lowestFailure [(full, cdFull), (busy, cdState), (bad, cdBadRec)] with
  | some n => return .error n
  | none => return .ok { l with recP := p.getD [], recS := q.getD [] }

/-- RPOL.LAYER (R436). -/
def execRpolLayer (o : Cmd) (s : State) : Host.Outcome State Fault Refusal :=
  plain .ctl (.rpolLayer o) (do
    let s ← get
    let k ← thisCore
    let t ← tileOf s.core
    let a := (k.sreg o.a.toNat).toNat
    trapLowest [(!t.reg.supv, .privilege, 0), (a % 128 ≠ 0, .align, a)]
    let b ← loadRange s.core a 128
    match ← loadLayer b with
    | .error n => caddyResult o.d (.error n)
    | .ok l =>
      let key := layerKeyOf (ofBytes (b.take 4))
      modify fun s =>
        let f := fun (e : Nat × TagEnt) => if keyLayer e.2.key = key then (e.1, { e.2 with times := [], acted := none, stuck := none, lost := false }) else e
        { s with cd := { s.cd with layers := SMap.put s.cd.layers key l, tags := s.cd.tags.map f } }
      initLayer key l
      caddyResult o.d (.ok 0)) s

/-- RPOL.UNLAYER (R436). -/
def execRpolUnlayer (o : Cmd) (s : State) : Host.Outcome State Fault Refusal :=
  plain .ctl (.rpolUnlayer o) (do
    let s ← get
    let k ← thisCore
    let t ← tileOf s.core
    let v := k.sreg o.a.toNat
    trapLowest [(!t.reg.supv, .privilege, 0), (bits v 22 42 ≠ 0, .reservedField, 0)]
    let key := layerKeyOf v.toNat
    match SMap.find s.cd.layers key with
    | none => caddyResult o.d (.error cdNone)
    | some l =>
      if ← layerBusy l then caddyResult o.d (.error cdState)
      else
        modify fun s => { s with cd := { s.cd with layers := SMap.erase s.cd.layers key } }
        caddyResult o.d (.ok 0)) s

/-! Catalogue entries (R407, R436). -/

/-- Are a catalogue entry's fields legal (R407)? -/
def catLegal (l : List Byte) : Bool :=
  let at_ := fun o n => ofBytes ((l.drop o).take n)
  let d := at_ 8 8
  let f := at_ 0x1C 4
  nbits (at_ 0 8) 34 30 = 0 && nbits d 60 3 = 0 && imageFmt (nbits d 56 4) && nbits d 0 7 = 0 && nbits f 30 1 = 0 &&
  imageFmt (nbits f 26 4) && nbits (at_ 0x20 2) 12 3 = 0 && decide (at_ 0x22 1 ≤ 4) && at_ 0x23 1 = 0 && at_ 0x2C 20 = 0

/-- The software fields of an entry, in one that the caddy holds (R407, R408). The translation of a DRAM record is still
held where the record is the same. -/
def catFields (l : List Byte) (e : TagEnt) : TagEnt :=
  let at_ := fun o n => ofBytes ((l.drop o).take n)
  let same := e.dram.toNat = at_ 8 8 && e.imgb = at_ 0x28 4
  { e with
    key := at_ 0 8, dram := BitVec.ofNat 64 (at_ 8 8), lba := BitVec.ofNat 64 (at_ 0x10 8), nsid := at_ 0x18 4
    flash := BitVec.ofNat 32 (at_ 0x1C 4), sub := at_ 0x20 2, nrep := at_ 0x22 1, reps := (upto 0x24 4).map fun i => at_ i 1
    imgb := at_ 0x28 4, badd := false, badf := false, lost := false, mapd := same && e.mapd, held := if same then e.held else [] }

/-- The free way of a key's set (R406). -/
def freeWay (s : State) (key : Nat) : Option Nat := (upto (16 * tagSet key) 16).find? fun i => (SMap.find s.cd.tags i).isNone

/-- Load one entry: its failure, or the state with it. -/
def loadCat (l : List Byte) (s : State) : Except Nat State :=
  let key := ofBytes (l.take 8)
  let place := match findTag s key with
    | some i => some i
    | none => freeWay s key
  match place with
  | none => .error cdFull
  | some i => if !catLegal l then .error cdBadRec else .ok (s.updTag i (catFields l))

/-- Load entries in order up to the first that fails: how many, and why it stopped. -/
def loadCats : List (List Byte) → State → Nat × Nat × State
  | [], s => (0, 0, s)
  | l :: r, s =>
    match loadCat l s with
    | .error n => (0, n, s)
    | .ok s => let (k, n, t) := loadCats r s
      (k + 1, n, t)

/-- RPOL.CAT (R436). -/
def execRpolCat (o : Cmd) (s : State) : Host.Outcome State Fault Refusal :=
  plain .ctl (.rpolCat o) (do
    let s ← get
    let k ← thisCore
    let t ← tileOf s.core
    let a := (k.sreg o.a.toNat).toNat
    let n := (k.sreg (o.a.toNat + 1)).toNat
    trapLowest [(!t.reg.supv, .privilege, 0), (n = 0 || decide (n > 4096), .reservedField, 0), (a % 64 ≠ 0, .align, a)]
    let l ← loadRange s.core a (64 * n)
    let s ← get
    let es := pieces 64 n l
    let (m, why, t) := loadCats es s
    let busy := (es.take m).any fun e => match findTag s (ofBytes (e.take 8)) with
      | some i => fetching s i false || fetching s i true
      | none => false
    if busy then waitFor .object
    else
      set t
      caddyResult o.d (.ok (m + why * 2 ^ 32))) s

/-- RPOL.UNCAT (R436): the entry goes once its copies have been evicted. -/
def execRpolUncat (o : Cmd) (s : State) : Host.Outcome State Fault Refusal :=
  plain .ctl (.rpolUncat o) (do
    let s ← get
    let t ← tileOf s.core
    let k ← thisCore
    let v := k.sreg o.a.toNat
    trapLowest [(!t.reg.supv, .privilege, 0), (bits v 34 30 ≠ 0, .reservedField, 0)]
    match findTag s v.toNat, layerOf s v.toNat with
    | some i, some _ =>
      if fetching s i false || fetching s i true then waitFor .object
      else
        let busy ← match bowlOf s i with
          | none => pure false
          | some b => do
            let h ← b.read
            pure (decide (h.next ≠ h.head))
        if busy || decide ((s.tag i).prim.pins > 0) || decide ((s.tag i).sec.pins > 0) then caddyResult o.d (.error cdPinned)
        else if (s.tag i).prim.run = 0 && (s.tag i).sec.run = 0 then
          modify fun s => { s with cd := { s.cd with tags := SMap.erase s.cd.tags i } }
          caddyResult o.d (.ok 0)
        else
          modify fun s => [false, true].foldl (fun s sec => if ((s.tag i).copyAt sec).run = 2 then evict i sec s else s) s
          waitFor .object
    | _, _ => caddyResult o.d (.error cdNone)) s

end Sys2Proof.Machine
end

