-- ==== Sys2Proof/Machine/CtlInt.lean ====
section
/-! DEFINITION. CTL: integer arithmetic, immediates, bit fields, comparisons, predicates, selection and branches
(05 R123–R131). -/

namespace Sys2Proof.Machine

/-! The values of R123. -/

/-- Trunc-toward-zero division with the corners of DIV (R123). -/
def divS (a b : DWord) : DWord :=
  if b = 0 then BitVec.ofNat 64 (2 ^ 64 - 1) else BitVec.ofInt 64 (a.toInt.tdiv b.toInt)

/-- REM: the sign of the dividend (R123). -/
def remS (a b : DWord) : DWord :=
  if b = 0 then a else BitVec.ofInt 64 (a.toInt.tmod b.toInt)

/-- DIVU (R123). -/
def divU (a b : DWord) : DWord :=
  if b = 0 then BitVec.ofNat 64 (2 ^ 64 - 1) else BitVec.ofNat 64 (a.toNat / b.toNat)

/-- REMU (R123). -/
def remU (a b : DWord) : DWord := if b = 0 then a else BitVec.ofNat 64 (a.toNat % b.toNat)

/-- Leading zeros among the low `n` bits. -/
def leadZeros (a : DWord) : Nat → Nat
  | 0 => 0
  | n + 1 => if a.getLsbD n then 0 else 1 + leadZeros a n

/-- Trailing zeros among the bits from `64 - n` up. -/
def trailZeros (a : DWord) : Nat → Nat
  | 0 => 0
  | n + 1 => if a.getLsbD (64 - (n + 1)) then 0 else 1 + trailZeros a n

/-- Number of one bits. -/
def popCount (a : DWord) : Nat := ((upto 0 64).filter fun i => a.getLsbD i).length

/-- ROR (R123). -/
def rotR (a : DWord) (n : Nat) : DWord := (a >>> n) ||| (a <<< (64 - n))

/-- The shift count b[5:0]. -/
def sh6 (b : DWord) : Nat := b.toNat % 64

/-- Write the result of a register-to-register instruction of CTL and go on to the next word (R123). -/
def intOp (d a b : BitVec 6) (f : DWord → DWord → DWord) : Act Unit := do
  modCore fun k => k.setS d.toNat (f (k.sreg a.toNat) (k.sreg b.toNat))
  advance .ctl 4

/-- An RI instruction of CTL (R124). -/
def immOp (o : RI) (f : DWord → DWord) : Act Unit := do
  modCore fun k => k.setS o.d.toNat (f (k.sreg o.a.toNat))
  advance .ctl 4

/-- An RL instruction of CTL that writes Sd (R125, R126, R129). -/
def longOp (d : BitVec 6) (f : Core → DWord) : Act Unit := do
  modCore fun k => k.setS d.toNat (f k)
  advance .ctl 8

/-- A comparison of CTL that writes Pd (R127). -/
def cmpOp (len : Nat) (d : BitVec 6) (f : Core → Bool) : Act Unit := do
  modCore fun k => k.setP d.toNat (f k)
  advance .ctl len

/-- Bit-field parameters of an extension word: lo and w (R126). -/
def fieldLo (ext : Word) : Nat := (bits ext 0 6).toNat
def fieldW (ext : Word) : Nat := (bits ext 8 6).toNat + 1

/-- Sd with Sa[w − 1 : 0] put at [lo + w − 1 : lo] (R126 BFI). -/
def insertField (d a : DWord) (lo w : Nat) : DWord := BitVec.ofNat 64 (setNbits d.toNat lo w a.toNat)

/-- The unsigned field of BFXU and the signed one of BFX (R126). -/
def fieldU (a : DWord) (lo w : Nat) : DWord := BitVec.ofNat 64 (nbits a.toNat lo w)
def fieldS (a : DWord) (lo w : Nat) : DWord := BitVec.ofInt 64 (sval w (nbits a.toNat lo w))

/-! Register to register (R123). -/

/-- ADD (R123). -/
def execAdd (o : R3) (s : State) : Host.Outcome State Fault Refusal :=
  plain .ctl (.add o) (intOp o.d o.a o.b (fun a b => a + b)) s

/-- SUB (R123). -/
def execSub (o : R3) (s : State) : Host.Outcome State Fault Refusal :=
  plain .ctl (.sub o) (intOp o.d o.a o.b (fun a b => a - b)) s

/-- MIN (R123). -/
def execMin (o : R3) (s : State) : Host.Outcome State Fault Refusal :=
  plain .ctl (.min o) (intOp o.d o.a o.b (fun a b => if a.toInt ≤ b.toInt then a else b)) s

/-- MAX (R123). -/
def execMax (o : R3) (s : State) : Host.Outcome State Fault Refusal :=
  plain .ctl (.max o) (intOp o.d o.a o.b (fun a b => if a.toInt ≥ b.toInt then a else b)) s

/-- MINU (R123). -/
def execMinu (o : R3) (s : State) : Host.Outcome State Fault Refusal :=
  plain .ctl (.minu o) (intOp o.d o.a o.b (fun a b => if a.toNat ≤ b.toNat then a else b)) s

/-- MAXU (R123). -/
def execMaxu (o : R3) (s : State) : Host.Outcome State Fault Refusal :=
  plain .ctl (.maxu o) (intOp o.d o.a o.b (fun a b => if a.toNat ≥ b.toNat then a else b)) s

/-- AND (R123). -/
def execAnd (o : R3) (s : State) : Host.Outcome State Fault Refusal :=
  plain .ctl (.and o) (intOp o.d o.a o.b (fun a b => a &&& b)) s

/-- OR (R123). -/
def execOr (o : R3) (s : State) : Host.Outcome State Fault Refusal :=
  plain .ctl (.or o) (intOp o.d o.a o.b (fun a b => a ||| b)) s

/-- XOR (R123). -/
def execXor (o : R3) (s : State) : Host.Outcome State Fault Refusal :=
  plain .ctl (.xor o) (intOp o.d o.a o.b (fun a b => a ^^^ b)) s

/-- ANDN (R123). -/
def execAndn (o : R3) (s : State) : Host.Outcome State Fault Refusal :=
  plain .ctl (.andn o) (intOp o.d o.a o.b (fun a b => a &&& ~~~b)) s

/-- SHL (R123). -/
def execShl (o : R3) (s : State) : Host.Outcome State Fault Refusal :=
  plain .ctl (.shl o) (intOp o.d o.a o.b (fun a b => a <<< sh6 b)) s

/-- SHR (R123). -/
def execShr (o : R3) (s : State) : Host.Outcome State Fault Refusal :=
  plain .ctl (.shr o) (intOp o.d o.a o.b (fun a b => a >>> sh6 b)) s

/-- SAR (R123). -/
def execSar (o : R3) (s : State) : Host.Outcome State Fault Refusal :=
  plain .ctl (.sar o) (intOp o.d o.a o.b (fun a b => a.sshiftRight (sh6 b))) s

/-- ROR (R123). -/
def execRor (o : R3) (s : State) : Host.Outcome State Fault Refusal :=
  plain .ctl (.ror o) (intOp o.d o.a o.b (fun a b => rotR a (sh6 b))) s

/-- MUL (R123). -/
def execMul (o : R3) (s : State) : Host.Outcome State Fault Refusal :=
  plain .ctl (.mul o) (intOp o.d o.a o.b (fun a b => a * b)) s

/-- MULH (R123). -/
def execMulh (o : R3) (s : State) : Host.Outcome State Fault Refusal :=
  plain .ctl (.mulh o) (intOp o.d o.a o.b (fun a b => BitVec.ofInt 64 (a.toInt * b.toInt / 2 ^ 64))) s

/-- MULHU (R123). -/
def execMulhu (o : R3) (s : State) : Host.Outcome State Fault Refusal :=
  plain .ctl (.mulhu o) (intOp o.d o.a o.b (fun a b => BitVec.ofNat 64 (a.toNat * b.toNat / 2 ^ 64))) s

/-- DIV (R123). -/
def execDiv (o : R3) (s : State) : Host.Outcome State Fault Refusal :=
  plain .ctl (.div o) (intOp o.d o.a o.b (divS)) s

/-- DIVU (R123). -/
def execDivu (o : R3) (s : State) : Host.Outcome State Fault Refusal :=
  plain .ctl (.divu o) (intOp o.d o.a o.b (divU)) s

/-- REM (R123). -/
def execRem (o : R3) (s : State) : Host.Outcome State Fault Refusal :=
  plain .ctl (.rem o) (intOp o.d o.a o.b (remS)) s

/-- REMU (R123). -/
def execRemu (o : R3) (s : State) : Host.Outcome State Fault Refusal :=
  plain .ctl (.remu o) (intOp o.d o.a o.b (remU)) s

/-- CLZ (R123). -/
def execClz (o : R3) (s : State) : Host.Outcome State Fault Refusal :=
  plain .ctl (.clz o) (intOp o.d o.a o.b (fun a _ => BitVec.ofNat 64 (leadZeros a 64))) s

/-- CTZ (R123). -/
def execCtz (o : R3) (s : State) : Host.Outcome State Fault Refusal :=
  plain .ctl (.ctz o) (intOp o.d o.a o.b (fun a _ => BitVec.ofNat 64 (trailZeros a 64))) s

/-- POPC (R123). -/
def execPopc (o : R3) (s : State) : Host.Outcome State Fault Refusal :=
  plain .ctl (.popc o) (intOp o.d o.a o.b (fun a _ => BitVec.ofNat 64 (popCount a))) s

/-- LEA (R123). -/
def execLea (o : R3F) (s : State) : Host.Outcome State Fault Refusal :=
  plain .ctl (.lea o) (intOp o.d o.a o.b fun a b => a + (b <<< o.f.toNat)) s

/-! Immediates (R124, R125). -/

/-- ADDI (R124). -/
def execAddi (o : RI) (s : State) : Host.Outcome State Fault Refusal :=
  plain .ctl (.addi o) (immOp o (fun a => a + sx64 o.imm)) s

/-- ANDI (R124). -/
def execAndi (o : RI) (s : State) : Host.Outcome State Fault Refusal :=
  plain .ctl (.andi o) (immOp o (fun a => a &&& sx64 o.imm)) s

/-- ORI (R124). -/
def execOri (o : RI) (s : State) : Host.Outcome State Fault Refusal :=
  plain .ctl (.ori o) (immOp o (fun a => a ||| sx64 o.imm)) s

/-- XORI (R124). -/
def execXori (o : RI) (s : State) : Host.Outcome State Fault Refusal :=
  plain .ctl (.xori o) (immOp o (fun a => a ^^^ sx64 o.imm)) s

/-- SHLI (R124). -/
def execShli (o : RI) (s : State) : Host.Outcome State Fault Refusal :=
  plain .ctl (.shli o) (immOp o (fun a => a <<< o.imm.toNat)) s

/-- SHRI (R124). -/
def execShri (o : RI) (s : State) : Host.Outcome State Fault Refusal :=
  plain .ctl (.shri o) (immOp o (fun a => a >>> o.imm.toNat)) s

/-- SARI (R124). -/
def execSari (o : RI) (s : State) : Host.Outcome State Fault Refusal :=
  plain .ctl (.sari o) (immOp o (fun a => a.sshiftRight o.imm.toNat)) s

/-- LI (R125). -/
def execLi (o : RL) (s : State) : Host.Outcome State Fault Refusal :=
  plain .ctl (.li o) (longOp o.d (fun _ => sx64 o.ext)) s

/-- LIH (R125). -/
def execLih (o : RL) (s : State) : Host.Outcome State Fault Refusal :=
  plain .ctl (.lih o) (longOp o.d (fun k => (zx64 o.ext <<< 32) ||| zx64 (bits (k.sreg o.a.toNat) 0 32))) s

/-- BFX (R126). -/
def execBfx (o : RL) (s : State) : Host.Outcome State Fault Refusal :=
  plain .ctl (.bfx o) (longOp o.d (fun k => fieldS (k.sreg o.a.toNat) (fieldLo o.ext) (fieldW o.ext))) s

/-- BFXU (R126). -/
def execBfxu (o : RL) (s : State) : Host.Outcome State Fault Refusal :=
  plain .ctl (.bfxu o) (longOp o.d (fun k => fieldU (k.sreg o.a.toNat) (fieldLo o.ext) (fieldW o.ext))) s

/-- BFI (R126). -/
def execBfi (o : RL) (s : State) : Host.Outcome State Fault Refusal :=
  plain .ctl (.bfi o) (longOp o.d (fun k => insertField (k.sreg o.d.toNat) (k.sreg o.a.toNat) (fieldLo o.ext) (fieldW o.ext))) s

/-- SEL (R129). -/
def execSel (o : RL) (s : State) : Host.Outcome State Fault Refusal :=
  plain .ctl (.sel o) (longOp o.d (fun k => if k.preg (bits o.ext 0 6).toNat then k.sreg o.a.toNat else k.sreg (bits o.f8 0 6).toNat)) s

/-! Comparisons and predicates (R127, R128). -/

/-- Relation EQ (R127). -/
def ccEq (a b : DWord) : Bool := decide (a = b)

/-- Relation NE (R127). -/
def ccNe (a b : DWord) : Bool := decide (a ≠ b)

/-- Relation LT (R127). -/
def ccLt (a b : DWord) : Bool := decide (a.toInt < b.toInt)

/-- Relation LE (R127). -/
def ccLe (a b : DWord) : Bool := decide (a.toInt ≤ b.toInt)

/-- Relation LTU (R127). -/
def ccLtu (a b : DWord) : Bool := decide (a.toNat < b.toNat)

/-- Relation LEU (R127). -/
def ccLeu (a b : DWord) : Bool := decide (a.toNat ≤ b.toNat)

/-- CMP.EQ (R127). -/
def execCmpEq (o : R3) (s : State) : Host.Outcome State Fault Refusal :=
  plain .ctl (.cmpEq o) (cmpOp 4 o.d fun k => ccEq (k.sreg o.a.toNat) (k.sreg o.b.toNat)) s

/-- CMP.NE (R127). -/
def execCmpNe (o : R3) (s : State) : Host.Outcome State Fault Refusal :=
  plain .ctl (.cmpNe o) (cmpOp 4 o.d fun k => ccNe (k.sreg o.a.toNat) (k.sreg o.b.toNat)) s

/-- CMP.LT (R127). -/
def execCmpLt (o : R3) (s : State) : Host.Outcome State Fault Refusal :=
  plain .ctl (.cmpLt o) (cmpOp 4 o.d fun k => ccLt (k.sreg o.a.toNat) (k.sreg o.b.toNat)) s

/-- CMP.LE (R127). -/
def execCmpLe (o : R3) (s : State) : Host.Outcome State Fault Refusal :=
  plain .ctl (.cmpLe o) (cmpOp 4 o.d fun k => ccLe (k.sreg o.a.toNat) (k.sreg o.b.toNat)) s

/-- CMP.LTU (R127). -/
def execCmpLtu (o : R3) (s : State) : Host.Outcome State Fault Refusal :=
  plain .ctl (.cmpLtu o) (cmpOp 4 o.d fun k => ccLtu (k.sreg o.a.toNat) (k.sreg o.b.toNat)) s

/-- CMP.LEU (R127). -/
def execCmpLeu (o : R3) (s : State) : Host.Outcome State Fault Refusal :=
  plain .ctl (.cmpLeu o) (cmpOp 4 o.d fun k => ccLeu (k.sreg o.a.toNat) (k.sreg o.b.toNat)) s

/-- CMPI.EQ (R127). -/
def execCmpiEq (o : RL5) (s : State) : Host.Outcome State Fault Refusal :=
  plain .ctl (.cmpiEq o) (cmpOp 8 o.d fun k => ccEq (k.sreg o.a.toNat) (sx64 o.ext)) s

/-- CMPI.NE (R127). -/
def execCmpiNe (o : RL5) (s : State) : Host.Outcome State Fault Refusal :=
  plain .ctl (.cmpiNe o) (cmpOp 8 o.d fun k => ccNe (k.sreg o.a.toNat) (sx64 o.ext)) s

/-- CMPI.LT (R127). -/
def execCmpiLt (o : RL5) (s : State) : Host.Outcome State Fault Refusal :=
  plain .ctl (.cmpiLt o) (cmpOp 8 o.d fun k => ccLt (k.sreg o.a.toNat) (sx64 o.ext)) s

/-- CMPI.LE (R127). -/
def execCmpiLe (o : RL5) (s : State) : Host.Outcome State Fault Refusal :=
  plain .ctl (.cmpiLe o) (cmpOp 8 o.d fun k => ccLe (k.sreg o.a.toNat) (sx64 o.ext)) s

/-- CMPI.LTU (R127). -/
def execCmpiLtu (o : RL5) (s : State) : Host.Outcome State Fault Refusal :=
  plain .ctl (.cmpiLtu o) (cmpOp 8 o.d fun k => ccLtu (k.sreg o.a.toNat) (sx64 o.ext)) s

/-- CMPI.LEU (R127). -/
def execCmpiLeu (o : RL5) (s : State) : Host.Outcome State Fault Refusal :=
  plain .ctl (.cmpiLeu o) (cmpOp 8 o.d fun k => ccLeu (k.sreg o.a.toNat) (sx64 o.ext)) s

/-- PSET (R128). -/
def execPset (o : RI) (s : State) : Host.Outcome State Fault Refusal :=
  plain .ctl (.pset o) (cmpOp 4 o.d fun _ => o.imm = 1) s

/-- PMOV.AND (R128). -/
def execPmovAnd (o : R3) (s : State) : Host.Outcome State Fault Refusal :=
  plain .ctl (.pmovAnd o) (cmpOp 4 o.d fun k =>
    let x := k.preg o.a.toNat
    let y := k.preg o.b.toNat
    x && y) s

/-- PMOV.OR (R128). -/
def execPmovOr (o : R3) (s : State) : Host.Outcome State Fault Refusal :=
  plain .ctl (.pmovOr o) (cmpOp 4 o.d fun k =>
    let x := k.preg o.a.toNat
    let y := k.preg o.b.toNat
    x || y) s

/-- PMOV.XOR (R128). -/
def execPmovXor (o : R3) (s : State) : Host.Outcome State Fault Refusal :=
  plain .ctl (.pmovXor o) (cmpOp 4 o.d fun k =>
    let x := k.preg o.a.toNat
    let y := k.preg o.b.toNat
    x != y) s

/-- PMOV.ANDN (R128). -/
def execPmovAndn (o : R3) (s : State) : Host.Outcome State Fault Refusal :=
  plain .ctl (.pmovAndn o) (cmpOp 4 o.d fun k =>
    let x := k.preg o.a.toNat
    let y := k.preg o.b.toNat
    x && !y) s

/-! Branches (R130, R131). -/

/-- The address of the instruction that CTL executes. -/
def ctlPc : Act DWord := do
  let k ← thisCore
  return k.ctl.pc

/-- A B-format target (04 R95). -/
def branchTarget (pc : DWord) (off : BitVec 20) : DWord := pc + (sx64 off <<< 2)

/-- BR (R130). -/
def execBr (o : BOff) (s : State) : Host.Outcome State Fault Refusal :=
  plain .ctl (.br o) (do branchTo .ctl (branchTarget (← ctlPc) o.off)) s

/-- CALL (R130): S63 takes the address of the next word. -/
def execCall (o : BOff) (s : State) : Host.Outcome State Fault Refusal :=
  plain .ctl (.call o) (do
    let pc ← ctlPc
    let t := branchTarget pc o.off
    trapIf (t.toNat % 4 ≠ 0) .align t.toNat
    modCore fun k => k.setS 63 (pc + 4)
    branchTo .ctl t) s

/-- JR (R130): a target that is not a multiple of 4 traps before Sd is written. -/
def execJr (o : R3F) (s : State) : Host.Outcome State Fault Refusal :=
  plain .ctl (.jr o) (do
    let k ← thisCore
    let t := k.sreg o.a.toNat
    trapIf (t.toNat % 4 ≠ 0) .align t.toNat
    modCore fun k => k.setS o.d.toNat (k.ctl.pc + 4)
    branchTo .ctl t) s

/-- LOOP (R131). -/
def execLoop (o : RL) (s : State) : Host.Outcome State Fault Refusal :=
  plain .ctl (.loop o) (do
    let k ← thisCore
    let n := k.sreg o.d.toNat
    if n.toNat ≤ 1 then
      modCore fun k => k.setS o.d.toNat 0
      advance .ctl 8
    else
      let t := k.ctl.pc + sx64 o.ext
      trapIf (t.toNat % 4 ≠ 0) .align t.toNat
      modCore fun k => k.setS o.d.toNat (n - 1)
      branchTo .ctl t) s

end Sys2Proof.Machine
end

