-- ==== Sys2Proof/Machine/Crypto.lean ====
section
/-! DEFINITION. The standards that chapter 17 names: SHA-256, the hash-based signatures of RFC 8554, and AES-256-GCM
(17 R494, R498, R499; log 25). -/

namespace Sys2Proof.Machine

/-- The `n` bytes of a number, most significant first. -/
def bigBytes (n x : Nat) : List Byte := (bytesOf n x).reverse

/-- The number of bytes, most significant first. -/
def ofBig (l : List Byte) : Nat := ofBytes l.reverse

/-! SHA-256. -/

/-- The largest `r` with `r ^ e ≤ x` among the numbers of `n` bits above `r`: one bit a step, highest first. -/
def rootBits (e x : Nat) : Nat → Nat → Nat
  | 0, r => r
  | n + 1, r => rootBits e x n (if (r + 2 ^ n) ^ e ≤ x then r + 2 ^ n else r)

/-- The first 32 bits of the fractional part of the e-th root of p. -/
def rootWord (e p : Nat) : Word := BitVec.ofNat 32 (rootBits e (p * 2 ^ (32 * e)) 37 0)

/-- The primes from `k` on among `n` numbers, by trial division with those below. -/
def primesFrom : Nat → Nat → List Nat → List Nat
  | 0, _, l => l
  | n + 1, k, l => primesFrom n (k + 1) (if l.all fun p => k % p ≠ 0 then l ++ [k] else l)

/-- The first 64 primes: those up to 311. -/
def shaPrimes : List Nat := primesFrom 310 2 []

/-- The round constants come from the cube roots of the first 64 primes, the initial hash value from the square roots of
the first eight. -/
def shaK : List Word := shaPrimes.map (rootWord 3)
def shaInit : List Word := (shaPrimes.take 8).map (rootWord 2)

/-- The message schedule, newest word first: extend a block's 16 words to 64. -/
def shaSchedule : Nat → List Word → List Word
  | 0, w => w
  | n + 1, w =>
    let at_ := fun i => w.getD i 0
    let s0 := (at_ 14).rotateRight 7 ^^^ (at_ 14).rotateRight 18 ^^^ (at_ 14) >>> 3
    let s1 := (at_ 1).rotateRight 17 ^^^ (at_ 1).rotateRight 19 ^^^ (at_ 1) >>> 10
    shaSchedule n ((at_ 15 + s0 + at_ 6 + s1) :: w)

/-- One round on the eight working variables. -/
def shaRound (v : List Word) (kw : Word × Word) : List Word :=
  let at_ := fun i => v.getD i 0
  let e := at_ 4
  let a := at_ 0
  let t1 := at_ 7 + (e.rotateRight 6 ^^^ e.rotateRight 11 ^^^ e.rotateRight 25) + ((e &&& at_ 5) ^^^ (~~~e &&& at_ 6)) +
    kw.1 + kw.2
  let t2 := (a.rotateRight 2 ^^^ a.rotateRight 13 ^^^ a.rotateRight 22) + ((a &&& at_ 1) ^^^ (a &&& at_ 2) ^^^ (at_ 1 &&& at_ 2))
  [t1 + t2, a, at_ 1, at_ 2, at_ 3 + t1, e, at_ 5, at_ 6]

/-- Take in one block of 64 bytes. -/
def shaBlock (h : List Word) (b : List Byte) : List Word :=
  let w := ((pieces 4 16 b).map fun x => BitVec.ofNat 32 (ofBig x)).reverse
  let v := (shaK.zip (shaSchedule 48 w).reverse).foldl shaRound h
  (h.zip v).map fun e => e.1 + e.2

/-- SHA-256. -/
def sha256 (m : List Byte) : List Byte :=
  let pad := m ++ [0x80] ++ List.replicate ((55 + 64 - m.length % 64) % 64) 0 ++ bigBytes 8 (8 * m.length)
  ((pieces 64 (pad.length / 64) pad).foldl shaBlock shaInit).flatMap fun w => bigBytes 4 w.toNat

/-! One-time signatures (RFC 8554, section 4), n = 32. -/

/-- A parameter set of LM-OTS: its type code, w and the shift of the checksum. -/
structure OtsSet where
  code : Nat
  w : Nat
  ls : Nat
  deriving DecidableEq, Repr

/-- The set of a type code. -/
def otsSet (code : Nat) : Option OtsSet :=
  match code with
  | 1 => some ⟨1, 1, 7⟩ | 2 => some ⟨2, 2, 6⟩ | 3 => some ⟨3, 4, 4⟩ | 4 => some ⟨4, 8, 0⟩ | _ => none

/-- Number of elements. -/
def OtsSet.p (o : OtsSet) : Nat := if o.w = 1 then 265 else if o.w = 2 then 133 else if o.w = 4 then 67 else 34

/-- Digit i of width w of a string. -/
def otsDigit (w : Nat) (l : List Byte) (i : Nat) : Nat := (l.getD (i * w / 8) 0).toNat / 2 ^ (8 - w - i * w % 8) % 2 ^ w

/-- The digits of a digest and its checksum. -/
def otsDigits (o : OtsSet) (q : List Byte) : List Nat :=
  let c := ((upto 0 (256 / o.w)).map fun i => 2 ^ o.w - 1 - otsDigit o.w q i).sum * 2 ^ o.ls
  (upto 0 o.p).map (otsDigit o.w (q ++ bigBytes 2 c))

/-- `n` steps of the chain of element i of leaf q, from step j on. -/
def otsChain (id : List Byte) (q i : Nat) : Nat → Nat → List Byte → List Byte
  | 0, _, x => x
  | n + 1, j, x => otsChain id q i n (j + 1) (sha256 (id ++ bigBytes 4 q ++ bigBytes 2 i ++ bigBytes 1 j ++ x))

/-- The digest that is signed. -/
def otsMessage (id : List Byte) (q : Nat) (c m : List Byte) : List Byte :=
  sha256 (id ++ bigBytes 4 q ++ bigBytes 2 0x8181 ++ c ++ m)

/-- The public key from the ends of the chains. -/
def otsPublic (id : List Byte) (q : Nat) (ends : List (List Byte)) : List Byte :=
  sha256 (id ++ bigBytes 4 q ++ bigBytes 2 0x8080 ++ ends.flatten)

/-- The public key that a signature's C and y lead to. -/
def otsCandidate (o : OtsSet) (id : List Byte) (q : Nat) (c : List Byte) (y : List (List Byte)) (m : List Byte) : List Byte :=
  let a := otsDigits o (otsMessage id q c m)
  otsPublic id q ((a.zip y).zipIdx.map fun e => otsChain id q e.2 (2 ^ o.w - 1 - e.1.1) e.1.1 e.1.2)

/-! Trees (RFC 8554, section 5), m = 32. -/

/-- Height of a type code. -/
def treeHeight (code : Nat) : Option Nat :=
  match code with
  | 5 => some 5 | 6 => some 10 | 7 => some 15 | 8 => some 20 | 9 => some 25 | _ => none

/-- Hash of a leaf of node number r, and of an interior node. -/
def leafHash (id : List Byte) (r : Nat) (k : List Byte) : List Byte := sha256 (id ++ bigBytes 4 r ++ bigBytes 2 0x8282 ++ k)
def nodeHash (id : List Byte) (r : Nat) (a b : List Byte) : List Byte :=
  sha256 (id ++ bigBytes 4 r ++ bigBytes 2 0x8383 ++ a ++ b)

/-- Climb from node r to the root along a path. -/
def climb (id : List Byte) : List (List Byte) → Nat → List Byte → List Byte
  | [], _, x => x
  | p :: l, r, x => climb id l (r / 2) (if r % 2 = 1 then nodeHash id (r / 2) p x else nodeHash id (r / 2) x p)

/-- A field of a byte string. -/
def part (l : List Byte) (o n : Nat) : List Byte := (l.drop o).take n

/-- Does a one-tree signature of the right length verify under a public key of 56 bytes? -/
def lmsVerify (key sig m : List Byte) : Bool :=
  match treeHeight (ofBig (part key 0 4)), otsSet (ofBig (part key 4 4)) with
  | some h, some o =>
    let id := part key 8 16
    let q := ofBig (part sig 0 4)
    let y := pieces 32 o.p (sig.drop 40)
    let at_ := 40 + 32 * o.p
    let k := otsCandidate o id q (part sig 8 32) y m
    key.length = 56 && sig.length = at_ + 4 + 32 * h && ofBig (part sig 4 4) = o.code &&
    ofBig (part sig at_ 4) = ofBig (part key 0 4) && decide (q < 2 ^ h) &&
    climb id (pieces 32 h (sig.drop (at_ + 4))) (2 ^ h + q) (leafHash id (2 ^ h + q) k) = part key 24 32
  | _, _ => false

/-- Length of the one-tree signature at the front of a string, by its own type codes. -/
def lmsLength (sig : List Byte) : Option Nat :=
  match otsSet (ofBig (part sig 4 4)) with
  | none => none
  | some o => (treeHeight (ofBig (part sig (40 + 32 * o.p) 4))).map fun h => 44 + 32 * o.p + 32 * h

/-- Verify the levels of a signature: `n` of them sign the next public key (RFC 8554, section 6). -/
def hssLevels (key : List Byte) : Nat → List Byte → List Byte → Bool
  | 0, sig, m => lmsVerify key sig m
  | n + 1, sig, m =>
    match lmsLength sig with
    | none => false
    | some k =>
      let next := part sig k 56
      lmsVerify key (sig.take k) next && hssLevels next n (sig.drop (k + 56)) m

/-- Does a signature verify under a public key of 60 bytes, with 1 to 8 levels (17 R498)? -/
def hssVerify (key sig m : List Byte) : Bool :=
  let levels := ofBig (part key 0 4)
  key.length = 60 && decide (1 ≤ levels ∧ levels ≤ 8) && ofBig (part sig 0 4) + 1 = levels && decide (4 ≤ sig.length) &&
  hssLevels (key.drop 4) (levels - 1) (sig.drop 4) m

/-! Signing with a tree whose one-time keys are given (17 R499). -/

/-- A tree: height and type codes, identifier, and element i of the key of leaf q. -/
structure SignTree where
  h : Nat
  code : Nat
  id : List Byte
  x : Nat → Nat → List Byte

/-- The set LMOTS_SHA256_N32_W8. -/
def otsW8 : OtsSet := ⟨4, 8, 0⟩

/-- The hash of a leaf of a tree. -/
def SignTree.leaf (t : SignTree) (q : Nat) : List Byte :=
  leafHash t.id (2 ^ t.h + q) (otsPublic t.id q ((upto 0 34).map fun i => otsChain t.id q i 255 0 (t.x q i)))

/-- The hash of a node `d` levels above the leaves. -/
def SignTree.node (t : SignTree) : Nat → Nat → List Byte
  | 0, r => t.leaf (r - 2 ^ t.h)
  | d + 1, r => nodeHash t.id r (t.node d (2 * r)) (t.node d (2 * r + 1))

/-- The public key, 56 bytes. -/
def SignTree.public (t : SignTree) : List Byte := bigBytes 4 t.code ++ bigBytes 4 4 ++ t.id ++ t.node t.h 1

/-- The signature with leaf q and randomizer c. -/
def SignTree.sign (t : SignTree) (q : Nat) (c m : List Byte) : List Byte :=
  let a := otsDigits otsW8 (otsMessage t.id q c m)
  let y := a.zipIdx.map fun e => otsChain t.id q e.2 e.1 0 (t.x q e.2)
  let path := (upto 0 t.h).map fun d =>
    let r := (2 ^ t.h + q) / 2 ^ d
    t.node d (if r % 2 = 1 then r - 1 else r + 1)
  bigBytes 4 q ++ bigBytes 4 4 ++ c ++ y.flatten ++ bigBytes 4 t.code ++ path.flatten

/-! AES-256 (FIPS 197). -/

/-- Multiplication by x in GF(2^8), and multiplication. -/
def gfX (a : Byte) : Byte := if a.getLsbD 7 then (a <<< 1) ^^^ 0x1B else a <<< 1
def gfMul (a b : Byte) : Byte :=
  ((upto 0 8).foldl (fun (s : Byte × Byte) i => (if b.getLsbD i then s.1 ^^^ s.2 else s.1, gfX s.2)) (0, a)).1

/-- The inverse, a^254; 0 for 0. -/
def gfInv (a : Byte) : Byte := (upto 0 6).foldl (fun s _ => gfMul (gfMul s s) a) a |> fun s => gfMul s s

/-- The S-box. -/
def sbox (a : Byte) : Byte :=
  let b := gfInv a
  b ^^^ b.rotateLeft 1 ^^^ b.rotateLeft 2 ^^^ b.rotateLeft 3 ^^^ b.rotateLeft 4 ^^^ 0x63

/-- Exclusive or of byte strings. -/
def xorBytes (a b : List Byte) : List Byte := (a.zip b).map fun e => e.1 ^^^ e.2

/-- The key schedule, words of four bytes, newest first: `n` more words, the next one numbered `i`. -/
def aesExpand : Nat → Nat → Byte → List (List Byte) → List (List Byte)
  | 0, _, _, w => w
  | n + 1, i, rcon, w =>
    let prev := w.getD 0 []
    let t := if i % 8 = 0 then xorBytes ((prev.drop 1 ++ prev.take 1).map sbox) [rcon, 0, 0, 0]
      else if i % 8 = 4 then prev.map sbox
      else prev
    aesExpand n (i + 1) (if i % 8 = 0 then gfX rcon else rcon) (xorBytes (w.getD 7 []) t :: w)

/-- The fifteen round keys of a 32-byte key. -/
def aesKeys (k : List Byte) : List (List Byte) :=
  let w := (aesExpand 52 8 1 (pieces 4 8 k).reverse).reverse
  (pieces 4 15 w).map List.flatten

/-- ShiftRows and MixColumns on the 16 bytes of a state, column after column. -/
def shiftRows (s : List Byte) : List Byte := (upto 0 16).map fun i => s.getD ((i + 4 * (i % 4)) % 16) 0
def mixColumns (s : List Byte) : List Byte :=
  (upto 0 16).map fun i =>
    let at_ := fun k => s.getD (i / 4 * 4 + (i + k) % 4) 0
    gfX (at_ 0) ^^^ (gfX (at_ 1) ^^^ at_ 1) ^^^ at_ 2 ^^^ at_ 3

/-- Encrypt one block. -/
def aesBlock (keys : List (List Byte)) (b : List Byte) : List Byte :=
  let s := xorBytes b (keys.getD 0 [])
  let s := ((keys.drop 1).take 13).foldl (fun s k => xorBytes (mixColumns (shiftRows (s.map sbox))) k) s
  xorBytes (shiftRows (s.map sbox)) (keys.getD 14 [])

/-! GCM (SP 800-38D). -/

/-- Multiplication in GF(2^128): bit 127 of a number is the coefficient of x^0. -/
def gcmMul (x y : QWord) : QWord :=
  ((upto 0 128).foldl (fun (s : QWord × QWord) i =>
    (if x.getLsbD (127 - i) then s.1 ^^^ s.2 else s.1,
     if s.2.getLsbD 0 then (s.2 >>> 1) ^^^ ((0xE1 : QWord) <<< 120) else s.2 >>> 1)) (0, y)).1

/-- Pad a string to whole blocks. -/
def gcmPad (l : List Byte) : List Byte := l ++ List.replicate ((16 - l.length % 16) % 16) 0

/-- GHASH. -/
def ghash (h : QWord) (l : List Byte) : QWord :=
  (pieces 16 (l.length / 16) l).foldl (fun y b => gcmMul (y ^^^ BitVec.ofNat 128 (ofBig b)) h) 0

/-- The counter block of a 12-byte IV. -/
def gcmCounter (iv : List Byte) (n : Nat) : List Byte := iv ++ bigBytes 4 n

/-- Decrypt, and say whether the 16-byte tag matches. -/
def gcmOpen (key iv aad ct tag : List Byte) : List Byte × Bool :=
  let ks := aesKeys key
  let h : QWord := BitVec.ofNat 128 (ofBig (aesBlock ks (bytesOf 16 0)))
  let stream := (upto 2 ((ct.length + 15) / 16)).flatMap fun n => aesBlock ks (gcmCounter iv n)
  let s := ghash h (gcmPad aad ++ gcmPad ct ++ bigBytes 8 (8 * aad.length) ++ bigBytes 8 (8 * ct.length))
  (xorBytes ct stream, xorBytes (bigBytes 16 s.toNat) (aesBlock ks (gcmCounter iv 1)) = tag)

end Sys2Proof.Machine
end

