-- ==== Sys2Proof/Machine/Whisk.lean ====
section
/-! DEFINITION. The whisk: sixteen cells over the samples of a line (16 R466, R475–R477). -/

namespace Sys2Proof.Machine

/-! Fields of a cell configuration (R477). -/

/-- A cell configuration: its two doublewords. -/
abbrev Cell := DWord × DWord

def Cell.op (c : Cell) : Nat := (bits c.1 59 5).toNat
def Cell.sgn (c : Cell) : Bool := bits c.1 58 1 = 1
def Cell.srcA (c : Cell) : Nat := (bits c.1 53 5).toNat
def Cell.srcB (c : Cell) : Nat := (bits c.1 48 5).toNat
def Cell.sh (c : Cell) : Nat := (bits c.1 44 4).toNat
def Cell.k0 (c : Cell) : Nat := (bits c.1 16 16).toNat
def Cell.k1 (c : Cell) : Nat := (bits c.1 0 16).toNat
def Cell.toff (c : Cell) : Nat := (bits c.2 48 16).toNat
/-- W−, W0 and W+. -/
def Cell.w (c : Cell) : List Int := [40, 32, 24].map fun i => sval 8 (bits c.2 i 8).toNat

/-- Operations that read SRCB. -/
def readsB (op : Nat) : Bool := decide (1 ≤ op ∧ op ≤ 5) || op = 7 || op = 15 || op = 16
/-- Operations that read SH. -/
def readsSh (op : Nat) : Bool := op = 3 || decide (8 ≤ op ∧ op ≤ 12) || op = 19

/-- Is source code `x` allowed in cell `i` (R475, R478)? -/
def sourceOk (i x : Nat) : Bool := decide (x ≤ 19) && !(decide (1 ≤ x ∧ x ≤ 16) && decide (i ≤ x - 1))

/-- May cell `i` be configured so (R477, R478)? K0 is 0 but for the two operations that the rule names, also where an
operand has code 17. -/
def cellOk (i : Nat) (c : Cell) : Bool :=
  let srcs := c.srcA :: (if readsB c.op then [c.srcB] else [])
  let tab := srcs.contains 18 || srcs.contains 19 || c.op = 10 || c.op = 11
  decide (c.op ≤ 19) && srcs.all (sourceOk i) && bits c.1 32 12 = 0 && bits c.2 0 24 = 0 &&
  (readsB c.op || c.srcB = 0) && (readsSh c.op || c.sh = 0) &&
  (c.op = 6 || c.op = 14 || (c.k0 = 0 && c.k1 = 0)) &&
  (if tab then decide (c.toff < 32768) else c.toff = 0) && (c.op = 12 || bits c.2 24 24 = 0)

/-! What a cell computes (R475, R476). -/

/-- Read a 16-bit operand. -/
def Cell.read (c : Cell) (x : Nat) : Int := if c.sgn then sval 16 x else (x : Int)

/-- Clamp to the cell's format. -/
def Cell.sat (c : Cell) (i : Int) : Nat :=
  if c.sgn then wrapInt 16 (max (-32768) (min i 32767)) else wrapInt 16 (max 0 (min i 65535))

/-- The rounding shift (R475). -/
def rnd (x : Int) (h : Nat) : Int := if h = 0 then x else (x + 2 ^ (h - 1)).fdiv (2 ^ h)

/-- The middle one of three. -/
def median (a b c : Int) : Int := max (min a b) (min (max a b) c)

/-- A half of a table. -/
def tableHalf (t : List Byte) (i : Nat) : Nat := (t.getD (2 * i) 0).toNat + 256 * (t.getD (2 * i + 1) 0).toNat

/-- What a line's cells see: input values, outputs of the cells below, and the tables. -/
structure Beats where
  input : List Nat
  outs : List (List Nat)
  t0 : List Byte
  t1 : List Byte

/-- The operand of a source code at a position (R475). -/
def Beats.operand (b : Beats) (c : Cell) (code p : Nat) : Nat :=
  if code = 0 then b.input.getD p 0
  else if code ≤ 16 then (b.outs.getD (code - 1) []).getD p 0
  else if code = 17 then c.k0
  else tableHalf (if code = 18 then b.t0 else b.t1) ((c.toff + p) % 32768)

/-- The output of a cell at a position (R476). -/
def Beats.cellAt (b : Beats) (c : Cell) (p : Nat) : Nat :=
  let last := b.input.length - 1
  let ra := b.operand c c.srcA p
  let rb := b.operand c c.srcB p
  let a := c.read ra
  let x := c.read rb
  let l := c.read (b.operand c c.srcA (p - 1))
  let r := c.read (b.operand c c.srcA (if p = last then last else p + 1))
  let shr := a.fdiv (2 ^ c.sh)
  let lut := fun t => tableHalf t ((c.toff + wrapInt 8 shr) % 32768)
  match c.op with
  | 0 => ra
  | 1 => c.sat (a + x)
  | 2 => c.sat (a - x)
  | 3 => c.sat (rnd (a * x) c.sh)
  | 4 => c.sat (min a x)
  | 5 => c.sat (max a x)
  | 6 => c.sat (min (max a (c.read c.k0)) (c.read c.k1))
  | 7 => c.sat (a - x).natAbs
  | 8 => c.sat shr
  | 9 => c.sat (a * 2 ^ c.sh)
  | 10 => lut b.t0
  | 11 => lut b.t1
  | 12 => c.sat (rnd (c.w.getD 0 0 * l + c.w.getD 1 0 * a + c.w.getD 2 0 * r) c.sh)
  | 13 => c.sat (median l a r)
  | 14 => if c.read c.k0 ≤ a then c.k1 else 0
  | 15 => ra &&& rb
  | 16 => ra ^^^ rb
  | 17 => (roundTo .bf16 .rne true 0 (valInt a)).1
  | 18 => (roundTo .fp16 .rne true 0 (valInt a)).1
  | _ => wrapInt 8 (if c.sgn then max (-128) (min shr 127) else max 0 (min shr 255))

/-- Run the cells one after another (R475). -/
def runCells : List Cell → Beats → Beats
  | [], b => b
  | c :: r, b => runCells r { b with outs := b.outs ++ [(upto 0 b.input.length).map (b.cellAt c)] }

/-- The output line: that of cell `ocell` (R476). -/
def whisk (cells : List Cell) (t0 t1 : List Byte) (ocell : Nat) (input : List Nat) : List Nat :=
  let b := runCells (cells.take (ocell + 1)) { input := input, outs := [], t0 := t0, t1 := t1 }
  b.outs.getD ocell []

/-! Samples (R466). -/

/-- Bytes that `n` samples of a format take (R466). -/
def sampleBytes (ifmt n : Nat) : Nat := if ifmt = 0 then n else if ifmt = 3 then n / 2 * 3 else 2 * n

/-- The samples of a line as 16-bit values (R466, R475). -/
def samples (ifmt n : Nat) (l : List Byte) : List Nat :=
  if ifmt = 0 then (l.take n).map (·.toNat)
  else if ifmt = 3 then
    (pieces 3 (n / 2) l).flatMap fun t => [ofBytes t % 2 ^ 12, ofBytes t / 2 ^ 12]
  else (pieces 2 n l).map ofBytes

end Sys2Proof.Machine
end

