-- ==== Sys2Proof/Machine/Ports.lean ====
section
/-! DEFINITION. The stream ports: frames, rings, advertisements, enabling, the loading of a whisk, and the commands PREL
and PSTAT (16 R465–R482). -/

namespace Sys2Proof.Machine

/-! Fields of the registers (R482). -/

def Port.ofmt (p : Port) : Bool := bits p.cfg 62 1 = 1
def Port.arven (p : Port) : Bool := bits p.cfg 40 1 = 1
def Port.ocell (p : Port) : Nat := (bits p.cfg 0 4).toNat
def Port.tgbase (p : Port) : Nat := (bits p.tags 0 56).toNat
def Port.advper (p : Port) : Nat := (bits p.peer 48 16).toNat

/-- A port by number. -/
def State.port (s : State) (i : Nat) : Port := SMap.get {} s.ports i

/-- Change a port. -/
def State.updPort (s : State) (i : Nat) (f : Port → Port) : State := { s with ports := SMap.upd {} s.ports i f }

/-- Slots delivered and not released, and free slots (R468). -/
def Port.used (p : Port) : Nat := (p.deliv + 2 ^ 32 - p.head) % 2 ^ 32
def Port.free (p : Port) : Nat := p.n - p.used

/-- LIMIT (R474). -/
def Port.limit (p : Port) : Nat := (p.lastSeq + 1 + p.free) % 2 ^ 32

/-- Does a sequence number come after another (R467)? -/
def seqAfter (x y : Nat) : Bool :=
  let d := (x + 2 ^ 32 - y) % 2 ^ 32
  decide (1 ≤ d ∧ d < 2 ^ 31)

/-! Frames (R465, R466, R474). -/

/-- The octets of a MAC address, its most significant one first (log 24). -/
def macBytes (a : Nat) : List Byte := (bytesOf 6 a).reverse

/-- The octets of the EtherType. -/
def portType : List Byte := [0x88, 0xB5]

/-- FCS of a frame (log 22). -/
def fcs (l : List Byte) : List Byte := bytesOf 4 (crc32 0xEDB8_8320 l)

/-- An advertisement frame, padded to 64 bytes (R466, R474). -/
def advertFrame (p : Port) : List Byte :=
  let body := macBytes (p.peer.toNat % 2 ^ 48) ++ macBytes (p.addr.toNat % 2 ^ 48) ++ portType ++
    bytesOf 4 0x201 ++ bytesOf 4 p.limit ++ bytesOf 4 0 ++ bytesOf 4 p.free ++ bytesOf 8 p.noslot ++ bytesOf 22 0
  body ++ fcs body

/-- Send an advertisement. -/
def advertise (p : Port) : Port := { p with sent := p.sent ++ [advertFrame p] }

/-- Is no tile of another region on the port's core (R471)? -/
def Port.accepts (s : State) (p : Port) : Bool :=
  match (s.coreOf p.core).tile with
  | some t => t.reg.id = p.region
  | none => true

/-- Send the advertisement that an enable still owes, once the port begins to accept frames (R471). -/
def startAccepting (i : Nat) (s : State) : State :=
  let p := s.port i
  if p.en && p.owed && p.accepts s then s.updPort i fun p => advertise { p with owed := false } else s

/-- Write the tag of a slot (R468, R472): its state and LANDED. A fault is posted (02 R517). -/
def writeTag (p : Port) (slot state landed : Nat) : Act Unit := do
  let s ← get
  match ← portTry (writeAs ((effRegion s p.region).ctx none) p.region (p.tgbase + 8 * slot)
      (bytesOf 8 (state + landed * 2 ^ 8 + p.slotb * 2 ^ 32))) with
  | .ok _ => pure ()
  | .error (code, va) => postEvent p.region code va

/-! Receiving (R465–R473). -/

/-- Is the frame for the port at all (R465; one above 9,216 bytes is not, log 24)? -/
def forPort (p : Port) (l : List Byte) : Bool :=
  l.take 6 = macBytes (p.addr.toNat % 2 ^ 48) && (l.drop 12).take 2 = portType && decide (l.length ≤ 9216)

/-- Is the FCS right, and the frame long enough (R465)? -/
def frameSound (l : List Byte) : Bool :=
  decide (64 ≤ l.length) && l.drop (l.length - 4) = fcs (l.take (l.length - 4))

/-- The header of a line frame. -/
structure LineHdr where
  nsamp : Nat
  seq : Nat
  ifmt : Nat
  ts : Nat

/-- The header of a payload, if it is a well-formed line frame (R466). -/
def lineHeader (l : List Byte) : Option LineHdr :=
  let at_ := fun o n => ofBytes ((l.drop o).take n)
  let n := at_ 2 2
  let f := at_ 8 1
  if at_ 0 1 = 1 && at_ 1 1 = 1 && decide (1 ≤ n ∧ n ≤ 8192) && decide (f ≤ 3) && decide (sampleBytes f n ≤ 8192) &&
      !(f = 3 && n % 2 = 1) && at_ 9 3 = 0 && at_ 0xC 4 = 0 && at_ 0x18 8 = 0 && decide (32 + sampleBytes f n ≤ l.length) then
    some ⟨n, at_ 4 4, f, at_ 0x10 8⟩
  else none

/-- Bytes of the output line (R469). -/
def Port.outBytes (p : Port) (h : LineHdr) : Nat := if p.ofmt then h.nsamp else 2 * h.nsamp

/-- The output bytes (R476). -/
def Port.output (p : Port) (h : LineHdr) (data : List Byte) : List Byte :=
  let y := whisk (p.cells.getD []) p.t0 p.t1 p.ocell (samples h.ifmt h.nsamp data)
  y.flatMap fun v => if p.ofmt then [BitVec.ofNat 8 v] else bytesOf 2 v

/-- The slot's header (R469). -/
def Port.slotHeader (p : Port) (h : LineHdr) (cycle : Nat) : List Byte :=
  bytesOf 4 h.seq ++ bytesOf 2 (Nat.min ((h.seq + 2 ^ 33 - p.lastSeq - 1) % 2 ^ 32) 65535) ++ bytesOf 2 h.nsamp ++
  bytesOf 1 (b2n p.pend + 2 * b2n p.ofmt) ++ bytesOf 7 0 ++ bytesOf 8 h.ts ++ bytesOf 8 cycle ++ bytesOf 32 0

/-- The arrival bits of a slot: one for each chunk of 512 bytes (R472). -/
def Port.slotBits (p : Port) (slot : Nat) : List Nat := (upto 0 (p.slotb / 512)).map fun j => slot * p.slotb / 512 + j

/-- The arrival bits and the semaphore of a delivery: to the tile that the core runs, or held for the next (01 R516). -/
def signalSlot (i slot : Nat) : Act Unit := do
  let s ← get
  let p := s.port i
  let arv := if p.arven then p.slotBits slot else []
  if (s.coreOf p.core).tile.isSome then
    each arv fun b => arvSet p.core p.arvn b
    if p.semen then semAddRemote p.core p.sem 1 else pure ()
  else
    modify fun s => s.updPort i fun p => { p with
      heldArv := arv.foldl (fun x b => x ||| (1 : DWord) <<< b) p.heldArv
      heldSem := if p.semen then p.heldSem + 1 else p.heldSem }

/-- A port writes its ring: what another tile has written there is gone (R471). -/
def Core.portWrite (k : Core) (a : Nat) (l : List Byte) : Core :=
  { k.spWrite a l with soiled := k.soiled.filter fun x => !(decide (a ≤ x) && decide (x < a + l.length)) }

/-- Accept a line or drop it for want of a slot (R471, R472). -/
def acceptLine (i : Nat) (h : LineHdr) (data : List Byte) : Act Unit := do
  let s ← get
  let p := s.port i
  if !p.accepts s || p.free = 0 then
    set (s.updPort i fun p => { p with noslot := (p.noslot + 1) % 2 ^ 32, pend := true })
    if !p.pend && (effRegion s p.region).overrun then postEvent p.region .portOverrun else pure ()
  else
    let slot := p.deliv % p.n
    let a := p.rbase + slot * p.slotb
    modCoreAt p.core fun k => (k.portWrite (a + 0x40) (p.output h data)).portWrite a (p.slotHeader h s.cycle)
    modify fun s => s.updPort i fun p => { p with pend := false, lastSeq := h.seq }
    signalSlot i slot
    writeTag p slot 2 (64 + p.outBytes h)
    modify fun s => s.updPort i fun p => { p with deliv := (p.deliv + 1) % 2 ^ 32 }

/-- Count a discarded frame in BAD. -/
def countBad (i : Nat) : Act Unit := modify fun s => s.updPort i fun p => { p with bad := (p.bad + 1) % 2 ^ 32 }

/-- Let an action of a unit happen whole, or, where it has to wait, not yet. -/
def whole (a : Act Unit) : Act Unit := do
  match ← attemptUndo a with
  | .ok _ => pure ()
  | .error e => askFor e

/-- LINE_FRAME_RECEIVE (R465–R473): port `idx` receives the frame `bytes`. -/
def execLineFrameReceive (s : State) : Host.Outcome State Fault Refusal :=
  let i := s.ev.idx
  let l := s.ev.bytes
  event (fun s => decide (i < 4) && (s.port i).en && (s.port i).link = 2 && forPort (s.port i) l) (whole do
    modify (startAccepting i)
    let s ← get
    let p := s.port i
    if !frameSound l then countBad i
    else
      let pay := (l.take (l.length - 4)).drop 14
      match lineHeader pay with
      | none => countBad i
      | some h =>
        if !seqAfter h.seq p.lastSeq || decide (p.slotb < 64 + p.outBytes h) then countBad i
        else acceptLine i h (pay.drop 32)) s

/-- ADVERTISEMENT_TIMER (R474): the period of port `idx` is over. -/
def execAdvertisementTimer (s : State) : Host.Outcome State Fault Refusal :=
  let i := s.ev.idx
  event (fun s => let p := s.port i
      decide (i < 4) && p.en && p.advper ≠ 0 && decide (p.advSince + p.advper * 1024 ≤ s.cycle))
    (modify fun s => s.updPort i fun p => advertise { p with advSince := p.advSince + p.advper * 1024 }) s

/-- PORT_ACCEPT_START (R471): port `idx` begins to accept frames. -/
def execPortAcceptStart (s : State) : Host.Outcome State Fault Refusal :=
  event (fun s => decide (s.ev.idx < 4)) (modify (startAccepting s.ev.idx)) s

/-! Enabling (R479). -/

/-- May port `i`, with these registers, be enabled (R479)? -/
def mayEnable (s : State) (i : Nat) (p : Port) : Bool :=
  let r := effRegion s p.region
  r.valid && decide (2 ≤ p.n ∧ p.n ≤ 1024) && p.slotb % 64 = 0 && decide (128 ≤ p.slotb ∧ p.slotb ≤ 16448) &&
  p.rbase % 64 = 0 && decide (p.rbase + p.n * p.slotb ≤ r.spTile) &&
  (!p.arven || (p.slotb % 512 = 0 && decide (p.n * p.slotb ≤ 32768))) && p.tgbase % 8 = 0 && p.cells.isSome &&
  !(s.ports.any fun e => e.1 ≠ i && e.2.en && e.2.core = p.core)

/-- Set or clear EN. -/
def Port.setEn (p : Port) (b : Bool) : Port := { p with cfg := BitVec.ofNat 64 (setNbits p.cfg.toNat 63 1 (b2n b)) }

/-- Enable port `i`: the counts and the tags start anew (R479). Its region's block is kept from now on (06 R166). -/
def enablePort (i : Nat) : Act Unit := do
  let s ← get
  let p := s.port i
  let _ ← useRegion p.region
  let s ← get
  if !mayEnable s i p then set (s.updPort i fun p => { p with cfgErr := true })
  else
    each (upto 0 p.n) fun t => writeTag p t 0 0
    modify fun s => s.updPort i fun p => { p.setEn true with
      deliv := 0, head := 0, lastSeq := (p.e0.toNat + 2 ^ 32 - 1) % 2 ^ 32, pend := false, owed := true, advSince := s.cycle }
    modify (watchRing p.core)
    modify (startAccepting i)

/-- A write of PT_CFG (R478, R479, 01 R516); EN is ignored unless the feature is accepted (17 R488). -/
def writePortCfg (i : Nat) (v : DWord) : Act Unit := do
  let s ← get
  let on := bits v 63 1 = 1
  let legal := v &&& (0x4FFF_FFFF_8000_000F : DWord)
  let s := s.updPort i fun p => { p with cfg := if p.en then p.cfg else legal }
  set s
  if accepted s 8 then
    modify fun s => s.updPort i fun p => { p with heldSem := 0, heldArv := 0 }
    if on then enablePort i else modify fun s => s.updPort i fun p => p.setEn false
  else pure ()

/-- PORT_ENABLE (R479): PT_CFG of port `idx` is written with `value`, whose EN is 1. -/
def execPortEnable (s : State) : Host.Outcome State Fault Refusal :=
  event (fun s => decide (s.ev.idx < 4) && bits s.ev.value 63 1 = 1) (whole (writePortCfg s.ev.idx s.ev.value)) s

/-- PORT_DISABLE (R479): PT_CFG of port `idx` is written with `value`, whose EN is 0. -/
def execPortDisable (s : State) : Host.Outcome State Fault Refusal :=
  event (fun s => decide (s.ev.idx < 4) && bits s.ev.value 63 1 = 0) (whole (writePortCfg s.ev.idx s.ev.value)) s

/-! Loading a whisk (R478). -/

/-- The cells of an image's first 256 bytes. -/
def cellsOf (l : List Byte) : List Cell :=
  (pieces 16 16 l).map fun c => (BitVec.ofNat 64 (ofBytes (c.take 8)), BitVec.ofNat 64 (ofBytes (c.drop 8)))

/-- A write of PT_WLOAD (R478). -/
def loadWhisk (i : Nat) (v : DWord) : Act Unit := do
  let s ← get
  let p := s.port i
  if p.en then pure ()
  else
    let va := (bits v 16 40).toNat * 0x1_0000
    let x := (effRegion s p.region).ctx none
    let r ← portTry (do
      let cells := cellsOf (← readAs x va 256)
      if bits v 63 1 = 1 then
        let t0 ← readAs x (va + 0x1_0000) 0x1_0000
        let t1 ← readAs x (va + 0x2_0000) 0x1_0000
        return (cells, some (t0, t1))
      else return (cells, none))
    let failed := modify fun s => s.updPort i fun p => { p with cfgErr := true }
    match r with
    | .error _ => failed
    | .ok (cells, tabs) =>
      if cells.zipIdx.any fun e => !cellOk e.2 e.1 then failed
      else
        modify fun s => s.updPort i fun p => { p with
          cells := some cells, t0 := (tabs.map (·.1)).getD p.t0, t1 := (tabs.map (·.2)).getD p.t1 }

/-- WHISK_LOAD (R478): PT_WLOAD of port `idx` is written with `value`. -/
def execWhiskLoad (s : State) : Host.Outcome State Fault Refusal :=
  event (fun s => decide (s.ev.idx < 4)) (whole (loadWhisk s.ev.idx s.ev.value)) s

/-! Commands (R480, R481). -/

/-- Failure codes (R480). -/
def ptDenied : Nat := 1
def ptState : Nat := 2
def ptRange : Nat := 3

/-- The failure that a command on a port meets before anything else (R480). -/
def portFailure (s : State) (t : Tile) (p : Port) : Option Nat :=
  if !(effRegion s p.region).chain.contains t.reg.id then some ptDenied else if !p.en then some ptState else none

/-- Write a command's result. -/
def portResult (d : BitVec 6) (r : Except Nat Nat) : Act Unit := do
  modCore fun k => k.setS d.toNat (match r with
    | .ok v => BitVec.ofNat 64 v
    | .error n => 0 - BitVec.ofNat 64 n)
  advance .ctl 8

/-- PREL (R480). -/
def execPrel (o : Cmd) (s : State) : Host.Outcome State Fault Refusal :=
  plain .ctl (.prel o) (do
    let s ← get
    let k ← thisCore
    let t ← tileOf s.core
    let v := k.sreg o.a.toNat
    trapIf (bits v 11 53 ≠ 0) .reservedField
    let i := (bits o.imm 0 2).toNat
    let p := s.port i
    let n := v.toNat
    match portFailure s t p with
    | some f => portResult o.d (.error f)
    | none =>
      if p.used < n then portResult o.d (.error ptRange)
      else
        each (upto p.head n) fun h => writeTag p (h % 2 ^ 32 % p.n) 0 0
        modify fun s => s.updPort i fun p =>
          let p := { p with head := (p.head + n) % 2 ^ 32 }
          if n = 0 then p else advertise p
        let s ← get
        portResult o.d (.ok (s.port i).limit)) s

/-- The items of PSTAT (R480). -/
def Port.item (p : Port) (n : Nat) : Nat :=
  match n with
  | 0 => p.deliv
  | 1 => p.head
  | 2 => p.limit
  | 3 => p.noslot
  | 4 => p.bad
  | _ => p.link + 4 * b2n p.en

/-- PSTAT (R480). -/
def execPstat (o : Cmd) (s : State) : Host.Outcome State Fault Refusal :=
  plain .ctl (.pstat o) (do
    let s ← get
    let t ← tileOf s.core
    let p := s.port (bits o.imm 0 2).toNat
    match portFailure s t p with
    | some f => portResult o.d (.error f)
    | none => portResult o.d (.ok (p.item (bits o.imm 4 4).toNat))) s

end Sys2Proof.Machine
end

