-- ==== Sys2Proof/Machine/HostLink.lean ====
section
/-! DEFINITION. The host link: features, TDISP, submission rings, copy-in, attestation, boot, and the thermal trip
(17 R484–R502). -/

namespace Sys2Proof.Machine

/-- Change the host link. -/
def State.updHl (s : State) (f : HostLink → HostLink) : State := { s with hl := f s.hl }

/-! Host memory and interrupts. -/

/-- Location of a host bus address (log 26). -/
def hostLoc (a : Nat) : Nat := 2 ^ 56 + a % 2 ^ 56

/-- Read host memory over the link. -/
def hostRead (s : State) (a n : Nat) : List Byte := (upto a n).map fun x => SMap.get 0 s.m.remote (hostLoc x)

/-- Write host memory over the link. -/
def hostWrite (a : Nat) (l : List Byte) (s : State) : State :=
  { s with m := writeRemote (l.zipIdx.map fun e => (hostLoc (a + e.2), e.1)) s.m }

/-- The host writes its own memory: lines that the device holds of it keep what they were (02 R59). -/
def hostSet (a : Nat) (l : List Byte) (s : State) : State :=
  { s with m := { s.m with
      unstamped := s.m.unstamped + 1
      remote := l.zipIdx.foldl (fun m e => SMap.put m (hostLoc (a + e.2)) e.1) s.m.remote } }

/-- Signal an MSI-X vector (R485). -/
def signal (v : Nat) (s : State) : State := s.updHl fun h => { h with irqs := h.irqs ++ [v] }

/-! TDISP (R487). -/

/-- TDISP states as R500 codes them. -/
def Tdi.num : Tdi → Nat
  | .unlocked => 0 | .locked => 1 | .run => 2 | .error => 3

/-- May a BAR access take place: `bound` says that it came on the bound stream? -/
def barAllowed (s : State) (bound : Bool) : Bool := bound || s.hl.tdi = .unlocked || s.hl.tdi = .locked

/-- May the access of an event take place: the host's come through BAR 0? -/
def mayAccess (s : State) : Bool := match s.ev.agent with
  | .host => barAllowed s s.ev.flag
  | _ => true

/-- A host read brings a value. -/
def answerHost (l : List Byte) (s : State) : State := s.updHl fun h => { h with answer := l }

/-- Enter ERROR: TDISP_STATE goes to the region of every enabled ring. -/
def tdiError : Act Unit := do
  modify fun s => s.updHl fun h => { h with tdi := .error }
  let s ← get
  each (s.hl.rings.filter fun e => e.2.en) fun e => postEvent e.2.region .tdispState

/-- A change of locked configuration (R487). -/
def lockedChange (changed : Bool) : Act Unit := do
  let s ← get
  if changed && (s.hl.tdi = .locked || s.hl.tdi = .run) then tdiError else pure ()

/-- TDISP_LOCK_INTERFACE (R487). -/
def execTdispLockInterface (s : State) : Host.Outcome State Fault Refusal :=
  event (fun s => s.hl.tdi = .unlocked) (modify fun s => s.updHl fun h => { h with tdi := .locked }) s

/-- TDISP_START_INTERFACE (R487). -/
def execTdispStartInterface (s : State) : Host.Outcome State Fault Refusal :=
  event (fun s => s.hl.tdi = .locked) (modify fun s => s.updHl fun h => { h with tdi := .run }) s

/-- TDISP_STOP_INTERFACE (R487): rings are disabled and key slots zeroed. -/
def execTdispStopInterface (s : State) : Host.Outcome State Fault Refusal :=
  .next (s.updHl fun h => { h with
    tdi := .unlocked, keys := [], rings := h.rings.map fun (e : Nat × Ring) => (e.1, { e.2 with en := false }) })

/-- A write of configuration space by the host (R487, R488). -/
def hostConfig (atomReq bars : Bool) : Act Unit := do
  modify fun s => s.updHl fun h => { h with atomReq := atomReq }
  lockedChange bars

/-- A write of HL_FACC1, or with `i` = 0 of HL_FACC0 (R488). -/
def writeFacc (i : Nat) (v : DWord) : Act Unit := do
  let s ← get
  let h := s.hl
  if h.fixed then pure ()
  else if i = 0 then
    set (s.updHl fun h => { h with facc0 := v })
    lockedChange (v ≠ h.facc0)
  else
    let a := h.facc0 &&& BitVec.ofNat 64 offered
    set (s.updHl fun h => { h with facc0 := a, facc1 := 0, fixed := true })
    lockedChange (a ≠ h.facc0)

/-- FEATURE_ACCEPT (R488): HL_FACC1 is written with `value`. -/
def execFeatureAccept (s : State) : Host.Outcome State Fault Refusal :=
  event (fun s => barAllowed s s.ev.flag) (writeFacc 1 s.ev.value) s

/-! Rings (R489–R493). -/

/-- A ring by number. -/
def State.ring (s : State) (r : Nat) : Ring := SMap.get {} s.hl.rings r

/-- Change a ring. -/
def State.updRing (s : State) (r : Nat) (f : Ring → Ring) : State :=
  s.updHl fun h => { h with rings := SMap.upd {} h.rings r f }

/-- A write of HL_RCFG of the ring that HL_RSEL names (R487, R502, R503); the blocks of the ring's region are kept from
then on (06 R166). -/
def writeRcfg (v : DWord) : Act Unit := do
  let s ← get
  let r := s.hl.rsel
  let old := s.ring r
  let n := (bits v 32 5).toNat
  let on := bits v 63 1 = 1
  let ok := on && accepted s 0 && decide (4 ≤ n ∧ n ≤ 16)
  let new := { old with region := (bits v 48 12).toNat, logn := n, en := ok }
  set (s.updRing r fun _ => if ok then { new with head := 0, tail := 0, ops := [], last := 0 } else new)
  if ok then modify (keepBlocks new.region) else pure ()
  if on && !ok then modify fun s => s.updHl fun h => { h with cfgErr := true } else pure ()
  lockedChange (decide (old.region ≠ new.region) || decide (old.logn ≠ new.logn) || old.en ≠ new.en)

/-- RING_ENABLE (R502): HL_RCFG is written with `value`, whose EN is 1. -/
def execRingEnable (s : State) : Host.Outcome State Fault Refusal :=
  event (fun s => bits s.ev.value 63 1 = 1 && barAllowed s s.ev.flag) (writeRcfg s.ev.value) s

/-- Entries of a ring. -/
def Ring.size (r : Ring) : Nat := 2 ^ r.logn

/-- RING_DOORBELL (R489): the doorbell of ring `idx` is written with `value`. -/
def execRingDoorbell (s : State) : Host.Outcome State Fault Refusal :=
  let i := s.ev.idx
  let v := s.ev.value.toNat % 2 ^ 32
  event (fun s => decide (i < 16) && barAllowed s s.ev.flag && (s.ring i).en) (modify fun s =>
    let r := s.ring i
    if (v + 2 ^ 32 - r.head) % 2 ^ 32 > r.size then s.updHl fun h => { h with badDb := (h.badDb + 1) % 2 ^ 32 }
    else { s.updRing i fun r => { r with tail := v } with sv := { s.sv with ipend := s.sv.ipend ||| 2 } }) s

/-- Fields of an entry (R490). -/
def entKind (l : List Byte) : Nat := ofBytes (part l 0 1)
def entIrq (l : List Byte) : Bool := (ofBytes (part l 1 1)).testBit 0
def entChain (l : List Byte) : Bool := (ofBytes (part l 1 1)).testBit 1
def entTag (l : List Byte) : Nat := ofBytes (part l 4 4)
def entA (l : List Byte) : Nat := ofBytes (part l 8 8)
def entB (l : List Byte) : Nat := ofBytes (part l 0x10 8)
def entLen (l : List Byte) : Nat := ofBytes (part l 0x18 4)
def entKey (l : List Byte) : Nat := ofBytes (part l 0x1C 1)
def entCtr (l : List Byte) : Nat := ofBytes (part l 0x20 8)
def entSem (l : List Byte) : DWord := BitVec.ofNat 64 (ofBytes (part l 0x28 8))

/-- Statuses (R493). -/
def stOk : Nat := 0
def stBadent : Nat := 16
def stTag : Nat := 17
def stReplay : Nat := 18
def stFault : Nat := 19
def stTdisp : Nat := 20
def stExhausted : Nat := 21
def stSkip : Nat := 22

/-- Is an entry well formed, and its kind accepted (R488, R490, R491)? -/
def entryOk (s : State) (l : List Byte) : Bool :=
  let k := entKind l
  decide (1 ≤ k ∧ k ≤ 4) && accepted s (if k ≤ 2 then 0 else if k = 3 then 1 else 2) &&
  decide (ofBytes (part l 1 1) < 4) && ofBytes (part l 2 2) = 0 && ofBytes (part l 0x1D 3) = 0 &&
  ofBytes (part l 0x30 16) = 0 && bits (entSem l) 62 1 = 0 && bits (entSem l) 0 48 = 0 &&
  (k ≠ 1 || (entA l % 128 = 0 && entB l = 0)) && (k = 2 || k = 3 || entLen l = 0) && (k = 3 || (entKey l = 0 && entCtr l = 0)) &&
  (k ≠ 3 || (entLen l % 128 = 0 && decide (entKey l < 64))) && (!(k = 2 || k = 3) || entB l % 128 = 0)

/-- Does a tile of the region run on the core or cluster of the entry's semaphore (R491)? -/
def semAllowed (s : State) (region : Nat) (d : DWord) : Bool :=
  !depEn d || (depOk d && (upto 0 Config.cores).any fun c =>
    (if depKind d = 0 then decide (c = depUnit d) else decide (clusterOf c = depUnit d)) &&
    (match (s.coreOf c).tile with
     | some t => decide (t.reg.id = region)
     | none => false))

/-- The semaphore update of an entry (R491). -/
def entrySem (region n : Nat) (d : DWord) : Act Unit :=
  if !depEn d then pure ()
  else if depKind d = 0 then semAddRemote (depUnit d) (depSem d) n
  else do
    let _ ← semAdd (depUnit d * Config.coresPerCluster) true (depSem d) n region

/-- The location of a destination address, or none where the page is not one that may be written (R491): a region that
is not valid has none. -/
def destPlace (r : Region) (va : Nat) : Act (Option Nat) := do
  let s ← get
  match if r.valid then walk s.m r.xroot va else .error (.trap .xlateNotPresent va) with
  | .error (.fault f) => throw (.fault f)
  | .error _ => return none
  | .ok (_, e, _) =>
    if pteW e && (r.supv || pteU e) && !pteH e && pteLocal s.devId e then
      match ← attemptUndo (translate (r.ctx none) .write va) with
      | .ok loc => return some loc
      | .error (.trap _ _) => return none
      | .error e => throw e
    else return none

/-- Locations of the sectors of a destination, or the first failing address. -/
def destPlaces (r : Region) (va len : Nat) : Act (Except Nat (List Nat)) := do
  let l ← collect (upto 0 ((len + 127) / 128)) fun i => do
    let p ← destPlace r (va + 128 * i)
    return (va + 128 * i, p)
  match l.find? fun e => e.2.isNone with
  | some e => return .error e.1
  | none => return .ok (l.filterMap fun e => e.2)

/-- Bytes of sector `i` of an operation. -/
def RingOp.sector (o : RingOp) (i : Nat) : List (Nat × Byte) :=
  placed (o.places.getD i 0) ((o.data.drop (128 * i)).take 128)

/-- Write the completions of entries that have completed, in ring order (R492, R493). -/
def writeCompletions (r : Nat) : Nat → State → State
  | 0, s => s
  | k + 1, s =>
    let g := s.ring r
    match g.ops with
    | [] => s
    | o :: rest =>
      match o.result with
      | none => s
      | some (st, res) =>
        let rec_ := bytesOf 4 (entTag o.entry) ++ bytesOf 1 st ++ bytesOf 1 (if o.n / g.size % 2 = 0 then 1 else 0) ++
          bytesOf 2 0 ++ bytesOf 8 res
        let s := hostWrite (g.cbase.toNat + 16 * (o.n % g.size)) rec_ s
        let s := s.updRing r fun g => { g with ops := rest, last := st }
        writeCompletions r k (if entIrq o.entry then signal (1 + r) s else s)

/-- Complete entry `n` of a ring. -/
def completeEntry (r n st res : Nat) (s : State) : State :=
  let s := s.updRing r fun g => { g with
    ops := g.ops.map fun (o : RingOp) => if o.n = n then { o with result := some (st, res) } else o }
  writeCompletions r (s.ring r).ops.length s

/-- The entry that a ring takes next, if it may take it now (R489, R492): the samovar's firmware reads it, and a NEST or
an ATTEST, and one with CHAIN, waits for every earlier entry. -/
def nextEntry (s : State) (r : Nat) : Option (List Byte) :=
  let g := s.ring r
  let l := hostRead s (g.rbase.toNat + 64 * (g.head % g.size)) 64
  let alone := !(entKind l = 2 || entKind l = 3) || entChain l
  if s.rv.on && r < 16 && g.en && g.head ≠ g.tail && (!alone || g.ops.isEmpty) then some l else none

/-- Take an entry: its number, and whether it may be performed or has already completed (R487, R490, R492; the order of
these checks: log 27). -/
def takeEntry (r : Nat) (l : List Byte) : Act (Option Nat) := do
  let s ← get
  let g := s.ring r
  let n := g.head
  set (s.updRing r fun g => { g with head := (g.head + 1) % 2 ^ 32, ops := g.ops ++ [{ n := n, entry := l }] })
  let stop := fun st => do
    modify (completeEntry r n st (if st = NestErr.denied.num && entKind l = 1 then (resultWord (.error .denied)).toNat else 0))
    return none
  if s.hl.tdi = .locked || s.hl.tdi = .error then stop stTdisp
  else if entChain l && g.last ≠ stOk then stop stSkip
  else if !entryOk s l then stop stBadent
  else if !semAllowed s g.region (entSem l) then stop NestErr.denied.num
  else return some n

/-- Take the next entry of ring `idx` and perform it, if its kind is the event's. -/
def ringEvent (kind : Nat → Bool) (perform : Nat → Nat → List Byte → Act Unit) (s : State) :
    Host.Outcome State Fault Refusal :=
  let r := s.ev.idx
  match nextEntry s r with
  | none => .next s
  | some l =>
    event (fun _ => kind (entKind l)) (whole do
      match ← takeEntry r l with
      | none => pure ()
      | some n => perform r n l) s

/-- RING_ENTRY_NEST (R491): the next entry of ring `idx` is a NEST, or of no kind. -/
def execRingEntryNest (s : State) : Host.Outcome State Fault Refusal :=
  ringEvent (fun k => !(decide (2 ≤ k ∧ k ≤ 4))) (fun r n l => do
    let s ← get
    let g := effRegion s (s.ring r).region
    let finish := fun (x : Except NestErr Nat) => do
      match x with
      | .ok nid =>
        entrySem g.id 0 (entSem l)
        modify (completeEntry r n stOk nid)
      | .error e => modify (completeEntry r n e.num (resultWord (.error e)).toNat)
    if !g.valid then finish (.error .denied)
    else
      match ← portTry (readAs (g.ctx none) (entA l) 128) with
      | .ok b => finish (← enqueue (outsideSubtree g) (some b) 0)
      | .error (_, va) => modify (completeEntry r n stFault va)) s

/-- Finish an operation whose bytes are all written: its semaphore, then its completion (R491). -/
def finishCopy (r : Nat) (o : RingOp) : Act Unit := do
  let s ← get
  entrySem (s.ring r).region (entLen o.entry) (entSem o.entry)
  modify (completeEntry r o.n stOk (entLen o.entry))

/-- Finish a COPYIN (R495): with a matching tag the poison of its sectors is cleared under one stamp. -/
def finishCopyIn (r : Nat) (o : RingOp) : Act Unit := do
  let s ← get
  let secs := o.places.map (· / 128)
  let slot := entKey o.entry
  if o.tagOk then
    let stamp := (s.m.pubCount + 1) % 2 ^ 48
    let s := s.updHl fun h => { h with keys := SMap.upd {} h.keys slot fun k => { k with last := entCtr o.entry } }
    set (pruneHistory { s with m := { s.m with
      pubCount := stamp
      poison := s.m.poison.filter fun x => !secs.contains x
      pastPoison := (stamp, secs) :: s.m.pastPoison } })
    finishCopy r o
  else
    postEvent (s.ring r).region .cryptoTagFail (entB o.entry)
    modify (completeEntry r o.n stTag (entB o.entry))

/-- Land one sector of an operation that copies (R491, R495): poisoned for a COPYIN. It is an access to its page like any
other: where the page has gone to the host since, it waits for the flip, and a page that can no longer be written ends the
entry (02 R38, R39; log 27). -/
def landSector (r : Nat) (o : RingOp) (i : Nat) : Act Unit := do
  let s ← get
  match ← portTry (destPlace (effRegion s (s.ring r).region) (entB o.entry + 128 * i)) with
  | .error (_, va) => modify (completeEntry r o.n stFault va)
  | .ok none => modify (completeEntry r o.n stFault (entB o.entry + 128 * i))
  | .ok (some loc) =>
    let s ← get
    let keyed := entKind o.entry = 3
    let o := { o with landed := i :: o.landed, places := o.places.set i loc }
    let s := commitLocal (some (s.ring r).region) (o.sector i) s
    let s := if keyed then { s with m := { s.m with poison := loc / 128 :: s.m.poison.filter (· ≠ loc / 128) } } else s
    set (s.updRing r fun g => { g with ops := g.ops.map fun (x : RingOp) => if x.n = o.n then o else x })
    if o.landed.length = o.places.length then (if keyed then finishCopyIn r o else finishCopy r o) else pure ()

/-- Sector `num` of a running operation of ring `idx`, its entry numbered by `nums`. -/
def landEvent (kind : Nat) (s : State) : Host.Outcome State Fault Refusal :=
  let r := s.ev.idx
  match (s.ring r).ops.find? fun o => o.n = s.ev.nums.headD 0 && o.result.isNone && entKind o.entry = kind with
  | none => .next s
  | some o =>
    event (fun s => decide (s.ev.num < o.places.length) && !o.landed.contains s.ev.num) (whole (landSector r o s.ev.num)) s

/-- Begin to write bytes to an entry's destination (R491). -/
def beginCopy (r n : Nat) (l : List Byte) (data : List Byte) (tagOk : Bool) : Act Unit := do
  let s ← get
  match ← destPlaces (effRegion s (s.ring r).region) (entB l) (entLen l) with
  | .error va => modify (completeEntry r n stFault va)
  | .ok places =>
    let o : RingOp := { n := n, entry := l, data := data, tagOk := tagOk, places := places }
    modify fun s => s.updRing r fun g => { g with ops := g.ops.map fun (x : RingOp) => if x.n = n then o else x }
    if places.isEmpty then (if entKind l = 3 then finishCopyIn r o else finishCopy r o) else pure ()

/-- RING_ENTRY_COPY (R491): the next entry of ring `idx` is a COPY and begins; with `flag`, a sector of one that runs
lands. -/
def execRingEntryCopy (s : State) : Host.Outcome State Fault Refusal :=
  if s.ev.flag then landEvent 2 s
  else
    ringEvent (· = 2) (fun r n l => do
      let s ← get
      beginCopy r n l (hostRead s (entA l) (entLen l)) true) s

/-- RING_ENTRY_COPYIN (R494, R495): as RING_ENTRY_COPY, through the crypto engine. -/
def execRingEntryCopyin (s : State) : Host.Outcome State Fault Refusal :=
  if s.ev.flag then landEvent 3 s
  else
    ringEvent (· = 3) (fun r n l => do
      let s ← get
      let k := SMap.get {} s.hl.keys (entKey l)
      if k.region ≠ (s.ring r).region then modify (completeEntry r n NestErr.denied.num 0)
      else if !k.full then modify (completeEntry r n stBadent 0)
      else if entCtr l ≤ k.last then modify (completeEntry r n stReplay 0)
      else
        let x := gcmOpen (bigBytes 32 k.key.toNat) (bigBytes 4 k.salt.toNat ++ bigBytes 8 (entCtr l)) (part l 0x10 16)
          (hostRead s (entA l) (entLen l)) (hostRead s (entA l + entLen l) 16)
        beginCopy r n l x.1 x.2) s

/-! Identity and attestation (R499, R500). -/

/-- Tree `t` of the fused secret, with a height and a type code. -/
def signTree (h code t : Nat) : SignTree :=
  ⟨h, code, bigBytes 16 (Config.treeId t).toNat, fun q i => bigBytes 32 (Config.oneTimeKey t q i).toNat⟩

/-- The identity tree and the per-boot tree of the boot that read q. -/
def identityTree : SignTree := signTree 15 7 0
def bootTree (q : Nat) : SignTree := signTree 10 6 (q + 1)

/-- The randomizer of the signature that tree `t` makes with leaf `i`. -/
def randomizer (t i : Nat) : List Byte := bigBytes 32 (Config.randomizer t i).toNat

/-- A field of `n` bytes. -/
def fieldBytes (n : Nat) (l : List Byte) : List Byte := (upto 0 n).map fun i => l.getD i 0

/-- A report (R500). -/
def reportBytes (s : State) (request : List Byte) : List Byte :=
  let h := s.hl
  let t := bootTree h.q
  let head := [0x48, 0x4C, 0x41, 0x54] ++ bytesOf 4 1 ++ bytesOf 4 h.q ++ bytesOf 4 h.reports ++ bytesOf 4 h.svn ++
    bytesOf 4 h.tdi.num ++ bytesOf 8 h.facc0.toNat ++ bytesOf 8 h.facc1.toNat ++ bytesOf 8 0 ++ fieldBytes 32 h.digest ++ fieldBytes 32 request ++
    bytesOf 48 0 ++ t.public ++ bytesOf 40 0
  head ++ t.sign h.reports (randomizer (h.q + 1) h.reports) head ++
    identityTree.sign h.q (randomizer 0 h.q) t.public

/-- RING_ENTRY_ATTEST (R500): the next entry of ring `idx` is an ATTEST. -/
def execRingEntryAttest (s : State) : Host.Outcome State Fault Refusal :=
  ringEvent (· = 4) (fun r n l => do
    let s ← get
    let i := s.hl.reports
    if s.hl.q ≥ 32768 || decide (i ≥ 1024) then modify (completeEntry r n stExhausted 0)
    else
      let s := hostWrite (entA l) (reportBytes s (hostRead s (entB l) 32)) s
      set (s.updHl fun h => { h with reports := i + 1 })
      entrySem (s.ring r).region 0 (entSem l)
      modify (completeEntry r n stOk i)) s

/-! The aperture (R486). -/

/-- APERTURE_ACCESS (R486): the host writes `bytes` from aperture byte `num` on or, with none, reads `idx` bytes. `flag`
says that the access came on the bound stream. A read that meets poison brings no bytes (02 R71, R495; log 29). -/
def execApertureAccess (s : State) : Host.Outcome State Fault Refusal :=
  let l := s.ev.bytes
  let n := if l.isEmpty then s.ev.idx else l.length
  let a := s.hl.ap * 2 ^ 32 + s.ev.num
  event (fun s => barAllowed s s.ev.flag && decide (s.ev.num + n ≤ 2 ^ 32)) (do
    let s ← get
    let bad := (upto (a / 128) ((a + n + 127) / 128 - a / 128)).any s.m.poison.contains
    if l.isEmpty then set (s.updHl fun h => { h with answer := if bad then [] else s.m.readN a n })
    else set (commitLocal none (placed a l) s)) s

/-! Boot (R497–R499). -/

/-- The parts of an image (R497). -/
structure Image where
  svn : Nat
  entry : Nat
  itcm : List Byte
  dtcm : List Byte
  signed : List Byte
  key : List Byte
  sig : List Byte

/-- Cut an image into its parts, where its format is right (R497, R498). -/
def imageOf (l : List Byte) : Option Image :=
  let at_ := fun o => ofBytes (part l o 4)
  let ni := at_ 8
  let nd := at_ 12
  let ns := at_ 20
  if part l 0 4 = [0x48, 0x4C, 0x42, 0x46] && ni % 4 = 0 && nd % 4 = 0 && decide (ni ≤ 0x4_0000 ∧ nd ≤ 0x4_0000) &&
      decide (32 + ni + nd + 60 + ns ≤ l.length) then
    some { svn := at_ 4, entry := at_ 16, itcm := part l 32 ni, dtcm := part l (32 + ni) nd
           signed := l.take (32 + ni + nd), key := part l (32 + ni + nd) 60, sig := part l (92 + ni + nd) ns }
  else none

/-- What verification finds: the image, or ERR (R498, R503). -/
def verifyImage (l : List Byte) : Except Nat Image :=
  match imageOf l with
  | none => .error 1
  | some m =>
    if sha256 m.key ≠ Config.rootKeyHash then .error 2
    else if m.svn < Config.minSvn then .error 3
    else if !hssVerify m.key m.sig m.signed then .error 4
    else .ok m

/-- The bytes of the staging window that LEN covers. -/
def stagedImage (s : State) (len : Nat) : List Byte :=
  (upto 0 (Nat.min len 0x10_0000)).map fun a => SMap.get 0 s.hl.staging a

/-- Bytes as a map from offset 0 on. -/
def bytesAt0 (l : List Byte) : SMap Byte := l.zipIdx.map fun e => (e.2, e.1)

/-- A write of HL_BOOT (R497, R498, R499, R503): verification takes no time here (log 28). -/
def writeBoot (v : DWord) (s : State) : State :=
  let len := (bits v 0 21).toNat
  let s := s.updHl fun h => { h with bootLen := len }
  if bits v 63 1 = 0 then s
  else if s.hl.bootState = 3 then s.updHl fun h => { h with bootState := 0, bootErr := 0 }
  else if s.hl.bootState ≠ 0 then s
  else
    match verifyImage (stagedImage s len) with
    | .error e => s.updHl fun h => { h with bootState := 3, bootErr := e, staging := [] }
    | .ok m =>
      let s := { s with
        fuseQ := if s.hl.q < 32768 then s.hl.q + 1 else s.fuseQ
        rv := { on := true, pc := BitVec.ofNat 64 m.entry, itcm := bytesAt0 m.itcm, dtcm := bytesAt0 m.dtcm, cycleAt := s.cycle } }
      signal 0 (s.updHl fun h => { h with bootState := 2, bootErr := 0, svn := m.svn, digest := sha256 m.signed })

/-- BOOT_STAGING_WRITE (R497): the host writes `bytes` at offset `num` of the window. -/
def execBootStagingWrite (s : State) : Host.Outcome State Fault Refusal :=
  let l := s.ev.bytes
  event (fun s => s.hl.bootState = 0 && barAllowed s s.ev.flag && decide (s.ev.num + l.length ≤ 0x10_0000))
    (modify fun s => s.updHl fun h => { h with
      staging := (placed s.ev.num l).foldl (fun m e => SMap.put m e.1 e.2) h.staging }) s

/-- BOOT_GO (R498): HL_BOOT is written with `value`, whose GO is 1. -/
def execBootGo (s : State) : Host.Outcome State Fault Refusal :=
  event (fun s => bits s.ev.value 63 1 = 1 && barAllowed s s.ev.flag) (modify (writeBoot s.ev.value)) s

/-- The device after its state is lost: what is not its own, and the fuses, stay. -/
def afterLoss (s : State) : State :=
  { agenda := s.agenda, drawn := s.drawn, fuseQ := s.fuseQ, m := { remote := s.m.remote }
    hl := { q := s.fuseQ } }

/-- COLD_RESET (R497): the boot ROM waits for an image. -/
def execColdReset (s : State) : Host.Outcome State Fault Refusal := .next (afterLoss s)

/-- POWER_LOSS (R499): everything but the fuses is lost. With `flag`, it comes during a boot whose image has verified,
after the counter has advanced. -/
def execPowerLoss (s : State) : Host.Outcome State Fault Refusal :=
  let booting := s.ev.flag && s.hl.bootState = 0 && decide (s.hl.q < 32768) &&
    (match verifyImage (stagedImage s s.hl.bootLen) with | .ok _ => true | .error _ => false)
  .next { afterLoss { s with fuseQ := if booting then s.hl.q + 1 else s.fuseQ } with off := true }

/-! The thermal trip (R501). -/

/-- The threshold in force (R503). -/
def tripPoint (h : HostLink) : Nat := Nat.max 340 (Nat.min h.trip 500)

/-- Has a sensor read at or above TRIP eight times running (R501)? -/
def overheated (s : State) : Bool := !s.off && s.hl.hot.any fun e => decide (8 ≤ e.2)

/-- The trip: everything stops, THERMTRIP_N is asserted, and all but the link's configuration space and HL_THERM is lost. -/
def tripped (s : State) : State :=
  let h := s.hl
  let t := { afterLoss s with off := true }
  let t := t.updHl fun x => { x with
    link := h.link, atomReq := h.atomReq, temp := h.temp, trip := h.trip, tripped := true, thermtrip := true }
  if h.link = 2 then signal 0 t else t

/-- THERMAL_SENSOR_READING (R501): the sixteen sensors read `nums`; the eighth reading of a sensor that is too hot trips
at once. -/
def execThermalSensorReading (s : State) : Host.Outcome State Fault Refusal :=
  let l := s.ev.nums
  event (fun _ => l.length = 16) (modify fun s =>
    let s := s.updHl fun h =>
      let hot := l.zipIdx.map fun e => (e.2, if tripPoint h ≤ e.1 then SMap.get 0 h.hot e.2 + 1 else 0)
      { h with temp := (l.foldl Nat.max 0) % 2 ^ 16, hot := hot }
    if overheated s then tripped s else s) s

/-- THERMAL_TRIP (R501): a sensor has read at or above TRIP eight times running. -/
def execThermalTrip (s : State) : Host.Outcome State Fault Refusal := event overheated (modify tripped) s

/-! The mailbox and host atomics (R496, 18 R510, R511). -/

/-- A fault of the host on a page of the device marks it flip-pending (02 R39). -/
def hostFault (asid va : Nat) (s : State) : State :=
  let s := keepBlocks asid s
  match walk s.m (effRegion s asid).xroot va with
  | .error _ => s
  | .ok (lv, e, _) =>
    let page := va / 2 ^ pageLog lv * 2 ^ pageLog lv
    if pteH e || s.m.hostFlips.any fun f => f.asid = asid && f.va = page then s
    else { s with m := { s.m with hostFlips := s.m.hostFlips ++ [{ asid := asid, va := page, since := s.cycle }] } }

/-- A write of MB_S2H0 (18 R510). -/
def sendS2h (v : DWord) (s : State) : State :=
  if s.sv.s2hFull then s else signal 17 { s with sv := { s.sv with s2h := SMap.put s.sv.s2h 0 v, s2hFull := true } }

/-- A write of MB_H2S0 (18 R507, R510): HOSTMSG is set where the host writes, and a message of KIND 2 of the host begins
the flip of the page that it names (02 R39; log 61). -/
def sendH2s (host : Bool) (v : DWord) (s : State) : State :=
  if s.sv.h2sFull then s
  else
    let at_ := fun i => SMap.get 0 s.sv.h2s i
    let page := Config.flipMessage (at_ 1) (at_ 2) (at_ 3)
    let s := { s with sv := { s.sv with
      h2s := SMap.put s.sv.h2s 0 v, h2sFull := true, ipend := if host then s.sv.ipend ||| 8 else s.sv.ipend } }
    if host && bits v 0 8 = 2 then hostFault page.1 page.2 s else s

/-- A write of MB_ATOM (18 R511). -/
def writeAtom (v : DWord) (x : Samovar) : Samovar :=
  let claim := bits v 63 1 = 1
  let wdraw := bits v 62 1 = 1
  if !claim && !wdraw then { x with atomSeq := (bits v 0 16).toNat, claim := false, wdraw := false }
  else if claim && wdraw || x.claim || x.wdraw then x
  else if claim then { x with claim := true }
  else { x with wdraw := true }

/-- The samovar posts the oldest request that waits for the fallback, one at a time, once the mailbox is free (R496, 18
R510, R511; logs 40, 61): MB_ATOM takes its SEQ, and a message of KIND 3 carries it. -/
def postAtomic (s : State) : State :=
  match s.hostAtoms.find? (·.fallback) with
  | none => s
  | some a =>
    if !s.rv.on || s.sv.s2hFull || s.hostAtoms.any (·.seq.isSome) then s
    else
      let n := (s.sv.atomSeq + 1) % 2 ^ 16
      sendS2h (BitVec.ofNat 64 (3 + n * 2 ^ 16)) { s with
        drawn := s.drawn + 3
        hostAtoms := s.hostAtoms.map fun (b : HostAtom) => if b = a then { b with seq := some n } else b
        sv := writeAtom (BitVec.ofNat 64 n) { s.sv with
          s2h := (upto 0 3).foldl (fun m i => SMap.put m (i + 1) (Config.freeDWord (s.drawn + i))) s.sv.s2h } }

/-- HOST_ATOMIC_WITHDRAW (R496, 18 R511): the driver has not answered the request of sequencer `sq` of core `core` within
the limit. A request that the driver has claimed counts as answered. -/
def execHostAtomicWithdraw (s : State) : Host.Outcome State Fault Refusal :=
  let c := s.ev.core
  let q := s.ev.sq
  match hostAtomOf s c q with
  | none => .next s
  | some a =>
    event (fun s => a.fallback && decide (a.since + Nat.max s.hl.hatom 1 ≤ s.cycle) && !(a.seq.isSome && s.sv.claim))
      (modify fun s =>
        let s := if a.seq.isSome then { s with sv := writeAtom (BitVec.ofNat 64 (2 ^ 62)) s.sv } else s
        finishHostAtom a (.failed .hostAtomicUnsupported) s) s

/-! DOE (R484, R494). -/

/-- DOE_MAILBOX_MESSAGE (R484, R494): the samovar's firmware installs a key for a copy-in slot; what the other messages
exchange stays between the host and the mailbox. -/
def execDoeMailboxMessage (s : State) : Host.Outcome State Fault Refusal :=
  match s.ev.doe with
  | .copyInKey slot region key salt =>
    event (fun s => s.rv.on && decide (slot < 64)) (modify fun s => s.updHl fun h => { h with
      keys := SMap.put h.keys slot { full := true, key := key, salt := salt, region := region.toNat } }) s
  | .discovery => .next s
  | .spdm => .next s
  | .ideKey => .next s
  | .unsupported => .next s

end Sys2Proof.Machine
end

