-- ==== Sys2Proof/Machine/Save.lean ====
section
/-! DEFINITION. Saving a tile's context and restoring it (06 R191–R193, R197, R198, 07 R231, R232, 08 R262, R263, 09 R283,
R284, 11 R354). -/

namespace Sys2Proof.Machine

/-! The image of a save slot in memory (R197, R198). -/

/-- A block of an image: offset and bytes. -/
abbrev Block := Nat × List Byte

/-- Doublewords. -/
def dwords (l : List Nat) : List Byte := (l.map (bytesOf 8)).flatten

/-- KIND of the header (R198). -/
def SaveKind.num : SaveKind → Nat
  | .boundary => 1 | .yield => 2 | .forced => 3

/-- Stages by number (R198). -/
def Stage.num : Stage → Nat
  | .prologue => 0 | .kernel => 1 | .epilogue => 2 | .complete => 3

/-- A sequencer's doubleword of the header (R198). -/
def seqWord (x : SeqState) : Nat :=
  x.iters % 2 ^ 32 + x.stage.num * 2 ^ 32 + b2n x.edge * 2 ^ 34 + b2n x.abandoned * 2 ^ 35

/-- The header (R198). -/
def headerImage (kind : SaveKind) (t : Tile) (k : Core) : List Block :=
  [(0x000, dwords [kind.num, t.nid + t.reg.id % 2 ^ 12 * 2 ^ 16 + t.ord % 2 ^ 32 * 2 ^ 32, t.ver.id % 2 ^ 32,
     t.start % 2 ^ 48 + b2n t.press.isSome * 2 ^ 48]),
   (0x020, dwords (allSeqs.map fun q => (k.seq q).pc.toNat)),
   (0x040, dwords (allSeqs.map fun q => seqWord (k.seq q))),
   (0x060, dwords [packNums 4 ((upto 0 16).map fun q => (k.queue q).length),
     packBits ((upto 0 16).map fun q => (k.binding q).isSome), rdcFloor k])]

/-- A shape record (07 R207). -/
def shapeBytes (s : Shape) : List Byte :=
  bytesOf 8 s.base ++ bytesOf 4 (s.esz + b2n s.sp * 4 + s.ndim * 16 + b2n s.paden * 64) ++ bytesOf 4 s.pad ++
  ((upto 0 4).map fun i => bytesOf 4 (s.ext.getD i 0)).flatten ++
  ((upto 0 4).map fun i => bytesOf 4 (wrapInt 32 (s.stride.getD i 0))).flatten ++
  ((upto 0 4).map fun i => bytesOf 2 (s.box.getD i 0)).flatten ++ bytesOf 8 0

/-- Origins as doublewords. -/
def originBytes (l : List Int) : List Byte := dwords ((upto 0 4).map fun i => wrapInt 64 (l.getD i 0))

/-- KIND of a binding (07 R231, 08 R262). -/
def BindKind.num : BindKind → Nat
  | .once => 1 | .cyc => 2 | .list => 3

/-- A binding's record (07 R231, 08 R262). -/
def bindImage (b : Binding) (w0 w1 : Nat) : List Byte :=
  shapeBytes b.shape ++ originBytes b.org ++ bytesOf 4 w0 ++ bytesOf 4 w1 ++
  bytesOf 8 (b.kind.num + b.g * 2 ^ 8 + b2n b.held.isSome * 2 ^ 16) ++
  bytesOf 8 (b.listOff % 2 ^ 32 + b.listCnt % 2 ^ 32 * 2 ^ 32) ++ bytesOf 8 0

/-- KIND of a direct operation (07 R232, 08 R263). -/
def DirectKind.num : DirectKind → Nat
  | .ldq => 1 | .ldt => 2 | .mfill => 3 | .stq => 1 | .stt => 2 | .atomv => 3 | .mwb => 4

/-- The first data-buffer entry of ST's operation `i`, or 0xFF (08 R263). -/
def firstData (l : List DirectOp) (i : Nat) : Nat :=
  match l[i]? with
  | some o => if o.data.isEmpty then 0xFF else ((l.take i).map fun p => p.data.length).sum
  | none => 0xFF

/-- The base of an ATOMV, as its first doubleword of four. -/
def atomvBase (o : DirectOp) : List Byte := bytesOf 8 (wrapInt 64 (o.org.getD 0 0)) ++ bytesOf 24 0

/-- A direct operation's record (07 R232, 08 R263): `x` fills the bits above the d field, `y` the second doubleword. -/
def directImage (o : DirectOp) (x y : Nat) : List Byte :=
  bytesOf 8 (o.kind.num + o.d * 2 ^ 8 + x * 2 ^ 16 + o.done % 2 ^ 32 * 2 ^ 32) ++ bytesOf 8 y ++ bytesOf 8 o.addr ++
  (if o.kind = .atomv then atomvBase o else originBytes o.org) ++ bytesOf 8 0 ++ shapeBytes o.shape

/-- OP of an operation of ST's direct queue (04 R106). -/
def directOp (k : DirectKind) : Nat :=
  match k with
  | .stq => 16 | .stt => 18 | .atomv => 19 | .mwb => 21 | _ => 0

/-- The instruction word of an ST operation (04 R95, 08 R263). -/
def directWord (o : DirectOp) : Nat :=
  directOp o.kind * 2 ^ 26 + o.guard.toNat * 2 ^ 20 + o.d * 2 ^ 14 + o.a * 2 ^ 8 + o.f8.toNat

/-- LD's and ST's parts (07 R231, 08 R262). ISSUED of a stream that has read all of its entries is 0 (log 38). -/
def streamImage (k : Core) : List Block :=
  ((upto 0 8).flatMap fun q => match SMap.find k.lds.binds q with
    | some b => [(0x1_C000 + 128 * q, bindImage b (b.issued % b.walk.entries) b.deliv)]
    | none => []) ++
  (k.lds.direct.zipIdx.map fun e => (0x1_C400 + 128 * e.2, directImage e.1 0 e.1.ext.toNat)) ++
  [(0x1_C800, bytesOf 8 (aqWord k.lds.aq))] ++
  ((upto 0 8).flatMap fun i => match SMap.find k.sts.binds (i + 8) with
    | some b => [(0x1_E000 + 128 * i, bindImage b b.deliv 0)]
    | none => []) ++
  (k.sts.direct.zipIdx.map fun e =>
    (0x1_E400 + 128 * e.2, directImage e.1 (firstData k.sts.direct e.2) (directWord e.1 + e.1.ext.toNat * 2 ^ 32))) ++
  [(0x1_E800, bytesOf 8 (aqWord k.sts.aq)), (0x1_F000, (k.sts.direct.flatMap fun o => o.data).flatten)]

/-- Copies of the four slots (09 R283, R284). -/
def copiesImage (l : List (Option SlotCopy)) : List Byte :=
  (l.map fun x => bytesOf 16 ((x.map fun y => y.t.toNat).getD 0)).flatten

/-- CMP's part (09 R283, R284). -/
def computeImage (k : Core) : List Block :=
  [(0x2000, dwords [cmpStat k, k.comp.lbAddr, if k.comp.lb = .armed then k.comp.lbNext else 0]), (0x2040, copiesImage k.comp.held)] ++
  (k.comp.captured.zipIdx.map fun e =>
    (0x2400 + 96 * e.2, bytesOf 4 (wrHdr e.1.slots e.1.hdr).toNat ++ bytesOf 4 0 ++ bytesOf 8 e.1.addr ++
      copiesImage e.1.copies ++ bytesOf 16 0))

/-- TOP of an MMA by M and k (04 R108). -/
def mmaTop (m steps : Nat) : Nat :=
  0x20 + 4 * (if m = 8 then 0 else if m = 16 then 1 else if m = 32 then 2 else 3) +
    (if steps = 1 then 0 else if steps = 2 then 1 else if steps = 4 then 2 else 3)

/-- An MMA's issued copy. -/
def mmaBytes (x : Option MmaRun) : List Byte :=
  match x with
  | some m => bytesOf 16 (wrMTmpl (mmaTop m.m m.steps) m.copy).toNat
  | none => bytesOf 16 0

/-- 768 scale bytes, 0x7F where the plane holds none (11 R324). -/
def scaleBytes (p : Plane) : List Byte := if p.scales.isEmpty then List.replicate 768 0x7F else p.scales

/-- The MMA in progress, and the one that a save keeps unstarted (11 R354). -/
def Matrix.running (x : Matrix) : Option MmaRun := x.mmas.find? fun m => x.parked ≠ some m.id
def Matrix.waiting (x : Matrix) : Option MmaRun := x.mmas.find? fun m => x.parked = some m.id

/-- The issued copy of what waits at the compute port (11 R325, R354). -/
def waitingCopy (k : Core) : List Byte :=
  match k.mx.waiting with
  | some m => mmaBytes (some m)
  | none =>
    let o : Option EngOp := k.ops.find? fun o => o.compute
    bytesOf 16 ((o.map fun (x : EngOp) => x.copy).getD 0).toNat

/-- The mask copies of an MMA. -/
def maskBytes (x : Option MmaRun) : List Byte :=
  match x with
  | some m => m.am0 ++ m.am1
  | none => bytesOf 1024 0

/-- A plane's bytes. -/
def planeImage (p : Plane) : List Byte := p.bytes ++ bytesOf (planeBytes - p.bytes.length) 0

/-- The engine's part (11 R354). -/
def matrixImage (k : Core) : List Block :=
  let run := k.mx.running
  [(0x1_4000, k.amTile 0 ++ k.amTile 1), (0x1_5000, planeImage k.mx.active), (0x1_8000, planeImage k.mx.shadow),
   (0x1_B000, scaleBytes k.mx.active), (0x1_B300, scaleBytes k.mx.shadow),
   (0x1_B600, dwords [mxStat k, k.mx.slice]), (0x1_B610, mmaBytes run),
   (0x1_B620, dwords [(run.map (·.done)).getD 0, k.mx.ksteps + k.mx.waitclk * 2 ^ 32]),
   (0x1_B630, waitingCopy k),
   (0x1_B640, match k.mx.load with
     | x :: _ => bytesOf 16 (wrMTmpl 2 x.copy).toNat
     | [] => bytesOf 16 0),
   (0x1_B680, maskBytes run), (0x1_BA80, maskBytes k.mx.waiting)] ++
  (k.mx.acc.map fun e => (0x2_0000 + 512 * e.1, (e.2.map fun w => bytesOf 4 w.toNat).flatten))

/-- The scalar, predicate, token and object registers, windows, templates, vector and queue registers (R197). -/
def registerImage (k : Core) : List Block :=
  [(0x0200, dwords ((upto 0 64).map fun i => (k.sreg i).toNat)),
   (0x0400, dwords ((upto 0 16).map fun i => (k.nreg .ld i).toNat)), (0x0480, dwords ((upto 0 16).map fun i => (k.nreg .st i).toNat)),
   (0x0500, ((upto 0 16).map fun i => bytesOf 4 (k.hreg i).toNat).flatten),
   (0x0540, bytesOf 8 (k.p ||| 1).toNat), (0x0548, (upto 0 12).map fun i => BitVec.ofNat 8 (SMap.get 0 k.tk i)),
   (0x0560, dwords [k.flags.toNat, k.vuA + k.vuB * 2 ^ 32, k.vuF]),
   (0x0580, ((upto 0 8).map fun i => bytesOf 16 (k.kreg i).toNat).flatten),
   (0x0600, dwords ((upto 0 8).map fun i => (SMap.get 0 k.arv i).toNat)),
   (0x0640, dwords ((upto 0 32).map fun i => (SMap.get 0 k.sem i).toNat)),
   (0x0740, dwords ([trapCause k.trap, k.trap.pc.toNat, k.trap.va.toNat, k.trap.ret.toNat, trapStatus k.trap] ++
     (upto 0 4).map fun i => (SMap.get 0 k.trap.scr i).toNat)),
   (0x0800, ((upto 0 32).map fun i => bytesOf 16 (((SMap.find k.windows i).map fun w => w.desc.toNat).getD 0)).flatten)] ++
  (k.chunks.map fun e => (0x1000 + 8 * e.1, bytesOf 8 ((match e.2.run with | .unfilled => 0 | .filling => 1 | .valid => 2) +
    e.2.dirty.toNat * 4))) ++
  (k.comp.tmpl.map fun e => (0x4000 + 16 * e.1, bytesOf 16 e.2.toNat)) ++
  (k.v.map fun e => (0x8000 + 512 * e.1, e.2)) ++
  (k.q.flatMap fun e => e.2.zipIdx.map fun x => (0xC000 + 2048 * e.1 + 512 * x.2, x.1.data.getD []))

/-- The whole image (R197), with the scratchpad offsets that the slot keeps. -/
def saveImage (kind : SaveKind) (t : Tile) (k : Core) (sp : List Nat) : List Block :=
  (0, bytesOf 0x4_0000 0) :: headerImage kind t k ++ registerImage k ++ computeImage k ++ streamImage k ++ matrixImage k ++
  (sp.map fun a => (0x4_0000 + a, [k.spByte a]))

/-- Write an image at a physical address, for a region (02 R57, R71). -/
def writeImage (region a : Nat) (l : List Block) : State → State :=
  writeUnstamped (some region) (l.flatMap fun b => placed (a + b.1) b.2)

/-! The scratchpad in a save (R192). -/

/-- The offsets that a slot keeps of a tile's scratchpad: those of the chunks kept, but for a port's ring (16 R471). -/
def keptOffsets (s : State) (c : Nat) (t : Tile) (chunks : List Nat) : List Nat :=
  (upto 0 t.reg.spTile).filter fun a => chunks.contains (a / 4096) && !(ringByte s c a && portAllows s c t.reg.id)

/-- Write back a LIVE window, its chunks returning to unfilled; where that faults or would pass VER_BYTES it is kept whole
(R192): the chunks that the slot keeps. A page that the host owns is waited for (02 R38). -/
def yieldWindow (c : Nat) (w : Window) : Act (List Nat) := do
  let d := w.desc
  let chunks := upto (winSoff d) (winLen d)
  if !winLive d then return []
  else if winMode d = modeLocal || winMode d = modeMq then return chunks
  else
    match ← portTry (writeBackChunks c d chunks) with
    | .ok _ =>
      modCoreAt c fun k => chunks.foldl (fun k n => k.updChunk n fun _ => {}) k
      return []
    | .error _ => return chunks

/-! Save (R191). -/

/-- Has what LD and ST have started landed or been held (07 R231, 08 R262)? -/
def streamsDrained (k : Core) : Bool :=
  (k.lds.binds.all fun b => b.2.reading.isEmpty && (!b.2.started || b.2.held.isSome)) &&
  (k.sts.binds.all fun b => !writingEntry b.2) &&
  ([Seq.ld, .st].all fun q => (k.directHead q).all fun o => o.held.isSome || !o.begun)

/-- Has the core drained (R191): loads landed, operations completed, tokens delivered, copies and atomics done? A matrix
multiplication keeps its remaining steps; what waits at the compute port, and an MLS whose shadow plane is not empty,
stay unstarted (R190, 11 R331, R354). -/
def drained (s : State) (c : Nat) : Bool :=
  let k := s.coreOf c
  !copiesPending s c && (k.ops.all fun o => k.mx.parked = some o.id) &&
  (k.mx.load.all fun x => !x.started && k.mx.shadowRun = .full) && (k.comp.pushes.all fun p => !bundleDone k p.bundle) && streamsDrained k &&
  (k.chunks.all fun e => e.2.run ≠ .filling) && (k.windows.all fun w => w.2.mq.msgs.isEmpty) &&
  (allSeqs.all fun q => match (k.seq q).remote with | some (.waiting _) => false | _ => true) &&
  ((s.clusterAt (clusterOf c)).fi.disps.all fun d => d.core ≠ c)

/-- The lowest free slot of a pool: the one that a save takes (log 59). -/
def freeSave (s : State) (r : Region) : Option Nat :=
  (upto 0 r.saveSlots).find? fun i => !(slotsTaken s r.saveBase).contains i

/-- Write the context of core `c` into a slot and empty the core (R191, R192). A save that is cut off before counts nowhere
(R195, R205; log 59). -/
def saveTile (c : Nat) (kind : SaveKind) (slot : Nat) : Act Unit := do
  let s ← get
  let t ← tileOf c
  let k := s.coreOf c
  let kept ← if kind = .forced then pure (upto 0 ((t.reg.spTile + 4095) / 4096))
    else do
      let l ← collect k.windows fun e => yieldWindow c e.2
      pure l.flatten
  let s ← get
  let t := (s.coreOf c).tile.getD t
  let s := writeImage t.reg.id (saveSlotAt t.reg slot) (saveImage kind t (s.coreOf c) (keptOffsets s c t kept)) s
  let k := s.coreOf c
  let t := k.tile.getD t
  let t' := { t with lastIssue := s.cycle - t.lastIssue, saving := none, yieldReq := none }
  let x : Saved := { kind := kind, base := t.reg.saveBase, slot := slot, nid := t.nid, ord := t.ord, home := c
                     core := { k with tile := some t', sp := [], shapeCache := [] }, press := t.press, kept := kept }
  let s := { s with
    ns := { s.ns with
      saved := s.ns.saved ++ [x]
      forced := if kind = SaveKind.forced then (s.ns.forced + 1) % 2 ^ 32 else s.ns.forced
      coop := if kind = SaveKind.forced then s.ns.coop else (s.ns.coop + 1) % 2 ^ 32 } }
  set (watchRing c (s.updCore c emptyCore))

/-- SAVE_COMPLETE (R191): the save begun on core `core` is written and the core becomes idle. -/
def execSaveComplete (s : State) : Host.Outcome State Fault Refusal :=
  let c := s.ev.core
  match (s.coreOf c).tile with
  | none => .next s
  | some t =>
    match t.saving, freeSave s t.reg with
    | some (kind, _), some i => event (fun s => drained s c) (do
        match ← attempt (saveTile c kind i) with
        | .ok _ => pure ()
        | .error (.held asid page _) => modify (requestFlip asid page)
        | .error e => throw e) s
    | _, _ => .next s

end Sys2Proof.Machine
end

