-- ==== Sys2Proof/Machine/SeqEngine.lean ====
section
/-! DEFINITION. The sequence engine: contexts, the page pool, frames and truncation, snapshots, speculation and commits
(15 R439–R462). -/

namespace Sys2Proof.Machine

/-! Failure codes (R447). -/
def sqNone : Nat := 1
def sqDenied : Nat := 2
def sqFull : Nat := 3
def sqNoPage : Nat := 4
def sqBadRec : Nat := 5
def sqState : Nat := 6
def sqRange : Nat := 7
def sqStale : Nat := 8
def sqFault : Nat := 9

/-! How the engine touches memory (R445). -/

/-- Scratchpad operands of a command; none of them are read where there are none. -/
def sqOperand (c off n : Nat) : Act (List Byte) := if n = 0 then pure [] else spLoad c off n

/-- The account of a context's accesses. -/
def sqCtx (s : State) (region : Nat) : Ctx := (effRegion s region).ctx none

/-- The locations of `n` bytes: every page must be owned by the device and homed here (R445). -/
def sqLocs (region : Nat) (acc : Acc) (va n : Nat) : Act (List Nat) := do
  let s ← get
  let first := Nat.min n (0x1_0000 - va % 0x1_0000)
  let one := fun a k => do
    match ← attempt (translate (sqCtx s region) acc a) with
    | .ok loc => if isLocal loc then return upto loc k else trap .xlatePermission a
    | .error (.held _ _ _) => trap .hostOwned a
    | .error e => throw e
  if n = 0 then return []
  else
    let a ← one va first
    let l ← collect (upto 0 ((n - first + 0xFFFF) / 0x1_0000)) fun i =>
      one (va + first + i * 0x1_0000) (Nat.min 0x1_0000 (n - first - i * 0x1_0000))
    return a ++ l.flatten

/-- Read committed bytes; poison is a fault of what is not a copy (log 31). -/
def sqRead (region va n : Nat) : Act (List Byte) := do
  let l ← sqLocs region .read va n
  let s ← get
  if l.any fun a => s.m.poison.contains (a / 128) then trap .poisonConsumed va else return l.map s.m.byte

/-- A committed number. -/
def sqNat (region va n : Nat) : Act Nat := do
  let l ← sqRead region va n
  return ofBytes l

/-- Write committed bytes with a stamp. -/
def sqWrite (region va : Nat) (b : List Byte) : Act Unit := do
  let l ← sqLocs region .write va b.length
  modify (commitLocal (some region) (l.zip b))

/-- Copy bytes; poisoned ones stay poisoned (02 R71). -/
def sqCopy (region src dst n : Nat) : Act Unit := do
  let a ← sqLocs region .read src n
  let b ← sqLocs region .write dst n
  let s ← get
  let bad := (((a.zip b).filter fun e => s.m.poison.contains (e.1 / 128)).map fun e => e.2 / 128).eraseDups
  let s := commitLocal (some region) (b.zip (a.map s.m.byte)) s
  set { s with m := { s.m with poison := bad ++ s.m.poison.filter fun p => !bad.contains p } }

/-! Contexts. -/

/-- A context by slot. -/
def State.ctxAt (s : State) (i : Nat) : SqCtx := SMap.get {} s.eng.ctxs i

/-- Replace a context. -/
def State.setCtx (s : State) (i : Nat) (c : SqCtx) : State := { s with eng := { s.eng with ctxs := SMap.put s.eng.ctxs i c } }

/-- Slots of open contexts. -/
def openCtxs (s : State) : List Nat := (s.eng.ctxs.filter fun e => e.2.isOpen).map (·.1)

/-- The slot of a handle's open context (R439). -/
def ctxOf (s : State) (handle : Nat) : Option Nat :=
  let i := nbits handle 0 10
  let c := s.ctxAt i
  if c.isOpen && c.inc = nbits handle 10 6 then some i else none

/-! The page pool (R441, R442). -/

/-- BASE of the full-attention layers, ascending. -/
def SqCtx.full (c : SqCtx) : List Nat := (c.layers.filter fun l => !l.2).map (·.1)

/-- Allocate page number `q` of a layer whose page table stands at `base`. -/
def allocPage (c : SqCtx) (q base : Nat) : Act Unit := do
  let old ← sqNat c.region (base + 8 * q) 8
  if old ≠ 0 then pure ()
  else
    let n ← sqNat c.region c.pool 4
    let a ← sqRead c.region (c.pool + 0x10 + 8 * (n - 1)) 8
    sqWrite c.region c.pool (bytesOf 4 (n - 1))
    sqWrite c.region (base + 8 * q) a

/-- Pages that allocating these page numbers surely takes from the pool: those whose entries can be read and are 0. -/
def pagesNeeded (c : SqCtx) (qs : List Nat) : Act Nat := do
  let l ← collect (qs.flatMap fun q => c.full.map fun b => (q, b)) fun e => attemptUndo (sqNat c.region (e.2 + 8 * e.1) 8)
  return (l.filter fun r => match r with
    | .ok n => n = 0
    | .error _ => false).length

/-- Does the pool surely lack pages for these page numbers (R442)? Where a page it reads fails, the command itself finds
the first failing one in the order in which it touches them (R445, R447). -/
def poolShort (c : SqCtx) (qs : List Nat) : Act Bool := do
  let need ← pagesNeeded c qs
  match ← attemptUndo (sqNat c.region c.pool 4) with
  | .ok free => return decide (free < need)
  | .error _ => return false

/-- Push a page into the pool. One that did not come from it may find no room: an entry of the pool is then left open, and
nothing beyond CAP is written (R441; log 45). -/
def pushPage (c : SqCtx) (a : List Byte) : Act Unit := do
  let n ← sqNat c.region c.pool 4
  if n < c.cap then
    sqWrite c.region (c.pool + 0x10 + 8 * n) a
    sqWrite c.region c.pool (bytesOf 4 (n + 1))
  else if c.cap = 0 then pure ()
  else
    let x ← drawDWord
    sqWrite c.region (c.pool + 0x10 + 8 * (c.cap - 1)) (bytesOf 8 x.toNat)

/-- Free page number `q` of a layer. -/
def freePage (c : SqCtx) (q base : Nat) : Act Unit := do
  let a ← sqRead c.region (base + 8 * q) 8
  pushPage c a
  sqWrite c.region (base + 8 * q) (bytesOf 8 0)

/-- Free the allocated page numbers from `from_` on, ascending (R442). -/
def freePages (c : SqCtx) (from_ : Nat) : Act SqCtx := do
  let gone := (c.pages.map (·.1)).filter fun q => decide (from_ ≤ q)
  each gone fun q => each c.full fun b => freePage c q b
  return { c with pages := c.pages.filter fun e => decide (e.1 < from_) }

/-- Where the KV bytes of position `p` of a layer lie (R441). -/
def kvAddr (c : SqCtx) (l : Nat × Bool) (p : Nat) : Act Nat := do
  if l.2 then return l.1 + p % (c.w + c.m) * c.kvb
  else
    let a ← sqNat c.region (l.1 + 8 * (p / 64)) 8
    return a + p % 64 * c.kvb

/-! How a command ends (R447). -/

/-- Write a command's result and predicate and go on. -/
def sqResult (o : Cmd) (p : Nat) (r : Except Nat Nat) (b : Bool) : Act Unit := do
  modify fun s => { s with eng := { s.eng with commands := (s.eng.commands + 1) % 2 ^ 32 } }
  modCore fun k => (k.setS o.d.toNat (match r with
    | .ok v => BitVec.ofNat 64 v
    | .error n => 0 - BitVec.ofNat 64 n)).setP p (match r with
    | .ok _ => b
    | .error _ => false)
  advance .ctl 8

/-- Run a command's effect as a whole: a fault of an access leaves the context unchanged and is posted (R445). -/
def sqRun (o : Cmd) (p region : Nat) (a : Act (Except Nat (Nat × Bool))) : Act Unit := do
  match ← attemptUndo a with
  | .ok (.ok (v, b)) => sqResult o p (.ok v) b
  | .ok (.error n) => sqResult o p (.error n) false
  | .error (.trap code va) =>
    if code = .lateFrame || code = .windowMargin then trap code
    else
      postEvent region code va
      sqResult o p (.error sqFault) false
  | .error e => throw e

/-- The context that a command's handle names, and its failures (R439, R447). -/
def namedCtx (s : State) (t : Tile) (handle : Nat) : Except Nat Nat :=
  match ctxOf s handle with
  | none => .error sqNone
  | some i => if (effRegion s (s.ctxAt i).region).chain.contains t.reg.id then .ok i else .error sqDenied

/-- A command on an open context: `a` answers Sd and the predicate, or a failure. -/
def onCtx (o : Cmd) (p : Nat) (a : Nat → SqCtx → Act (Except Nat (Nat × Bool))) : Act Unit := do
  let s ← get
  let k ← thisCore
  let t ← tileOf s.core
  match namedCtx s t (k.sreg o.a.toNat).toNat with
  | .error n => sqResult o p (.error n) false
  | .ok i => sqRun o p (s.ctxAt i).region (a i (s.ctxAt i))

/-- Bits above the handle are reserved (R446). -/
def handleReserved (k : Core) (o : Cmd) : Bool := bits (k.sreg o.a.toNat) 16 48 ≠ 0

/-! Opening and closing (R449). -/

/-- A context from its record (R440). -/
def ctxRec (l : List Byte) : SqCtx :=
  let at_ := fun o n => ofBytes ((l.drop o).take n)
  { maxpos := at_ 0 4, nlayer := at_ 4 2, nsnap := at_ 6 2, kvb := at_ 8 4, rsb := at_ 0xC 4, w := nbits (at_ 0x10 4) 0 20
    m := at_ 0x14 1, tokens := at_ 0x20 8, pool := at_ 0x30 8, snaps := at_ 0x38 8, stags := at_ 0x40 8, live := at_ 0x48 8
    init := at_ 0x50 8, tree := at_ 0x58 8 }

/-- Are a record's fields legal (R440)? -/
def ctxLegal (l : List Byte) : Bool :=
  let at_ := fun o n => ofBytes ((l.drop o).take n)
  let c := ctxRec l
  c.maxpos % 64 = 0 && decide (64 ≤ c.maxpos ∧ c.maxpos ≤ 0xFF_FFC0) && decide (1 ≤ c.nlayer ∧ c.nlayer ≤ 256) &&
  decide (c.nsnap ≤ 4096) && c.kvb % 64 = 0 && decide (64 ≤ c.kvb ∧ c.kvb ≤ 65536) && c.rsb % 256 = 0 &&
  decide (c.rsb ≤ 2 ^ 24) && decide ((c.rsb = 0) = (c.nsnap = 0)) && nbits (at_ 0x10 4) 20 12 = 0 &&
  (if c.w = 0 then c.m = 0 else decide (1 ≤ c.m ∧ c.m ≤ 64)) && at_ 0x15 11 = 0 && at_ 0x60 160 = 0 &&
  c.tokens % 256 = 0 && at_ 0x28 8 % 16 = 0 && c.pool % 256 = 0 && c.snaps % 256 = 0 && c.stags % 8 = 0 &&
  c.live % 256 = 0 && c.init % 256 = 0 && c.tree % 256 = 0

/-- A layer descriptor, where it is legal (R441). -/
def layerDesc (w : Nat) (l : List Byte) : Option (Nat × Bool) :=
  let base := ofBytes (l.take 8)
  let x := ofBytes (l.drop 8)
  let win := nbits x 0 1 = 1
  if nbits x 1 63 ≠ 0 || (win && w = 0) || base % (if win then 256 else 8) ≠ 0 then none else some (base, win)

/-- The next incarnation of a slot (R439). -/
def nextCtxInc (n : Nat) : Nat := if n ≥ 63 then 1 else n + 1

/-- What SQOPEN does with a record's bytes (R449). BADREC is reported before FAULT (R447). -/
def openCtx (region : Nat) (b : List Byte) : Act (Except Nat (Nat × Bool)) := do
  let s ← get
  match (upto 0 1024).find? fun i => !(s.ctxAt i).isOpen with
  | none => return .error sqFull
  | some i =>
    if !ctxLegal b then return .error sqBadRec
    else
      let c := ctxRec b
      let descs := ofBytes ((b.drop 0x28).take 8)
      let l ← collect (upto 0 c.nlayer) fun j => attemptUndo (sqRead region (descs + 16 * j) 16)
      let h ← attemptUndo (sqRead region c.pool 16)
      let illegal := l.any fun x => match x with
        | .ok d => (layerDesc c.w d).isNone
        | .error _ => false
      let tooMany := (h.toOption.map fun x => decide (ofBytes (x.take 4) > ofBytes ((x.drop 4).take 4))).getD false
      if illegal || tooMany then return .error sqBadRec
      else
        let ds ← collect l MonadExcept.ofExcept
        let head ← MonadExcept.ofExcept h
        sqWrite region c.stags (bytesOf (8 * c.nsnap) 0)
        let inc := nextCtxInc (s.ctxAt i).inc
        modify fun s => s.setCtx i { c with
          isOpen := true, inc := inc, region := region, layers := ds.filterMap (layerDesc c.w), cap := ofBytes ((head.drop 4).take 4) }
        return .ok (inc * 2 ^ 10 + i, true)

/-- SQOPEN (R449). -/
def execSqopen (o : Cmd) (s : State) : Host.Outcome State Fault Refusal :=
  plain .ctl (.sqopen o) (do
    let s ← get
    let k ← thisCore
    let t ← tileOf s.core
    let a := (k.sreg o.a.toNat).toNat
    trapIf (a % 256 ≠ 0) .align a
    let b ← loadRange s.core a 256
    sqRun o 0 t.reg.id (openCtx t.reg.id b)) s

/-- SQOPEN.CLOSE (R449). -/
def execSqopenClose (o : Cmd) (s : State) : Host.Outcome State Fault Refusal :=
  plain .ctl (.sqopenClose o) (do
    let k ← thisCore
    trapIf (handleReserved k o) .reservedField
    onCtx o 0 fun i c => do
      let _ ← freePages c 0
      modify fun s => s.setCtx i { inc := c.inc }
      return .ok (0, true)) s

/-! Cursors (R450). -/

/-- Reserved bits of the operands of SQCUR. -/
def curReserved (k : Core) (o : Cmd) : Bool := handleReserved k o || bits (k.sreg (o.a.toNat + 1)) 24 40 ≠ 0

/-- The position that an operand holds. -/
def curPos (k : Core) (o : Cmd) : Nat := (bits (k.sreg (o.a.toNat + 1)) 0 24).toNat

/-- The items of SQCUR.READ (R450). -/
def curItem (c : SqCtx) (item : Nat) : Nat :=
  match item with
  | 0 => c.g
  | 1 => c.s
  | 2 => c.p
  | 3 => c.kvend
  | 4 => c.gen + (if c.g < c.s then 2 ^ 32 else 0)
  | 5 => c.wbase
  | _ => c.hw

/-- SQCUR.READ (R450). -/
def execSqcurRead (o : Cmd) (s : State) : Host.Outcome State Fault Refusal :=
  plain .ctl (.sqcurRead o) (do
    let k ← thisCore
    trapIf (curReserved k o) .reservedField
    onCtx o 0 fun _ c => return .ok (curItem c (bits o.imm 0 3).toNat, true)) s

/-- SQCUR.PLAY (R450). -/
def execSqcurPlay (o : Cmd) (s : State) : Host.Outcome State Fault Refusal :=
  plain .ctl (.sqcurPlay o) (do
    let k ← thisCore
    trapIf (curReserved k o) .reservedField
    let x := curPos k o
    onCtx o 0 fun i c => do
      if x < c.p ∨ c.g < x then return .error sqRange
      else
        modify fun s => s.setCtx i { c with p := x }
        return .ok (x, true)) s

/-- SQCUR.KV (R450). -/
def execSqcurKv (o : Cmd) (s : State) : Host.Outcome State Fault Refusal :=
  plain .ctl (.sqcurKv o) (do
    let k ← thisCore
    trapIf (curReserved k o) .reservedField
    let x := curPos k o
    onCtx o 0 fun i c => do
      if x < c.kvend ∨ c.g < x then return .error sqRange
      else
        modify fun s => s.setCtx i { c with kvend := x }
        return .ok (x, true)) s

/-- SQ_CPLAY_WRITE (R462, R463): a write of SQ_CPLAY with `value` moves the playback cursor of the context shown. -/
def playWrite (v : DWord) (s : State) : State :=
  let c := s.ctxAt s.eng.sel
  let x := (bits v 0 24).toNat
  if c.isOpen && decide (c.p ≤ x ∧ x ≤ c.g) then s.setCtx s.eng.sel { c with p := x } else s

def execSqCplayWrite (s : State) : Host.Outcome State Fault Refusal := .next (playWrite s.ev.value s)

/-! Frames and truncation (R451, R452). -/

/-- The lowest position whose window-ring slot has not been reused (R443). -/
def SqCtx.wlo (c : SqCtx) : Nat := c.hw - c.w - c.m

/-- How far a cut to `a` goes back (R451). -/
def SqCtx.cutTo (c : SqCtx) (a : Nat) : Nat :=
  if 0 < c.w ∧ (a : Int) - c.w < c.wlo then a - c.w else a

/-- The greatest position up to `t` with a recurrent state, and its ring entry where it is a snapshot (R451, R455). -/
def SqCtx.bestSnap (c : SqCtx) (t : Nat) : Nat × Option Nat :=
  c.tags.foldl (fun b e => if e.2 ≤ t ∧ b.1 < e.2 then (e.2, some e.1) else b) (0, none)

/-- Cut a context back to `a` below G (R451). -/
def cutBack (c : SqCtx) (a : Nat) : Act SqCtx := do
  let t := c.cutTo a
  let best := c.bestSnap t
  let s := if c.rsb = 0 then t else best.1
  if c.rsb = 0 then pure ()
  else
    sqCopy c.region (match best.2 with
      | some i => c.snaps + i * c.rsb
      | none => c.init) c.live c.rsb
  let gone := c.tags.filter fun e => decide (e.2 > a)
  each gone fun e => sqWrite c.region (c.stags + 8 * e.1) (bytesOf 8 e.2)
  return { c with tags := c.tags.filter fun e => decide (e.2 ≤ a), kvend := Nat.min c.kvend s, g := a }

/-- Apply a frame at anchor `a` with token bytes (R451): the checks have passed. -/
def applyFrame (c : SqCtx) (a : Nat) (toks : List Byte) : Act SqCtx := do
  let c := { c with s := c.g, parents := [] }
  let c ← if a < c.g then cutBack c a else pure c
  sqWrite c.region (c.tokens + 4 * c.g) toks
  let g := c.g + toks.length / 4
  let c := { c with g := g, s := g, hw := Nat.max c.hw g, wbase := g - c.w }
  let c ← freePages c ((g + 63) / 64)
  return { c with gen := (c.gen + 1) % 2 ^ 24 }

/-- KVEND and GEN as a frame answers them. -/
def SqCtx.frameWord (c : SqCtx) : Nat := c.kvend + c.gen * 2 ^ 32

/-- Keep a context after a frame or truncation and count it (R463). -/
def countFrame (i : Nat) (c : SqCtx) (late : Bool) (s : State) : State :=
  let s := s.setCtx i c
  { s with eng := { s.eng with
      frames := (s.eng.frames + 1) % 2 ^ 32, late := if late then (s.eng.late + 1) % 2 ^ 16 else s.eng.late } }

/-- SQFRAME (R451). -/
def execSqframe (o : Cmd) (s : State) : Host.Outcome State Fault Refusal :=
  plain .ctl (.sqframe o) (do
    let s ← get
    let k ← thisCore
    let t ← tileOf s.core
    let x := k.sreg (o.a.toNat + 1)
    let y := k.sreg (o.a.toNat + 2)
    let n := (bits x 32 13).toNat
    let off := (bits y 0 21).toNat
    trapLowest [(handleReserved k o || bits x 24 8 ≠ 0 || bits x 45 19 ≠ 0 || bits y 21 43 ≠ 0, .reservedField, 0),
      (off % 4 ≠ 0, .align, off), (outsideSp t off (4 * n), .scratchRange, off)]
    let toks ← sqOperand s.core off (4 * n)
    onCtx o (bits o.f8 0 5).toNat fun i c => do
      let s ← get
      let a := (bits x 0 24).toNat
      let late := decide (a < c.p)
      if late && (effRegion s c.region).late then trap .lateFrame
      else
        let a := if late then c.p else a
        if n > 4096 ∨ Nat.min a c.g + n > c.maxpos then return .error sqRange
        else
          let c ← applyFrame c a toks
          modify (countFrame i c late)
          return .ok (c.frameWord, late)) s

/-- SQTRUNC (R452). -/
def execSqtrunc (o : Cmd) (s : State) : Host.Outcome State Fault Refusal :=
  plain .ctl (.sqtrunc o) (do
    let k ← thisCore
    trapIf (curReserved k o) .reservedField
    let t := curPos k o
    onCtx o 0 fun i c => do
      if t < c.p ∨ c.g < t then return .error sqRange
      else
        let c ← applyFrame c t []
        modify (countFrame i c false)
        return .ok (c.frameWord, true)) s

/-! Snapshots (R454). -/

/-- SQCKPT (R454). -/
def execSqckpt (o : Cmd) (s : State) : Host.Outcome State Fault Refusal :=
  plain .ctl (.sqckpt o) (do
    let k ← thisCore
    trapIf (curReserved k o) .reservedField
    let p := curPos k o
    let a := (k.sreg (o.a.toNat + 2)).toNat
    onCtx o 0 fun i c => do
      if c.rsb = 0 then return .error sqState
      else if p % 16 ≠ 0 ∨ p < 16 ∨ c.g < p ∨ a % 256 ≠ 0 then return .error sqRange
      else
        let e := p / 16 % c.nsnap
        sqCopy c.region a (c.snaps + e * c.rsb) c.rsb
        sqWrite c.region (c.stags + 8 * e) (bytesOf 8 (2 ^ 63 + p))
        modify fun s => s.setCtx i { c with tags := SMap.put c.tags e p }
        return .ok (p, true)) s

/-! Speculation (R456–R458). -/

/-- Row `j` of the ancestors' mask, from the rows before it (R456). -/
def treeRows : Nat → List Nat → List Nat → List Nat
  | _, [], rows => rows
  | j, p :: r, rows => treeRows (j + 1) r (rows ++ [2 ^ j + (if j = 0 then 0 else rows.getD p 0)])

/-- Depths of the nodes. -/
def treeDepths : Nat → List Nat → List Nat → List Nat
  | _, [], d => d
  | j, p :: r, d => treeDepths (j + 1) r (d ++ [if j = 0 then 0 else d.getD p 0 + 1])

/-- The 1 KiB tree area (R456). -/
def treeArea (parents : List Nat) : List Byte :=
  let rows := treeRows 0 parents []
  let d := treeDepths 0 parents []
  ((upto 0 64).map fun r => bytesOf 8 (rows.getD r 0)).flatten ++ ((upto 0 64).map fun j => bytesOf 1 (d.getD j 0)).flatten ++
  ((upto 0 64).map fun j => bytesOf 1 (parents.getD j 0xFF)).flatten ++ bytesOf 384 0

/-- Are the parents of n nodes legal (R456)? -/
def parentsOk (l : List Nat) : Bool :=
  l.zipIdx.all fun e => if e.2 = 0 then e.1 = 0xFF else decide (e.1 < e.2)

/-- SQSPEC (R456). -/
def execSqspec (o : Cmd) (s : State) : Host.Outcome State Fault Refusal :=
  plain .ctl (.sqspec o) (do
    let s ← get
    let k ← thisCore
    let t ← tileOf s.core
    let x := k.sreg (o.a.toNat + 1)
    let y := k.sreg (o.a.toNat + 2)
    let n := (bits x 0 7).toNat
    let off := (bits y 0 21).toNat
    trapLowest [(handleReserved k o || bits x 7 57 ≠ 0 || bits y 21 43 ≠ 0, .reservedField, 0),
      (outsideSp t off n, .scratchRange, off)]
    let l ← sqOperand s.core off n
    let parents := l.map (·.toNat)
    onCtx o 0 fun i c => do
      if 0 < c.w ∧ c.m < n then trap .windowMargin
      else if c.kvend ≠ c.g then return .error sqState
      else if n > 64 ∨ c.g + n > c.maxpos ∨ !parentsOk parents then return .error sqRange
      else
        let qs := (upto (c.g / 64) ((c.g + n + 63) / 64 - c.g / 64)).filter fun q => (SMap.find c.pages q).isNone
        if ← poolShort c qs then return .error sqNoPage
        else
          each qs fun q => each c.full fun b => allocPage c q b
          sqWrite c.region c.tree (treeArea parents)
          let c := { c with pages := qs.foldl (fun m q => SMap.put m q true) c.pages, parents := parents, s := c.g + n, hw := Nat.max c.hw (c.g + n) }
          modify fun s => s.setCtx i c
          return .ok (c.g + c.gen * 2 ^ 32, true)) s

/-- An entry of a commit list: its token, its node, its reserved bits (R457). -/
def pathEntry (l : List Byte) : Nat × Nat × Nat :=
  let x := ofBytes l
  (nbits x 0 32, nbits x 32 6, nbits x 38 26)

/-- Is the path from the root to its last node legal in a tree (R457)? -/
def pathOk (parents : List Nat) : List Nat → Bool
  | [] => false
  | n :: r => n = 0 && (r.foldl (fun (o : Option Nat) k => match o with
      | some p => if k < parents.length ∧ 0 < k ∧ parents.getD k 0xFF = p then some k else none
      | none => none) (some n)).isSome

/-- Move the KV bytes of the nodes of a path to their positions (R458). -/
def relocate (c : SqCtx) (nodes : List Nat) : Act Unit :=
  each c.layers fun l => each nodes.zipIdx fun e =>
    if e.1 = e.2 then pure ()
    else do
      let src ← kvAddr c l (c.g + e.1)
      let dst ← kvAddr c l (c.g + e.2)
      sqCopy c.region src dst c.kvb

/-- SQCMIT (R457, R458). -/
def execSqcmit (o : Cmd) (s : State) : Host.Outcome State Fault Refusal :=
  plain .ctl (.sqcmit o) (do
    let s ← get
    let k ← thisCore
    let t ← tileOf s.core
    let x := k.sreg (o.a.toNat + 1)
    let y := k.sreg (o.a.toNat + 2)
    let m := (bits x 32 7).toNat
    let off := (bits y 0 21).toNat
    trapLowest [(handleReserved k o || bits x 24 8 ≠ 0 || bits x 39 25 ≠ 0 || bits y 21 43 ≠ 0, .reservedField, 0),
      (off % 8 ≠ 0, .align, off), (outsideSp t off (8 * m), .scratchRange, off)]
    let b ← sqOperand s.core off (8 * m)
    let l := (pieces 8 m b).map pathEntry
    let nodes := l.map fun e => e.2.1
    onCtx o (bits o.f8 0 5).toNat fun i c => do
      if (bits x 0 24).toNat ≠ c.gen then
        modify fun s => { s with eng := { s.eng with stale := (s.eng.stale + 1) % 2 ^ 16 } }
        return .error sqStale
      else if m < 1 ∨ 64 < m ∨ c.s - c.g < m ∨ !pathOk c.parents nodes ∨ l.any (fun e => e.2.2 ≠ 0) then
        return .error sqRange
      else
        relocate c nodes
        sqWrite c.region (c.tokens + 4 * c.g) ((l.map fun e => bytesOf 4 e.1).flatten)
        let g := c.g + m
        modify fun s => s.setCtx i { c with g := g, kvend := g, s := g, wbase := g - c.w, parents := [] }
        return .ok (g, true)) s

end Sys2Proof.Machine
end

