-- ==== Sys2Proof/Machine/Regs.lean ====
section
/-! DEFINITION. The system registers: which there are, who may reach them, what a read shows and what a write does
(00 R6, 01 R26–R28, and the register maps of every chapter). -/

namespace Sys2Proof.Machine

/-! Which registers there are (R26, R27). -/

/-- Who may reach a register: anyone; anyone to read and supervisors to write; the same, and tiles in trap mode to write;
supervisors only. -/
inductive RegAccess
  | anyone | supWrites | trapWrites | supOnly
  deriving DecidableEq, Repr

/-- Is a number one of those from `lo`, `n` of them? -/
def among (x lo n : Nat) : Bool := decide (lo ≤ x ∧ x < lo + n)

/-- The access to a number, none where no chapter assigns it (R27, 02 R43, R63, 03 R87, 05 R162–R164, 06 R205, 07 R233,
08 R264, 09 R285, 10 R322, 11 R355, 12 R378, 13 R403, 14 R437, 15 R463, 16 R482, 17 R503, 18 R512). -/
def regAccess (n : Nat) : Option RegAccess :=
  if among n 0x000 3 || among n 0x010 3 || n = 0x014 || among n 0x020 3 || n = 0x0C0 || n = 0x0C2 || among n 0x0E0 2 then some .anyone
  else if n = 0x013 || among n 0x018 4 then some .trapWrites
  else if n = 0x0C1 then some .supWrites
  else if n = 0x103 || n = 0x1F0 then some .anyone
  else if among n 0x100 6 || among n 0x1F1 4 then some .supOnly
  else if n = 0x201 || n = 0x281 then some .trapWrites
  else if n = 0x200 || among n 0x208 8 || among n 0x210 2 || n = 0x280 || among n 0x288 8 || n = 0x291 then some .anyone
  else if n = 0x290 then some .supWrites
  else if among n 0x300 4 || among n 0x310 2 || among n 0x320 3 || n = 0x3F0 || n = 0x400 then some .anyone
  else if among n 0x401 2 || n = 0x500 || n = 0x600 || n = 0x700 || n = 0x900 then some .supWrites
  else if among n 0x4E0 3 || among n 0x501 2 || among n 0x510 6 || among n 0x520 2 || among n 0x580 6 || among n 0x588 8 ||
      n = 0x590 || among n 0x601 5 || among n 0x610 4 || among n 0x701 5 then some .supOnly
  else if among n 0x800 0x40 then
    if n % 16 < 7 then some .supOnly else if n % 16 < 9 then some .supWrites else none
  else if among n 0x901 4 || among n 0x908 5 || n = 0x910 || among n 0x918 3 || n = 0x920 then some .supOnly
  else if among n 0xA00 7 || n = 0xA08 || among n 0xA10 4 || among n 0xA18 4 || n = 0xA20 then some .supOnly
  else none

/-- How many instances a register has (R26, 13 R403). -/
inductive RegScope
  | core | cluster | device
  deriving DecidableEq, Repr

/-- The scope of a number. -/
def regScope (n : Nat) : RegScope :=
  if n < 0x100 || among n 0x200 0x200 then .core
  else if among n 0x400 0x100 || n = 0x500 || among n 0x520 2 then .cluster
  else .device

/-- The trap that an access by a tile meets (R27, 05 R162, 07 R233, 08 R264). -/
def regTrap (supv trapMode write : Bool) (n : Nat) : Option Code :=
  match regAccess n with
  | none => some .reservedField
  | some .anyone => none
  | some .supWrites => if write && !supv then some .privilege else none
  | some .trapWrites => if write && !supv && !trapMode then some .privilege else none
  | some .supOnly => if supv then none else some .privilege

/-! Reads. -/

/-- A field of a written value. -/
def vbits (v : DWord) (lo n : Nat) : Nat := (bits v lo n).toNat

/-- The barrier that a core's BAR_SEL names; a cluster barrier above 15 traps (05 R164). -/
def selectedBarrier (c : Nat) : Act (Bool × Nat) := do
  let s ← get
  let sel := (s.coreOf c).barSel
  let dev := bits sel 6 1 = 1
  let n := (bits sel 0 6).toNat
  trapIf (!dev && decide (n > 15)) .reservedField
  return (dev, n)

/-- Registers 0x000–0x0FF of a core (05 R162–R164, 02 R63); `own` says that CTL of the core reads. -/
def readCore (c : Nat) (own : Bool) (n : Nat) : Act Nat := do
  let s ← get
  let k := s.coreOf c
  match n with
  | 0x000 => return c % 128 + s.devId % 256 * 2 ^ 16
  | 0x001 => return tileInfo k
  | 0x002 => return s.cycle % 2 ^ 64
  | 0x010 => return trapCause k.trap
  | 0x011 => return k.trap.pc.toNat
  | 0x012 => return k.trap.va.toNat
  | 0x013 => return k.trap.ret.toNat
  | 0x014 => return trapStatus k.trap
  | 0x020 => return tkCount k 0 8
  | 0x021 => return tkCount k 8 4
  | 0x022 => return seqState k own
  | 0x0C0 => return k.barSel.toNat
  | 0x0C1 => do
    let b ← selectedBarrier c
    let x := s.barrier (clusterOf c) b.1 b.2
    return x.e % 2 ^ 12 + x.gen % 2 ^ 16 * 2 ^ 32
  | 0x0C2 => do
    let b ← selectedBarrier c
    let x := s.barrier (clusterOf c) b.1 b.2
    return x.b % 2 ^ 48 + x.a % 2 ^ 12 * 2 ^ 48
  | 0x0E0 => return phaseStamp k
  | 0x0E1 => return rdcFloor k
  | _ => return (SMap.get 0 k.trap.scr (n % 4)).toNat

/-- Registers 0x100–0x1FF (06 R205, 02 R63). -/
def readSched (s : State) (n : Nat) : Nat :=
  match n with
  | 0x100 => b2n s.ns.en + s.ns.age * 2 ^ 32
  | 0x101 => s.ns.rbase
  | 0x103 => (s.ns.slots.filter fun e => e.2.used).length +
      (128 - (s.cores.filter fun e => e.2.tile.isSome).length) * 2 ^ 32
  | 0x104 => s.ns.coop + s.ns.forced * 2 ^ 32
  | 0x105 => s.ns.fqLost
  | 0x1F0 => s.m.pubCount
  | 0x1F1 => s.m.ovfBase + s.m.ovfSize * 2 ^ 48
  | 0x1F2 => s.m.highPct + s.m.pressDeadline * 2 ^ 32
  | 0x1F3 => usedKiB s
  | 0x1F4 => s.m.scopeHold + s.m.flipLimit * 2 ^ 32
  | _ => 0

/-- Registers 0x200–0x3FF of a core (07 R233, 08 R264, 09 R285, 10 R322, 11 R355, 03 R87). -/
def readEngines (k : Core) (cycle n : Nat) : Nat :=
  match n with
  | 0x200 => qstat k.lds 0
  | 0x201 => aqWord k.lds.aq
  | 0x210 => 0
  | 0x211 => k.shHit + k.shMiss * 2 ^ 32
  | 0x280 => qstat k.sts 8
  | 0x281 => aqWord k.sts.aq
  | 0x290 => k.mqBound
  | 0x291 => k.mqGrants + k.rputWait cycle % 2 ^ 32 * 2 ^ 32
  | 0x300 => cmpStat k
  | 0x301 => k.comp.lbAddr
  | 0x302 => k.comp.issued + k.comp.stall * 2 ^ 32
  | 0x303 => k.comp.latePc.toNat
  | 0x310 => k.vuA + k.vuB * 2 ^ 32
  | 0x311 => k.vuF
  | 0x320 => mxStat k
  | 0x321 => k.mx.slice
  | 0x322 => k.mx.ksteps + k.mx.waitclk * 2 ^ 32
  | 0x3F0 => k.flags.toNat
  | _ => if among n 0x208 8 then qpos k.lds (n % 8) else qpos k.sts (n % 8 + 8)

/-- Registers 0x400–0x4FF of a core's cluster (12 R378, 02 R43). -/
def readCopy (s : State) (c n : Nat) : Nat :=
  let x := s.clusterAt (clusterOf c)
  match n with
  | 0x400 => (s.coreOf c).copies.length +
      ((upto (clusterOf c * Config.coresPerCluster) Config.coresPerCluster).map fun i => (s.coreOf i).copies.length).sum * 2 ^ 32
  | 0x401 => x.ceBytes
  | 0x402 => x.ceBlocks + x.ceBad * 2 ^ 32
  | 0x4E1 => x.muSplit
  | 0x4E2 => x.muFaultVa
  | _ => 0

/-- Registers 0x500–0x5FF (13 R403). -/
def readFabric (s : State) (c n : Nat) : Nat :=
  let f := s.fab
  let x := s.fi (clusterOf c)
  match n with
  | 0x500 => (x.inbox.length + x.promised) + x.bad * 2 ^ 32
  | 0x501 => f.hsel
  | 0x502 =>
    let h : HandlerEnt := SMap.get {} f.hent f.hsel
    h.va + h.region * 2 ^ 49 + b2n h.v * 2 ^ 63
  | 0x510 => f.jsel
  | 0x511 =>
    let j := s.jobAt f.jsel
    j.job + j.period * 2 ^ 16 + j.region * 2 ^ 48 + b2n j.valid * 2 ^ 63
  | 0x521 => packNums 2 ((upto 0 16).map fun i => (SMap.get {} x.sets i : GateSet).run) +
      (x.sets.map fun e => e.2.len).sum * 2 ^ 32
  | 0x580 => f.linken + s.devId % 256 * 2 ^ 16
  | 0x581 => f.rsel
  | 0x582 => SMap.get 0 f.routes f.rsel
  | 0x583 => f.wsel
  | 0x584 => (SMap.get 0 f.wbase f.wsel : DWord).toNat
  | 0x585 => (SMap.get 0 f.wlim f.wsel : DWord).toNat
  | 0x590 => f.resetClk + f.retryMax * 2 ^ 32
  | _ =>
    if among n 0x512 4 then (SMap.get 0 (s.jobAt f.jsel).dev (n - 0x512)).toNat
    else if among n 0x588 8 then
      let l := s.link (n - 0x588)
      l.run + l.resets * 2 ^ 16 + l.retries * 2 ^ 32
    else 0

/-- KiB that copies hold in a slice, those that pass a test (14 R415, R437). -/
def sliceKiB (s : State) (p : ExpertCopy → Bool) : Nat :=
  ((s.cd.tags.flatMap fun e => [e.2.prim, e.2.sec]).filter fun x => decide (0 < x.n) && x.slice = s.cd.xssel && p x).foldl
    (fun a x => a + x.n * 64) 0

/-- Registers 0x600–0x7FF (14 R437, 15 R463). -/
def readUnits (s : State) (n : Nat) : Nat :=
  let d := s.cd
  let e := s.eng
  let x := s.ctxAt e.sel
  match n with
  | 0x600 => d.tags.length + inFlightFetches s * 2 ^ 32 + d.layers.length * 2 ^ 40
  | 0x601 => d.fetchDram + d.fetchFlash * 2 ^ 32
  | 0x602 => d.subs + d.drops * 2 ^ 32
  | 0x603 => d.hints + d.steepUsed * 2 ^ 32
  | 0x604 => d.xssel
  | 0x605 => sliceKiB s (fun _ => true) + sliceKiB s (fun x => decide (0 < x.pins)) * 2 ^ 32
  | 0x610 => (SMap.get 0 d.stage 0 : DWord).toNat
  | 0x611 => (SMap.get 0 d.stage 1 : DWord).toNat
  | 0x612 => SMap.get 0 d.link 0 + SMap.get 0 d.errors 0 * 2 ^ 32
  | 0x613 => SMap.get 0 d.link 1 + SMap.get 0 d.errors 1 * 2 ^ 32
  | 0x700 => e.commands + (openCtxs s).length * 2 ^ 32
  | 0x701 => e.sel
  | 0x702 => x.g + x.s * 2 ^ 24
  | 0x703 => x.p + x.kvend * 2 ^ 24
  | 0x704 => x.gen + b2n x.isOpen * 2 ^ 24 + x.inc * 2 ^ 26 + x.region * 2 ^ 32
  | 0x705 => e.late + e.stale * 2 ^ 16 + e.frames * 2 ^ 32
  | _ => 0

/-- Registers of a stream port (16 R482). -/
def readPort (p : Port) (i : Nat) : Nat :=
  match i with
  | 0 => p.cfg.toNat
  | 1 => p.ring.toNat
  | 2 => p.tags.toNat
  | 3 => p.e0.toNat
  | 4 => p.addr.toNat
  | 5 => p.peer.toNat
  | 7 => p.link + 4 * b2n p.cfgErr + p.deliv * 2 ^ 32
  | 8 => p.bad + p.noslot * 2 ^ 32
  | _ => 0

/-- Registers 0x900–0x9FF (17 R503). -/
def readHost (s : State) (n : Nat) : Nat :=
  let h := s.hl
  let r := s.ring h.rsel
  match n with
  | 0x900 => h.bootState + h.link * 2 ^ 4 + h.tdi.num * 2 ^ 6 + b2n h.cfgErr * 2 ^ 8 + h.badDb * 2 ^ 32
  | 0x901 => offered
  | 0x903 => h.facc0.toNat
  | 0x904 => h.facc1.toNat
  | 0x908 => h.rsel
  | 0x909 => r.logn * 2 ^ 32 + r.region * 2 ^ 48 + b2n r.en * 2 ^ 63
  | 0x90A => r.rbase.toNat
  | 0x90B => r.cbase.toNat
  | 0x90C => r.tail + r.head * 2 ^ 32
  | 0x910 => h.ap * 2 ^ 32
  | 0x918 => h.trip + b2n h.tripped * 2 ^ 16 + h.temp * 2 ^ 48
  | 0x919 => h.bootLen + h.bootState * 2 ^ 30 + h.bootErr * 2 ^ 32
  | 0x91A => h.q + Nat.min h.reports 1023 * 2 ^ 16
  | 0x920 => h.hatom
  | _ => 0

/-- SV_IPEND: bits 0 and 2 follow their queues (18 R507). -/
def svPending (v : Samovar) : Nat :=
  b2n (!v.ndone.isEmpty) + b2n (!v.flip.isEmpty) * 4 + (v.ipend &&& 0x1A).toNat

/-- Pop SV_NDONE (18 R512): a nest that waited for room gives notice (R508). -/
def popDone : Act Nat := do
  let s ← get
  match s.sv.ndone with
  | [] => return 0
  | nid :: r =>
    set (pushNotices s.sv.owed.length { s with sv := { s.sv with ndone := r } })
    return nid + 2 ^ 63

/-- Pop SV_FLIP (18 R512). -/
def popFlip : Act Nat := do
  let s ← get
  match s.sv.flip with
  | [] => return 0
  | (asid, va) :: r =>
    set { s with sv := { s.sv with flip := r } }
    return asid % 2 ^ 12 + nbits va 16 40 * 2 ^ 16 + 2 ^ 63

/-- Registers 0xA00–0xAFF (18 R512). -/
def readSamovar (n : Nat) : Act Nat := do
  let s ← get
  let v := s.sv
  match n with
  | 0xA00 => return svPending v
  | 0xA01 => return v.ien.toNat
  | 0xA02 => popDone
  | 0xA03 => popFlip
  | 0xA04 => return v.nqReg
  | 0xA06 => return v.nqRes.toNat
  | 0xA08 => return b2n v.s2hFull + 2 * b2n v.h2sFull
  | 0xA20 => return v.atomSeq + b2n v.wdraw * 2 ^ 62 + b2n v.claim * 2 ^ 63
  | _ =>
    if among n 0xA10 4 then return (SMap.get 0 v.s2h (n % 4)).toNat
    else if among n 0xA18 4 then return (SMap.get 0 v.h2s (n % 4)).toNat
    else return 0

/-- Read a register as core `c` has it. -/
def readReg (c : Nat) (own : Bool) (n : Nat) : Act Nat := do
  let s ← get
  if n < 0x100 then readCore c own n
  else if n < 0x200 then return readSched s n
  else if n < 0x400 then return readEngines (s.coreOf c) s.cycle n
  else if n < 0x500 then return readCopy s c n
  else if n < 0x600 then return readFabric s c n
  else if n < 0x800 then return readUnits s n
  else if n < 0x900 then return readPort (s.port (n / 16 % 4)) (n % 16)
  else if n < 0xA00 then return readHost s n
  else readSamovar n

/-! Writes. -/

/-- Registers 0x000–0x0FF of a core (05 R162, R164). -/
def writeCore (c n : Nat) (v : DWord) : Act Unit :=
  match n with
  | 0x013 => modCoreAt c fun k => { k with trap := { k.trap with ret := v } }
  | 0x0C0 => modCoreAt c fun k => { k with barSel := bits v 0 7 }
  | 0x0C1 => do
    let b ← selectedBarrier c
    modify fun s =>
      let x := { s.barrier (clusterOf c) b.1 b.2 with e := vbits v 0 12, a := 0 }
      if b.1 then { s with dbar := SMap.put s.dbar b.2 x }
      else s.updCluster (clusterOf c) fun y => { y with bar := SMap.put y.bar b.2 x }
  | 0x0C2 => do
    let _ ← selectedBarrier c
    pure ()
  | _ =>
    if among n 0x018 4 then modCoreAt c fun k => { k with trap := { k.trap with scr := SMap.put k.trap.scr (n % 4) v } }
    else pure ()

/-- What a write of NS_RINV does (06 R166): the copies of the blocks it names are read again, with the blocks of parents
that they name anew (log 57). -/
def rinv (v : DWord) (s : State) : State :=
  let named (b : Nat) : Bool := bits v 12 1 = 1 || b = vbits v 0 12
  let kept := s.ns.regions.map fun e => if named e.1 then (e.1, blockInMemory s e.1) else e
  kept.foldl (fun s e => keepBlocks e.1 s) { s with ns := { s.ns with regions := kept } }

/-- Registers 0x100–0x1FF (06 R205, 02 R63). -/
def writeSched (n : Nat) (v : DWord) (s : State) : State :=
  match n with
  | 0x100 => { s with ns := { s.ns with en := bits v 0 1 = 1, age := vbits v 32 32 } }
  | 0x101 => { s with ns := { s.ns with rbase := vbits v 20 36 * 2 ^ 20 } }
  | 0x102 => rinv v s
  | 0x104 => { s with ns := { s.ns with coop := vbits v 0 32, forced := vbits v 32 32 } }
  | 0x105 => { s with ns := { s.ns with fqLost := vbits v 0 32 } }
  | 0x1F1 => { s with m := { s.m with ovfBase := vbits v 16 23 * 2 ^ 16, ovfSize := vbits v 48 16 } }
  | 0x1F2 => { s with m := { s.m with highPct := vbits v 0 8, pressDeadline := vbits v 32 32 } }
  | 0x1F4 => { s with m := { s.m with scopeHold := vbits v 0 32, flipLimit := vbits v 32 32 } }
  | _ => s

/-- Drop shape-cache entries on every core (07 R233). -/
def shinv (p : Nat → Bool) (s : State) : State :=
  { s with cores := s.cores.map fun e => (e.1, { e.2 with shapeCache := e.2.shapeCache.filter fun x => !p x.region }) }

/-- A write of LD_SHINV by a tile of the region `r`, or without one (07 R233). -/
def writeShinv (r : Option Region) (v : DWord) : Act Unit := do
  let all := bits v 12 1 = 1
  match r with
  | some r =>
    if r.supv then modify (shinv fun x => all || decide (x = vbits v 0 12))
    else
      trapIf all .privilege
      modify (shinv fun x => decide (x = r.id))
  | none => modify (shinv fun x => all || decide (x = vbits v 0 12))

/-- Registers 0x200–0x3FF of a core but LD_SHINV (07 R233, 08 R264, 09 R285, 10 R322, 11 R355, 03 R87). -/
def writeEngines (n : Nat) (v : DWord) (k : Core) : Core :=
  let it := bits v 63 1 = 1
  let lo := vbits v 0 32
  let hi := vbits v 32 32
  match n with
  | 0x201 => { k with lds := { k.lds with aq := { k.lds.aq with it := it } } }
  | 0x211 => { k with shHit := lo, shMiss := hi }
  | 0x281 => { k with sts := { k.sts with aq := { k.sts.aq with it := it } } }
  | 0x290 => { k with mqBound := lo }
  | 0x291 => { k with mqGrants := lo }
  | 0x302 => { k with comp := { k.comp with issued := lo, stall := hi } }
  | 0x310 => { k with vuA := lo, vuB := hi }
  | 0x311 => { k with vuF := lo }
  | 0x322 => { k with mx := { k.mx with ksteps := lo, waitclk := hi } }
  | 0x3F0 => { k with flags := k.flags &&& ~~~(bits v 0 4) }
  | _ => k

/-- What a write of MU_INV does (02 R42, R43, 14 R418). -/
def muInv (v : DWord) : Act Unit :=
  let asid := vbits v 0 12
  let va := vbits v 16 40 * 2 ^ 16
  match vbits v 14 2 with
  | 0 => mapInvalidate (tlbCovers asid va) (HeldPage.covers asid va)
  | 1 => mapInvalidate (fun e => e.asid = asid) (fun h => h.asid = asid)
  | 2 => mapInvalidate (fun _ => true) (fun _ => true)
  | _ => pure ()

/-- Registers 0x400–0x4FF of a core's cluster (12 R378, 02 R43). -/
def writeCopy (c n : Nat) (v : DWord) : Act Unit :=
  let upd := fun f => modify fun s => s.updCluster (clusterOf c) f
  match n with
  | 0x401 => upd fun x => { x with ceBytes := v.toNat }
  | 0x402 => upd fun x => { x with ceBlocks := vbits v 0 32, ceBad := vbits v 32 32 }
  | 0x4E0 => muInv v
  | 0x4E1 => upd fun x => { x with muSplit := vbits v 0 32 }
  | _ => pure ()

/-- A write of FI_GLOAD on behalf of a region (13 R392, R403). -/
def gload (c region : Nat) (v : DWord) : Act Unit :=
  let i := vbits v 2 4
  let va := vbits v 6 50 * 64
  if bits v 0 1 = 1 then reloadBias (clusterOf c) i va region
  else modify (gateAsk (clusterOf c) i { va := va, region := region, free := bits v 1 1 = 1 })

/-- A link that is disabled, or goes down or trains again: what it has received of unfinished packets is discarded
(13 R382). -/
def leaveUp (run : Nat) (x : Link) : Link :=
  if x.run = 2 then { x with run := run, rx := [], nak := none, resync := true } else { x with run := run }

/-- A write of SH_CFG (13 R403): a link that is enabled trains, one that is disabled is down. LINKEN is ignored unless
the feature is accepted (17 R488). -/
def writeShCfg (v : DWord) (s : State) : State :=
  let s := { s with devId := vbits v 16 8 }
  if !accepted s 10 then s
  else
    let en := vbits v 0 8
    let s := (upto 0 8).foldl (fun s i =>
      if en.testBit i = s.fab.linken.testBit i then s
      else s.updLink i (leaveUp (if en.testBit i then 1 else 0))) s
    { s with fab := { s.fab with linken := en } }

/-- Registers 0x500–0x5FF but FI_GLOAD (13 R403). -/
def writeFabric (c n : Nat) (v : DWord) (s : State) : State :=
  let upd := fun (f : Fabric → Fabric) => { s with fab := f s.fab }
  match n with
  | 0x500 => s.updFi (clusterOf c) fun x => { x with bad := vbits v 32 32 }
  | 0x501 => upd fun f => { f with hsel := vbits v 0 6 }
  | 0x502 => upd fun f => { f with
      hent := SMap.put f.hent f.hsel { v := bits v 63 1 = 1, region := vbits v 49 12, va := vbits v 0 49 } }
  | 0x510 => upd fun f => { f with jsel := vbits v 0 6 }
  | 0x511 =>
    let i := s.fab.jsel
    let old := s.jobAt i
    let valid := bits v 63 1 = 1
    let since := if valid = old.valid && decide (vbits v 16 32 = old.period) then old.since else s.cycle
    let t := if bits v 62 1 = 1 then clearJob i s else s
    t.updJob i fun j => { j with
      valid := valid, region := vbits v 48 12, period := vbits v 16 32, job := vbits v 0 12, since := since }
  | 0x580 => writeShCfg v s
  | 0x581 => upd fun f => { f with rsel := vbits v 0 8 }
  | 0x582 => upd fun f => { f with routes := SMap.put f.routes f.rsel (vbits v 0 12) }
  | 0x583 => upd fun f => { f with wsel := vbits v 0 4 }
  | 0x584 => upd fun f => { f with wbase := SMap.put f.wbase f.wsel (v &&& 0xC000_007F_FFFF_0000) }
  | 0x585 => upd fun f => { f with wlim := SMap.put f.wlim f.wsel (v &&& 0x0000_007F_FFFF_0000) }
  | 0x590 => upd fun f => { f with resetClk := vbits v 0 32, retryMax := vbits v 32 8 }
  | _ =>
    if among n 0x512 4 then s.updJob s.fab.jsel fun j => { j with dev := SMap.put j.dev (n - 0x512) v }
    else if among n 0x588 8 then
      s.updLink (n - 0x588) fun x => { x with resets := vbits v 16 16, retries := vbits v 32 32 }
    else s

/-- A write of FL_STAGE (14 R437): from now on a key may have its source again, or lose it (R427). EN is ignored unless the feature is accepted (17 R488). -/
def writeStage (p : Nat) (v : DWord) (s : State) : State :=
  let old : DWord := SMap.get 0 s.cd.stage p
  let en := if accepted s 9 then v else old
  let w := (v &&& 0x00FF_FFFF_FFF0_00FF) ||| (en &&& 0x8000_0000_0000_0000)
  { s with cd := { s.cd with stage := SMap.put s.cd.stage p w, tags := s.cd.tags.map fun e => (e.1, { e.2 with lost := false }) } }

/-- Registers 0x600–0x7FF (14 R437, 15 R463). -/
def writeUnits (n : Nat) (v : DWord) (s : State) : State :=
  let cd := fun (f : Caddy → Caddy) => { s with cd := f s.cd }
  let eng := fun (f : SeqEngine → SeqEngine) => { s with eng := f s.eng }
  let lo := vbits v 0 32
  let hi := vbits v 32 32
  match n with
  | 0x601 => cd fun x => { x with fetchDram := lo, fetchFlash := hi }
  | 0x602 => cd fun x => { x with subs := lo, drops := hi }
  | 0x603 => cd fun x => { x with hints := lo, steepUsed := hi }
  | 0x604 => cd fun x => { x with xssel := vbits v 0 4 }
  | 0x610 => writeStage 0 v s
  | 0x611 => writeStage 1 v s
  | 0x612 => cd fun x => { x with errors := SMap.put x.errors 0 hi }
  | 0x613 => cd fun x => { x with errors := SMap.put x.errors 1 hi }
  | 0x700 => eng fun x => { x with commands := lo }
  | 0x701 => eng fun x => { x with sel := vbits v 0 10 }
  | 0x703 => playWrite v s
  | 0x705 => eng fun x => { x with late := vbits v 0 16, stale := vbits v 16 16, frames := hi }
  | _ => s

/-- Registers of a stream port (16 R478, R479, R482). A new ADVPER counts from its write (R474). -/
def writePort (q i : Nat) (v : DWord) : Act Unit :=
  let quiet := fun (f : Port → Port) => modify fun s => s.updPort q fun p => if p.en then p else f p
  match i with
  | 0 => writePortCfg q v
  | 1 => quiet fun p => { p with ring := v &&& 0xFFFF_FFFF_001F_FFFF }
  | 2 => quiet fun p => { p with tags := v &&& 0x00FF_FFFF_FFFF_FFFF }
  | 3 => quiet fun p => { p with e0 := v &&& 0x0000_0000_FFFF_FFFF }
  | 4 => modify fun s => s.updPort q fun p => { p with addr := v &&& 0x0000_FFFF_FFFF_FFFF }
  | 5 => modify fun s => s.updPort q fun p =>
      { p with peer := v, advSince := if bits v 48 16 = bits p.peer 48 16 then p.advSince else s.cycle }
  | 6 => loadWhisk q v
  | 7 => modify fun s => s.updPort q fun p => { p with cfgErr := p.cfgErr && !(bits v 2 1 = 1) }
  | _ => modify fun s => s.updPort q fun p => { p with bad := vbits v 0 32, noslot := vbits v 32 32 }

/-- Registers 0x900–0x9FF (17 R487, R503). -/
def writeHost (n : Nat) (v : DWord) : Act Unit := do
  let s ← get
  let r := s.hl.rsel
  match n with
  | 0x900 => modify fun s => s.updHl fun h => { h with badDb := vbits v 32 32, cfgErr := h.cfgErr && !(bits v 8 1 = 1) }
  | 0x903 => writeFacc 0 v
  | 0x904 => writeFacc 1 v
  | 0x908 => modify fun s => s.updHl fun h => { h with rsel := vbits v 0 4 }
  | 0x909 => writeRcfg v
  | 0x90A =>
    let w := v &&& 0xFFFF_FFFF_FFFF_F000
    modify fun s => s.updRing r fun x => { x with rbase := w }
    lockedChange (w ≠ (s.ring r).rbase)
  | 0x90B =>
    let w := v &&& 0xFFFF_FFFF_FFFF_F000
    modify fun s => s.updRing r fun x => { x with cbase := w }
    lockedChange (w ≠ (s.ring r).cbase)
  | 0x910 =>
    modify fun s => s.updHl fun h => { h with ap := vbits v 32 7 }
    lockedChange (decide (vbits v 32 7 ≠ s.hl.ap))
  | 0x918 => modify fun s => s.updHl fun h => { h with trip := vbits v 0 16 }
  | 0x919 => modify (writeBoot v)
  | 0x920 => modify fun s => s.updHl fun h => { h with hatom := vbits v 0 32 }
  | _ => pure ()

/-- A write of SV_NQ (18 R509). -/
def enqueueNq (v : DWord) : Act Unit := do
  let s ← get
  let r ← enqueueAs s.sv.nqReg v.toNat id 0
  modify fun s => { s with sv := { s.sv with nqRes := resultWord r } }

/-- A write of MB_CTL (18 R507, R512): the host's clearing of S2HFULL sets S2HFREE. -/
def writeMbCtl (host : Bool) (v : DWord) (s : State) : State :=
  let free := bits v 0 1 = 1
  { s with sv := { s.sv with
    h2sFull := s.sv.h2sFull && !(bits v 1 1 = 1)
    s2hFull := s.sv.s2hFull && !free
    ipend := if host && free && s.sv.s2hFull then s.sv.ipend ||| 16 else s.sv.ipend } }

/-- Registers 0xA00–0xAFF (18 R512); while H2SFULL is set, writes of MB_H2S0–3 are ignored (R510). -/
def writeSamovar (host : Bool) (n : Nat) (v : DWord) : Act Unit :=
  let upd := fun (f : Samovar → Samovar) => modify fun s => { s with sv := f s.sv }
  match n with
  | 0xA00 => upd fun x => { x with ipend := x.ipend &&& ~~~(bits v 0 5) }
  | 0xA01 => upd fun x => { x with ien := bits v 0 5 }
  | 0xA04 => upd fun x => { x with nqReg := vbits v 0 12 }
  | 0xA05 => enqueueNq v
  | 0xA08 => modify (writeMbCtl host v)
  | 0xA10 => modify (sendS2h v)
  | 0xA18 => modify (sendH2s host v)
  | 0xA20 => upd (writeAtom v)
  | _ =>
    if among n 0xA11 3 then upd fun x => { x with s2h := SMap.put x.s2h (n % 4) v }
    else if among n 0xA19 3 then upd fun x => if x.h2sFull then x else { x with h2s := SMap.put x.h2s (n % 4) v }
    else pure ()

/-- Write a register as core `c` has it, on behalf of a tile's region or without one; `host` says that the host
writes (R6, R28). -/
def writeReg (r : Option Region) (host : Bool) (c n : Nat) (v : DWord) : Act Unit := do
  if n < 0x100 then writeCore c n v
  else if n < 0x200 then modify (writeSched n v)
  else if n = 0x210 then writeShinv r v
  else if n < 0x400 then modCoreAt c (writeEngines n v)
  else if n < 0x500 then writeCopy c n v
  else if n = 0x520 then
    let s ← get
    gload c ((r.map (·.id)).getD s.sv.nqReg) v
  else if n < 0x600 then modify (writeFabric c n v)
  else if n < 0x800 then modify (writeUnits n v)
  else if n < 0x900 then writePort (n / 16 % 4) (n % 16) v
  else if n < 0xA00 then writeHost n v
  else writeSamovar host n v

/-! The instructions (05 R159). -/

/-- SYSR (R159). -/
def execSysr (o : RL) (s : State) : Host.Outcome State Fault Refusal :=
  plain .ctl (.sysr o) (do
    let s ← get
    let k ← thisCore
    let t ← tileOf s.core
    let n := (bits o.ext 0 12).toNat
    match regTrap t.reg.supv k.trap.mode false n with
    | some code => trap code
    | none =>
      let v ← readReg s.core true n
      modCore fun k => k.setS o.d.toNat (BitVec.ofNat 64 v)
      advance .ctl 8) s

/-- SYSW (R159). A BAR_SEL that names no barrier traps before a want of privilege does (01 R31, R164). -/
def execSysw (o : RL) (s : State) : Host.Outcome State Fault Refusal :=
  plain .ctl (.sysw o) (do
    let s ← get
    let k ← thisCore
    let t ← tileOf s.core
    let n := (bits o.ext 0 12).toNat
    if n = 0x0C1 || n = 0x0C2 then
      let _ ← selectedBarrier s.core
    else pure ()
    match regTrap t.reg.supv k.trap.mode true n with
    | some code => trap code
    | none =>
      writeReg (some t.reg) false s.core n (k.sreg o.a.toNat)
      advance .ctl 8) s

/-! Writes as events: the value written is `value` (R28). -/

/-- May the agent of a register write reach number `n` (17 R485, R487, 18 R506, R512)? A tile's writes are SYSWs. -/
def agentMay (s : State) (n : Nat) : Bool :=
  (regAccess n).isSome && (match s.ev.agent with
    | .core _ => false
    | .samovar => true
    | .host => decide (0x900 ≤ n) && n ≠ 0xA00 && n ≠ 0xA01 && barAllowed s s.ev.flag)

/-- A register write by the host or the samovar. -/
def regEvent (n : Nat) (s : State) : Host.Outcome State Fault Refusal :=
  event (fun s => agentMay s n)
    (whole (writeReg none (match s.ev.agent with | .host => true | _ => false) s.ev.core n s.ev.value)) s

/-- REGISTER_WRITE (R28): register `idx`, of core `core` where it is per core or per cluster. -/
def execRegisterWrite (s : State) : Host.Outcome State Fault Refusal := regEvent s.ev.idx s

/-- BAR_CFG_WRITE (05 R164): the barrier that BAR_SEL of core `core` names. -/
def execBarCfgWrite (s : State) : Host.Outcome State Fault Refusal := regEvent 0x0C1 s

/-- MU_INV_PAGE (02 R42, R43): KIND 0. -/
def execMuInvPage (s : State) : Host.Outcome State Fault Refusal :=
  event (fun s => vbits s.ev.value 14 2 = 0) (muInv s.ev.value) s

/-- MU_INV_ASID (02 R42, R43): KIND 1. -/
def execMuInvAsid (s : State) : Host.Outcome State Fault Refusal :=
  event (fun s => vbits s.ev.value 14 2 = 1) (muInv s.ev.value) s

/-- MU_INV_ALL (02 R42, R43): KIND 2. -/
def execMuInvAll (s : State) : Host.Outcome State Fault Refusal :=
  event (fun s => vbits s.ev.value 14 2 = 2) (muInv s.ev.value) s

/-- MU_INV_NONE (02 R43): KIND 3. -/
def execMuInvNone (s : State) : Host.Outcome State Fault Refusal :=
  event (fun s => vbits s.ev.value 14 2 = 3) (muInv s.ev.value) s

/-- NS_RINV_REGION (06 R166): ALL is 0. -/
def execNsRinvRegion (s : State) : Host.Outcome State Fault Refusal :=
  event (fun s => bits s.ev.value 12 1 = 0) (modify (rinv s.ev.value)) s

/-- NS_RINV_ALL (06 R166): ALL is 1. -/
def execNsRinvAll (s : State) : Host.Outcome State Fault Refusal :=
  event (fun s => bits s.ev.value 12 1 = 1) (modify (rinv s.ev.value)) s

/-- LD_SHINV_REGION (07 R233): ALL is 0. -/
def execLdShinvRegion (s : State) : Host.Outcome State Fault Refusal :=
  event (fun s => bits s.ev.value 12 1 = 0) (writeShinv none s.ev.value) s

/-- LD_SHINV_ALL (07 R233): ALL is 1. -/
def execLdShinvAll (s : State) : Host.Outcome State Fault Refusal :=
  event (fun s => bits s.ev.value 12 1 = 1) (writeShinv none s.ev.value) s

/-- SV_NQ_ENQUEUE (18 R509): SV_NQ is written. -/
def execSvNqEnqueue (s : State) : Host.Outcome State Fault Refusal := event mayAccess (whole (enqueueNq s.ev.value)) s

/-- What the read of an event brings goes to the host where the host reads. -/
def readAnswer (v : Nat) (s : State) : State := match s.ev.agent with
  | .host => answerHost (bytesOf 8 v) s
  | _ => s

/-- SV_NDONE_POP (18 R508): the samovar or the host reads SV_NDONE. -/
def execSvNdonePop (s : State) : Host.Outcome State Fault Refusal :=
  event mayAccess (do
    let v ← popDone
    modify (readAnswer v)) s

/-- SV_FLIP_POP (18 R512): the samovar or the host reads SV_FLIP. -/
def execSvFlipPop (s : State) : Host.Outcome State Fault Refusal :=
  event mayAccess (do
    let v ← popFlip
    modify (readAnswer v)) s

/-- The host reads doubleword `i` of BAR 0 (17 R485, R487, 18 R512): a register of the host link or of the samovar, or the
staging window; other offsets read zero, and the MSI-X table is left out (log 53). -/
def hostReads (i : Nat) (bound : Bool) : Act Unit := do
  let s ← get
  if !barAllowed s bound then pure ()
  else if i < 0x200 then
    if (regAccess (0x900 + i)).isSome && 0x900 + i ≠ 0xA00 && 0x900 + i ≠ 0xA01 then
      let v ← readReg 0 false (0x900 + i)
      modify (answerHost (bytesOf 8 v))
    else modify (answerHost (bytesOf 8 0))
  else if among i 0x2_0000 0x2_0000 then
    modify (answerHost ((upto (8 * i - 0x10_0000) 8).map fun a => SMap.get 0 s.hl.staging a))
  else if among i 0x4000 0x400 then modify (answerHost [])
  else modify (answerHost (bytesOf 8 0))

/-- MAILBOX_S2H_SEND (18 R510): MB_S2H0 is written. -/
def execMailboxS2hSend (s : State) : Host.Outcome State Fault Refusal :=
  event mayAccess (modify (sendS2h s.ev.value)) s

/-- MAILBOX_H2S_SEND (18 R510): the host writes MB_H2S0. -/
def execMailboxH2sSend (s : State) : Host.Outcome State Fault Refusal :=
  event (fun s => barAllowed s s.ev.flag) (modify (sendH2s true s.ev.value)) s

/-- MAILBOX_S2H_CLEAR (18 R507): the host writes 1 to S2HFULL. -/
def execMailboxS2hClear (s : State) : Host.Outcome State Fault Refusal :=
  event (fun s => barAllowed s s.ev.flag) (modify (writeMbCtl true 1)) s

/-- MB_ATOM_SEQ (18 R511): MB_ATOM is written with SEQ `num`. -/
def execMbAtomSeq (s : State) : Host.Outcome State Fault Refusal :=
  event mayAccess (modify fun s => { s with sv := writeAtom (BitVec.ofNat 64 (s.ev.num % 2 ^ 16)) s.sv }) s

/-- MB_ATOM_CLAIM (18 R511): MB_ATOM is written with CLAIM alone. -/
def execMbAtomClaim (s : State) : Host.Outcome State Fault Refusal :=
  event mayAccess (modify fun s => { s with sv := writeAtom (BitVec.ofNat 64 (2 ^ 63)) s.sv }) s

/-- MB_ATOM_WDRAW (18 R511): MB_ATOM is written with WDRAW alone. -/
def execMbAtomWdraw (s : State) : Host.Outcome State Fault Refusal :=
  event mayAccess (modify fun s => { s with sv := writeAtom (BitVec.ofNat 64 (2 ^ 62)) s.sv }) s

/-- LINK_STATE_CHANGE (13 R403, 14 R437, 16 R482, 17 R503): the link `link` goes into state `num`: 0 down, 1 training,
2 up. A Shagean link trains only where LINKEN enables it. -/
def execLinkStateChange (s : State) : Host.Outcome State Fault Refusal :=
  let n := s.ev.num
  event (fun _ => decide (n ≤ 2)) (modify fun s =>
    match s.ev.link with
    | .host => s.updHl fun h => { h with link := n }
    | .flash p => if p < 2 then { s with cd := { s.cd with link := SMap.put s.cd.link p n } } else s
    | .port p => if p < 4 then s.updPort p fun x => { x with link := n } else s
    | .shagean i =>
      if n ≠ 0 && !s.fab.linken.testBit i then s
      else if n = 2 then pumpAt i (s.updLink i fun x => { x with run := 2, progress := s.cycle })
      else s.updLink i (leaveUp n)) s

end Sys2Proof.Machine
end

