-- ==== Sys2Proof/Machine/Restore.lean ====
section
/-! DEFINITION. Restoring a saved tile: what the save slot holds is read from its bytes (06 R193, R197, R198, 07 R231, R232,
08 R262, R263, 09 R283, R284, 10 R287, 11 R324, R354); the rest is kept with the saved tile (log 38). -/

namespace Sys2Proof.Machine

/-! Reading the slot. -/

/-- The listed bytes of a slot, by offset. -/
abbrev SlotImg := SMap Byte

/-- The bytes of memory from `a`, by offset. -/
def slotImg (m : Memory) (a n : Nat) : SlotImg :=
  (m.mem.filter fun e => decide (a ≤ e.1 ∧ e.1 < a + n)).map fun e => (e.1 - a, e.2)

/-- Bytes, numbers and doublewords of a slot. -/
def imgBytes (x : SlotImg) (o n : Nat) : List Byte := (upto o n).map (SMap.get memDefault x)
def imgNat (x : SlotImg) (o n : Nat) : Nat := ofBytes (imgBytes x o n)
def imgD (x : SlotImg) (o : Nat) : DWord := BitVec.ofNat 64 (imgNat x o 8)

/-- Keys of the records of `w` bytes from an offset that hold a byte other than zero. -/
def imgKeys (x : SlotImg) (o w n : Nat) : List Nat :=
  ((x.filter fun e => decide (o ≤ e.1 ∧ e.1 < o + w * n)).map fun e => (e.1 - o) / w).eraseDups

/-! Header and registers (R197, R198). -/

/-- Stages by number (R198). -/
def stageOf (n : Nat) : Stage := match n with
  | 0 => .prologue | 1 => .kernel | 2 => .epilogue | _ => .complete

/-- A sequencer as the header gives it; one held at its back-edge goes on, one that waited executes again (R189, R193). -/
def seqFrom (x : SlotImg) (q : Seq) (y : SeqState) : SeqState :=
  let n := seqNum q
  let w := imgNat x (0x40 + 8 * n) 8
  let st := stageOf (nbits w 32 2)
  { y.clearWaits with
    pc := imgD x (0x20 + 8 * n), iters := nbits w 0 32, stage := st, edge := y.run = .trapped && nbits w 34 1 = 1
    run := if y.run = .trapped then .trapped else if st = .complete then .idle else .running }

/-- The tile: its phase and version (R193, R198). -/
def tileFrom (x : SlotImg) (press : Option Nat) (cycle : Nat) (t : Tile) : Tile :=
  { t with
    ver := { t.ver with id := imgNat x 0x10 4 }, start := imgNat x 0x18 6
    press := if nbits (imgNat x 0x1E 1) 0 1 = 1 then some (press.getD cycle) else none
    lastIssue := cycle - t.lastIssue }

/-- Trap registers (R197). -/
def trapFrom (x : SlotImg) : TrapRegs :=
  let c := imgNat x 0x740 8
  let s := imgNat x 0x760 8
  { mode := nbits s 4 1 = 1, code := nbits c 0 8, seq := nbits c 12 2, imm := BitVec.ofNat 8 (c / 2 ^ 16), pc := imgD x 0x748
    va := imgD x 0x750, ret := imgD x 0x758, pend := BitVec.ofNat 4 (nbits s 1 3 * 2)
    scr := (upto 0 4).map fun i => (i, imgD x (0x768 + 8 * i)) }

/-- Windows (R197); a message queue's counters are the device's own. -/
def windowsFrom (x : SlotImg) (old : SMap Window) : SMap Window :=
  (upto 0 32).filterMap fun i =>
    let d : QWord := BitVec.ofNat 128 (imgNat x (0x800 + 16 * i) 16)
    if winLen d = 0 then none
    else some (i, { desc := d, mq := ((SMap.find old i).map (·.mq)).getD (if winMode d = modeMq then { n := mqN d, esz := mqEsz d } else {}) })

/-- Chunk states (R197). -/
def chunksFrom (x : SlotImg) (k : Core) : SMap Chunk :=
  ((upto 0 512).filter fun n => (k.windowAt n).isSome).map fun n =>
    let w := imgNat x (0x1000 + 8 * n) 8
    (n, { run := if nbits w 0 2 = 2 then .valid else .unfilled, dirty := BitVec.ofNat 32 (w / 4), fault := (k.chunk n).fault })

/-- The entries of a queue register (R197, R198): those that were reserved are still to land. -/
def queueFrom (x : SlotImg) (id q : Nat) (old : List QEnt) : List QEnt :=
  (upto 0 (nbits (imgNat x 0x60 8) (4 * q) 4)).map fun j =>
    let data := imgBytes x (0xC000 + 2048 * q + 512 * j) 512
    match old[j]? with
    | some e => { e with data := e.data.map fun _ => data }
    | none => { id := id + 4 * q + j, data := some data }

/-- Template tables; an entry of TOP 0 is empty (R197, 04 R101). -/
def templatesFrom (x : SlotImg) : SMap QWord :=
  (imgKeys x 0x4000 16 256).filterMap fun i =>
    let t : QWord := BitVec.ofNat 128 (imgNat x (0x4000 + 16 * i) 16)
    if bits t 120 8 = 0 then none else some (i, t)

/-- Scalar, index, handle, predicate, object and vector registers, tokens, flags, windows, templates, queues (R197). -/
def registersFrom (x : SlotImg) (k : Core) : Core :=
  let k : Core := { k with windows := windowsFrom x k.windows }
  let vu := imgNat x 0x568 8
  { k with
    s := (upto 1 63).map fun i => (i, imgD x (0x200 + 8 * i))
    lds := { k.lds with n := (upto 0 16).map fun i => (i, imgD x (0x400 + 8 * i)) }
    sts := { k.sts with n := (upto 0 16).map fun i => (i, imgD x (0x480 + 8 * i)) }
    h := (upto 0 16).map fun i => (i, BitVec.ofNat 32 (imgNat x (0x500 + 4 * i) 4))
    p := BitVec.ofNat 48 (imgNat x 0x540 8)
    tk := (upto 0 12).map fun i => (i, imgNat x (0x548 + i) 1)
    flags := BitVec.ofNat 4 (imgNat x 0x560 8), vuA := nbits vu 0 32, vuB := nbits vu 32 32, vuF := imgNat x 0x570 4
    k := (upto 1 7).map fun i => (i, BitVec.ofNat 128 (imgNat x (0x580 + 16 * i) 16))
    arv := (upto 0 8).map fun i => (i, imgD x (0x600 + 8 * i))
    sem := (upto 0 32).map fun i => (i, BitVec.ofNat 48 (imgNat x (0x640 + 8 * i) 8))
    trap := trapFrom x
    rdcFloor := imgNat x 0x70 6
    chunks := chunksFrom x k
    comp := { k.comp with tmpl := templatesFrom x }
    v := (upto 0 32).map fun i => (i, imgBytes x (0x8000 + 512 * i) 512)
    q := (upto 0 16).map fun i => (i, queueFrom x k.nextId i (k.queue i))
    nextId := k.nextId + 64 }

/-! CMP (09 R283, R284). -/

/-- Four copies from an offset; those that are present keep the template index that they were formed from. -/
def copiesFrom (x : SlotImg) (o : Nat) (present : BitVec 4) (old : List (Option SlotCopy)) : List (Option SlotCopy) :=
  (upto 0 4).map fun i =>
    if present.getLsbD (3 - i) then
      some { t := BitVec.ofNat 128 (imgNat x (o + 16 * i) 16), idx := (((old[i]?).getD none).map (·.idx)).getD 0 }
    else none

/-- Held copies and the loop buffer. -/
def computeFrom (x : SlotImg) (k : Compute) : Compute :=
  let w := imgNat x 0x2000 8
  let n := nbits w 16 8
  { k with
    held := copiesFrom x 0x2040 (BitVec.ofNat 4 (nbits w 8 4)) k.held
    lb := if nbits w 0 2 = 2 then .armed else if nbits w 0 2 = 1 then .capturing else .empty
    captured := (upto 0 n).map fun i =>
      let o := 0x2400 + 96 * i
      let h : Word := BitVec.ofNat 32 (imgNat x o 4)
      { hdr := rdHdr h, slots := bits h 28 4, addr := imgNat x (o + 8) 8
        copies := copiesFrom x (o + 0x10) (bits h 28 4) (((k.captured[i]?).map (·.copies)).getD []) }
    lbAddr := imgNat x 0x2008 8, lbNext := imgNat x 0x2010 8, replays := nbits w 32 32, late := BitVec.ofNat 4 (nbits w 24 4) }

/-! Streams (07 R231, R232, 08 R262, R263). -/

/-- A binding; its stream goes on from ordinal `deliv`, its head is tried again. -/
def bindFrom (x : SlotImg) (o deliv : Nat) : Option Binding :=
  let k := imgNat x (o + 0x68) 1
  let sh := shapeOf (imgBytes x o 64)
  let b : Binding :=
    { kind := if k = 1 then .once else if k = 2 then .cyc else .list, shape := sh
      org := (upto 0 4).map fun i => (imgD x (o + 0x40 + 8 * i)).toInt
      g := imgNat x (o + 0x69) 1, listOff := imgNat x (o + 0x70) 4, listCnt := imgNat x (o + 0x74) 4, issued := deliv, deliv := deliv }
  if k = 0 then none else some b

/-- Operations of a direct queue: up to the first record of KIND 0. -/
def directsFrom (x : SlotImg) (f : Nat → Nat → DirectOp → DirectOp) (o : Nat) (old : List DirectOp) : List DirectOp :=
  ((upto 0 8).takeWhile fun i => imgNat x (o + 128 * i) 1 ≠ 0).map fun i =>
    f (o + 128 * i) (imgNat x (o + 128 * i) 1) ((old[i]?).getD { kind := .ldq })

/-- What the records of LD and ST have in common; a held head is tried again. -/
def directFrom (x : SlotImg) (o : Nat) (y : DirectOp) : DirectOp :=
  { y with
    d := imgNat x (o + 1) 1, done := imgNat x (o + 4) 4, addr := imgNat x (o + 0x10) 8
    org := (upto 0 4).map fun i => (imgD x (o + 0x18 + 8 * i)).toInt
    shape := shapeOf (imgBytes x (o + 0x40) 64)
    held := none, hold := none, refused := none, started := false }

/-- An operation of LD (07 R232). -/
def ldDirectFrom (x : SlotImg) (o k : Nat) (y : DirectOp) : DirectOp :=
  { directFrom x o y with
    kind := if k = 1 then .ldq else if k = 2 then .ldt else .mfill, ext := BitVec.ofNat 32 (imgNat x (o + 8) 4) }

/-- The operation of an ATOMV from its selector (08 R247). -/
def atomOf (n : Nat) : AtomOp :=
  match n with
  | 0 => .add | 1 => .and | 2 => .or | 3 => .xor | 4 => .min | 5 => .max | 6 => .minu | 7 => .maxu | _ => .swp

/-- An operation of ST (08 R263), with its entries of the data buffer. -/
def stDirectFrom (x : SlotImg) (o k : Nat) (y : DirectOp) : DirectOp :=
  let w := imgNat x (o + 8) 4
  let ext : Word := BitVec.ofNat 32 (imgNat x (o + 12) 4)
  let first := imgNat x (o + 2) 1
  let n := if first = 0xFF then 0 else if k = 3 && nbits w 8 6 ≠ atomvV ext then 2 else 1
  { directFrom x o y with
    kind := if k = 1 then .stq else if k = 2 then .stt else if k = 3 then .atomv else .mwb
    op := atomOf (nbits w 0 4), a := nbits w 8 6, guard := BitVec.ofNat 6 (nbits w 20 6), f8 := BitVec.ofNat 8 w, ext := ext
    data := (upto first n).map fun i => imgBytes x (0x1_F000 + 512 * i) 512 }

/-- LD_AQFAULT or ST_AQFAULT. -/
def aqFrom (w : Nat) : AqFault := { it := nbits w 63 1 = 1, lane := nbits w 48 10, queue := nbits w 44 4, entry := nbits w 0 32 }

/-- LD's and ST's bindings, direct queues and fault registers. -/
def streamsFrom (x : SlotImg) (k : Core) : Core :=
  { k with
    lds := { k.lds with
      binds := (upto 0 8).filterMap fun q =>
        let o := 0x1_C000 + 128 * q
        (bindFrom x o (imgNat x (o + 0x64) 4)).map fun b => (q, b)
      direct := directsFrom x (ldDirectFrom x) 0x1_C400 k.lds.direct
      aq := aqFrom (imgNat x 0x1_C800 8) }
    sts := { k.sts with
      binds := (upto 0 8).filterMap fun q =>
        let o := 0x1_E000 + 128 * q
        (bindFrom x o (imgNat x (o + 0x60) 4)).map fun b => (8 + q, b)
      direct := directsFrom x (stDirectFrom x) 0x1_E400 k.sts.direct
      aq := aqFrom (imgNat x 0x1_E800 8) } }

/-! The matrix engine (11 R324, R354). -/

/-- An MMA from its issued copy, the steps done and its masks; where one is kept, its number and its bundle are. -/
def mmaFrom (x : SlotImg) (o done masks : Nat) (y : MmaRun) : Option MmaRun :=
  match decodeM (BitVec.ofNat 128 (imgNat x o 16)) with
  | none => none
  | some i => (mmaDims i).map fun d =>
    { y with copy := d.1, m := d.2.1, steps := d.2.2, done := done, am0 := imgBytes x masks 512, am1 := imgBytes x (masks + 512) 512 }

/-- The MLS that waits; where one is kept, its address is the one it was issued with. -/
def mlsFrom (x : SlotImg) (k : Core) : List MlsRun :=
  match decodeM (BitVec.ofNat 128 (imgNat x 0x1_B640 16)) with
  | some (.mls t) =>
    let new : MlsRun := { bundle := k.comp.bundle, copy := t, addr := mlsAddr k t, sp := bits t.opt 0 1 = 1, scl := bits t.opt 2 1 = 1, pc := k.cmp.pc }
    (match k.mx.load.head? with
     | some y => if y.copy = t then y else new
     | none => new) :: k.mx.load.drop 1
  | _ => []

/-- An operation of the compute port that is no MMA, from its issued copy. What it was issued with is kept where the copy
is the same; else it is formed again, and a queue result goes to the reservation that is still to land. -/
def waitingFrom (k : Core) (q : QWord) : Option EngOp :=
  match decodeM q with
  | none => none
  | some i =>
    if !atComputePort i || (mmaDims i).isSome then none
    else
      match k.ops.find? fun o => o.compute && o.copy = q with
      | some o => some o
      | none =>
        let r := runOp k 0 i
        let writes := r.writes.filterMap fun w =>
          match w with
          | .queue n _ d => ((k.queue n).find? fun e => e.data.isNone).map fun e => EngWrite.queue n e.id d
          | w => some w
        some { id := k.nextId + 1, bundle := k.comp.bundle, slot := 0, writes := writes, flags := r.flags, late := r.late,
               pc := k.cmp.pc, compute := true, copy := q }

/-- The engine. -/
def matrixFrom (x : SlotImg) (k : Core) : Core :=
  let w := imgNat x 0x1_B600 8
  let none_ : MmaRun := { id := k.nextId, bundle := k.comp.bundle, copy := rdMTmpl 0, m := 8, steps := 1, pc := k.cmp.pc }
  let perf := imgNat x 0x1_B628 8
  let run := mmaFrom x 0x1_B610 (nbits (imgNat x 0x1_B620 1) 0 4) 0x1_B680 (k.mx.running.getD none_)
  let next := mmaFrom x 0x1_B630 0 0x1_BA80 (k.mx.waiting.getD { none_ with id := k.nextId + 1 })
  { k with
    nextId := k.nextId + 2
    ops := (waitingFrom k (BitVec.ofNat 128 (imgNat x 0x1_B630 16))).toList
    mx :=
      { active := { bytes := imgBytes x 0x1_5000 planeBytes, scales := imgBytes x 0x1_B000 768 }
        activeFull := nbits w 0 2 = 2
        shadow := { bytes := imgBytes x 0x1_8000 planeBytes, scales := imgBytes x 0x1_B300 768 }
        shadowRun := if nbits w 4 2 = 2 then .full else .empty
        acc := (imgKeys x 0x2_0000 512 256).map fun i => (i, (upto 0 128).map fun j => BitVec.ofNat 32 (imgNat x (0x2_0000 + 512 * i + 4 * j) 4))
        stepcnt := (upto 0 4).map fun a => (a, nbits w (32 + 4 * a) 4)
        am := (upto 0 2).map fun t => (t, imgBytes x (0x1_4000 + 512 * t) 512)
        slice := nbits (imgNat x 0x1_B608 8) 0 9
        load := mlsFrom x k, mmas := run.toList ++ next.toList, waitclk := nbits perf 32 32, ksteps := nbits perf 0 32 } }

/-! The scratchpad (R192, R193). -/

/-- The bytes of the chunks that the slot keeps; what belongs to no allocation of the tile, and a port's ring, stays as the
core has it; the rest is zero. -/
def scratchFrom (x : SlotImg) (kept : List Nat) (stays : Nat → Bool) (old : SMap Byte) : SMap Byte :=
  let new := x.filter fun e => decide (0x4_0000 ≤ e.1) && kept.contains ((e.1 - 0x4_0000) / 4096) && !stays (e.1 - 0x4_0000)
  new.foldl (fun m e => SMap.put m (e.1 - 0x4_0000) e.2) (old.filter fun e => stays e.1)

/-! Restore (R193). -/

/-- A saved core put on core `k` from the bytes of its slot: what belongs to the core and not to the context stays (R197). -/
def restored (k : Core) (x : Saved) (img : SlotImg) (ring : Nat → Bool) (cycle : Nat) : Core :=
  let y := x.core
  let spTile := (y.tile.map (·.reg.spTile)).getD 0
  let stays := fun (a : Nat) => decide (spTile ≤ a) || ring a
  let z := matrixFrom img (streamsFrom img (registersFrom img y))
  { z with
    ctl := seqFrom img .ctl y.ctl, ld := seqFrom img .ld y.ld, cmp := seqFrom img .cmp y.cmp, st := seqFrom img .st y.st
    tile := y.tile.map (tileFrom img x.press cycle)
    sp := scratchFrom img x.kept stays k.sp
    spPoison := (y.spPoison.filter fun p => x.kept.contains (p / 32) && !stays (p * 128)) ++ k.spPoison.filter fun p => stays (p * 128)
    comp := { computeFrom img z.comp with stall := k.comp.stall, issued := k.comp.issued }
    barSel := k.barSel, lastNid := k.lastNid
    shapeCache := k.shapeCache, shMiss := k.shMiss, shHit := k.shHit
    mqBound := k.mqBound, mqWait := k.mqWait, mqGrants := k.mqGrants
    nextId := Nat.max z.nextId k.nextId, watch := none, soiled := k.soiled }

/-- The bytes of a saved tile's slot. -/
def Saved.img (x : Saved) (m : Memory) : SlotImg := slotImg m x.slotAt (0x4_0000 + (x.core.tile.map (·.reg.spTile)).getD 0)

/-- TILE_RESTORE (R193): the slot that is served first resumes its lowest saved tile. -/
def execTileRestore (s : State) : Host.Outcome State Fault Refusal :=
  match topSlot s (servable s) with
  | none => .next s
  | some i =>
    match firstSaved s (slotNid s i), pickCore s (slotNid s i) (openCores s i) with
    | some x, some c =>
      let s := s.setCore c (restored (s.coreOf c) x (x.img s.m) (ringByte s c) s.cycle)
      let s := freeHeader ((x.core.tile.map (·.reg.id)).getD 0) x.slotAt s
      let s := { s with
        ns := { s.ns with saved := s.ns.saved.filter fun y => !(y.nid = x.nid && y.ord = x.ord), lastServed := i } }
      outcomeOf ((do spoilRing c; tileStarts c) s)
    | _, _ => .next s

end Sys2Proof.Machine
end

