-- ==== Sys2Proof/Machine/Riscv.lean ====
section
/-! DEFINITION. The samovar as a processor: RV64IMAC with Zicsr and Zifencei in machine mode (18 R504–R507; the
instruction set itself as the RISC-V manuals give it: log 30). -/

namespace Sys2Proof.Machine

/-! Instructions. -/

/-- Arithmetic of OP and OP-32, register or immediate. -/
inductive RvAlu
  | add | sub | sll | slt | sltu | xor | srl | sra | or | and
  | mul | mulh | mulhsu | mulhu | div | divu | rem | remu
  deriving DecidableEq, Repr

/-- Branch conditions. -/
inductive RvCond
  | eq | ne | lt | ge | ltu | geu
  deriving DecidableEq, Repr

/-- How a CSR instruction changes the register. -/
inductive RvCsr
  | write | set | clear
  deriving DecidableEq, Repr

/-- A decoded instruction: registers by number, immediates sign-extended. -/
inductive Rv
  | lui (rd : Nat) (imm : DWord)
  | auipc (rd : Nat) (imm : DWord)
  | jal (rd : Nat) (off : DWord)
  | jalr (rd rs1 : Nat) (off : DWord)
  | branch (c : RvCond) (rs1 rs2 : Nat) (off : DWord)
  | load (rd rs1 : Nat) (off : DWord) (n : Nat) (signed : Bool)
  | store (rs1 rs2 : Nat) (off : DWord) (n : Nat)
  | opImm (f : RvAlu) (word : Bool) (rd rs1 : Nat) (imm : DWord)
  | op (f : RvAlu) (word : Bool) (rd rs1 rs2 : Nat)
  | fence
  | lr (rd rs1 n : Nat)
  | sc (rd rs1 rs2 n : Nat)
  | amo (f : AtomOp) (rd rs1 rs2 n : Nat)
  | csr (f : RvCsr) (rd : Nat) (src : Nat) (imm : Bool) (num : Nat)
  | ecall
  | ebreak
  | mret
  | wfi
  deriving DecidableEq, Repr

/-- A sign-extended number of `n` bits. -/
def rvSx (n x : Nat) : DWord := BitVec.ofInt 64 (sval n x)

/-- Put bit fields together: each (where it stands, its width, where it goes). -/
def gather (w : Nat) (l : List (Nat × Nat × Nat)) : Nat := (l.map fun e => nbits w e.1 e.2.1 * 2 ^ e.2.2).sum

/-- Arithmetic by funct3 and funct7 (OP), and what has a word form. -/
def aluOf (f7 f3 : Nat) : Option RvAlu :=
  match f7, f3 with
  | 0, 0 => some .add | 0, 1 => some .sll | 0, 2 => some .slt | 0, 3 => some .sltu
  | 0, 4 => some .xor | 0, 5 => some .srl | 0, 6 => some .or | 0, 7 => some .and
  | 0x20, 0 => some .sub | 0x20, 5 => some .sra
  | 1, 0 => some .mul | 1, 1 => some .mulh | 1, 2 => some .mulhsu | 1, 3 => some .mulhu
  | 1, 4 => some .div | 1, 5 => some .divu | 1, 6 => some .rem | 1, 7 => some .remu
  | _, _ => none
def hasWord (f : RvAlu) : Bool :=
  [RvAlu.add, .sub, .sll, .srl, .sra, .mul, .div, .divu, .rem, .remu].contains f

/-- AMO operations by funct5. -/
def amoOf (f5 : Nat) : Option AtomOp :=
  match f5 with
  | 1 => some .swp | 0 => some .add | 4 => some .xor | 0xC => some .and | 8 => some .or
  | 0x10 => some .min | 0x14 => some .max | 0x18 => some .minu | 0x1C => some .maxu | _ => none

/-- Decode a 32-bit instruction. -/
def decode32 (w : Nat) : Option Rv :=
  let rd := nbits w 7 5
  let f3 := nbits w 12 3
  let rs1 := nbits w 15 5
  let rs2 := nbits w 20 5
  let f7 := nbits w 25 7
  let immI := rvSx 12 (nbits w 20 12)
  match nbits w 0 7 with
  | 0x37 => some (.lui rd (rvSx 32 (nbits w 12 20 * 2 ^ 12)))
  | 0x17 => some (.auipc rd (rvSx 32 (nbits w 12 20 * 2 ^ 12)))
  | 0x6F => some (.jal rd (rvSx 21 (gather w [(31, 1, 20), (12, 8, 12), (20, 1, 11), (21, 10, 1)])))
  | 0x67 => if f3 = 0 then some (.jalr rd rs1 immI) else none
  | 0x63 =>
    let off := rvSx 13 (gather w [(31, 1, 12), (7, 1, 11), (25, 6, 5), (8, 4, 1)])
    match f3 with
    | 0 => some (.branch .eq rs1 rs2 off) | 1 => some (.branch .ne rs1 rs2 off)
    | 4 => some (.branch .lt rs1 rs2 off) | 5 => some (.branch .ge rs1 rs2 off)
    | 6 => some (.branch .ltu rs1 rs2 off) | 7 => some (.branch .geu rs1 rs2 off)
    | _ => none
  | 0x03 => if f3 = 7 then none else some (.load rd rs1 immI (2 ^ (f3 % 4)) (decide (f3 < 4)))
  | 0x23 => if f3 < 4 then some (.store rs1 rs2 (rvSx 12 (gather w [(25, 7, 5), (7, 5, 0)])) (2 ^ f3)) else none
  | 0x13 =>
    if f3 = 1 then (if nbits w 26 6 = 0 then some (.opImm .sll false rd rs1 (BitVec.ofNat 64 (nbits w 20 6))) else none)
    else if f3 = 5 then
      let sh := BitVec.ofNat 64 (nbits w 20 6)
      if nbits w 26 6 = 0 then some (.opImm .srl false rd rs1 sh)
      else if nbits w 26 6 = 0x10 then some (.opImm .sra false rd rs1 sh) else none
    else (aluOf 0 f3).map fun f => .opImm f false rd rs1 immI
  | 0x1B =>
    if f3 = 0 then some (.opImm .add true rd rs1 immI)
    else if f3 = 1 && f7 = 0 then some (.opImm .sll true rd rs1 (BitVec.ofNat 64 rs2))
    else if f3 = 5 && f7 = 0 then some (.opImm .srl true rd rs1 (BitVec.ofNat 64 rs2))
    else if f3 = 5 && f7 = 0x20 then some (.opImm .sra true rd rs1 (BitVec.ofNat 64 rs2)) else none
  | 0x33 => (aluOf f7 f3).map fun f => .op f false rd rs1 rs2
  | 0x3B =>
    match aluOf f7 f3 with
    | some f => if hasWord f then some (.op f true rd rs1 rs2) else none
    | none => none
  | 0x0F => if f3 < 2 then some .fence else none
  | 0x2F =>
    let f5 := nbits w 27 5
    let n := 2 ^ f3
    if !(f3 = 2 || f3 = 3) then none
    else if f5 = 2 then (if rs2 = 0 then some (.lr rd rs1 n) else none)
    else if f5 = 3 then some (.sc rd rs1 rs2 n)
    else (amoOf f5).map fun f => .amo f rd rs1 rs2 n
  | 0x73 =>
    let imm := decide (4 ≤ f3)
    match f3 % 4 with
    | 1 => some (.csr .write rd rs1 imm (nbits w 20 12))
    | 2 => some (.csr .set rd rs1 imm (nbits w 20 12))
    | 3 => some (.csr .clear rd rs1 imm (nbits w 20 12))
    | _ =>
      if w = 0x73 then some .ecall
      else if w = 0x0010_0073 then some .ebreak
      else if w = 0x3020_0073 then some .mret
      else if w = 0x1050_0073 then some .wfi
      else none
  | _ => none

/-- Decode a compressed instruction. -/
def decode16 (w : Nat) : Option Rv :=
  let f3 := nbits w 13 3
  let rd := nbits w 7 5
  let r2 := nbits w 2 5
  let a := nbits w 7 3 + 8
  let b := nbits w 2 3 + 8
  let imm6 := rvSx 6 (gather w [(12, 1, 5), (2, 5, 0)])
  let sh := BitVec.ofNat 64 (gather w [(12, 1, 5), (2, 5, 0)])
  let lw := BitVec.ofNat 64 (gather w [(10, 3, 3), (6, 1, 2), (5, 1, 6)])
  let ld := BitVec.ofNat 64 (gather w [(10, 3, 3), (5, 2, 6)])
  let br := rvSx 9 (gather w [(12, 1, 8), (10, 2, 3), (5, 2, 6), (3, 2, 1), (2, 1, 5)])
  match nbits w 0 2, f3 with
  | 0, 0 =>
    let imm := gather w [(11, 2, 4), (7, 4, 6), (6, 1, 2), (5, 1, 3)]
    if imm = 0 then none else some (.opImm .add false b 2 (BitVec.ofNat 64 imm))
  | 0, 2 => some (.load b a lw 4 true)
  | 0, 3 => some (.load b a ld 8 true)
  | 0, 6 => some (.store a b lw 4)
  | 0, 7 => some (.store a b ld 8)
  | 1, 0 => some (.opImm .add false rd rd imm6)
  | 1, 1 => if rd = 0 then none else some (.opImm .add true rd rd imm6)
  | 1, 2 => some (.opImm .add false rd 0 imm6)
  | 1, 3 =>
    if rd = 2 then
      let imm := gather w [(12, 1, 9), (6, 1, 4), (5, 1, 6), (3, 2, 7), (2, 1, 5)]
      if imm = 0 then none else some (.opImm .add false 2 2 (rvSx 10 imm))
    else
      let imm := gather w [(12, 1, 17), (2, 5, 12)]
      if imm = 0 then none else some (.lui rd (rvSx 18 imm))
  | 1, 4 =>
    match nbits w 10 2 with
    | 0 => some (.opImm .srl false a a sh)
    | 1 => some (.opImm .sra false a a sh)
    | 2 => some (.opImm .and false a a imm6)
    | _ =>
      match nbits w 12 1, nbits w 5 2 with
      | 0, 0 => some (.op .sub false a a b) | 0, 1 => some (.op .xor false a a b)
      | 0, 2 => some (.op .or false a a b) | 0, _ => some (.op .and false a a b)
      | _, 0 => some (.op .sub true a a b) | _, 1 => some (.op .add true a a b)
      | _, _ => none
  | 1, 5 =>
    some (.jal 0 (rvSx 12 (gather w [(12, 1, 11), (11, 1, 4), (9, 2, 8), (8, 1, 10), (7, 1, 6), (6, 1, 7), (3, 3, 1), (2, 1, 5)])))
  | 1, 6 => some (.branch .eq a 0 br)
  | 1, 7 => some (.branch .ne a 0 br)
  | 2, 0 => some (.opImm .sll false rd rd sh)
  | 2, 2 =>
    if rd = 0 then none else some (.load rd 2 (BitVec.ofNat 64 (gather w [(12, 1, 5), (4, 3, 2), (2, 2, 6)])) 4 true)
  | 2, 3 =>
    if rd = 0 then none else some (.load rd 2 (BitVec.ofNat 64 (gather w [(12, 1, 5), (5, 2, 3), (2, 3, 6)])) 8 true)
  | 2, 4 =>
    if nbits w 12 1 = 0 then
      if r2 = 0 then (if rd = 0 then none else some (.jalr 0 rd 0)) else some (.op .add false rd 0 r2)
    else if r2 = 0 then (if rd = 0 then some .ebreak else some (.jalr 1 rd 0))
    else some (.op .add false rd rd r2)
  | 2, 6 => some (.store 2 r2 (BitVec.ofNat 64 (gather w [(9, 4, 2), (7, 2, 6)])) 4)
  | 2, 7 => some (.store 2 r2 (BitVec.ofNat 64 (gather w [(10, 3, 3), (7, 3, 6)])) 8)
  | _, _ => none

/-! Arithmetic. -/

/-- Division toward zero with RISC-V's corners: a zero divisor, and the overflow. -/
def rvDiv (a b : DWord) : DWord := if b = 0 then BitVec.allOnes 64 else a.sdiv b
def rvRem (a b : DWord) : DWord := if b = 0 then a else a.srem b
def rvDivU (a b : DWord) : DWord := if b = 0 then BitVec.allOnes 64 else a / b
def rvRemU (a b : DWord) : DWord := if b = 0 then a else a % b

/-- The arithmetic on doublewords. -/
def alu64 (f : RvAlu) (a b : DWord) : DWord :=
  let sh := b.toNat % 64
  match f with
  | .add => a + b
  | .sub => a - b
  | .sll => a <<< sh
  | .slt => if a.toInt < b.toInt then 1 else 0
  | .sltu => if a.toNat < b.toNat then 1 else 0
  | .xor => a ^^^ b
  | .srl => a >>> sh
  | .sra => a.sshiftRight sh
  | .or => a ||| b
  | .and => a &&& b
  | .mul => a * b
  | .mulh => BitVec.ofInt 64 (a.toInt * b.toInt / 2 ^ 64)
  | .mulhsu => BitVec.ofInt 64 (a.toInt * b.toNat / 2 ^ 64)
  | .mulhu => BitVec.ofNat 64 (a.toNat * b.toNat / 2 ^ 64)
  | .div => rvDiv a b
  | .divu => rvDivU a b
  | .rem => rvRem a b
  | .remu => rvRemU a b

/-- The word forms: on the low 32 bits, the result sign-extended. -/
def alu32 (f : RvAlu) (a b : DWord) : DWord :=
  let x : Word := a.setWidth 32
  let y : Word := b.setWidth 32
  let sh := b.toNat % 32
  let r : Word := match f with
    | .add => x + y
    | .sub => x - y
    | .sll => x <<< sh
    | .srl => x >>> sh
    | .sra => x.sshiftRight sh
    | .mul => x * y
    | .div => if y = 0 then BitVec.allOnes 32 else x.sdiv y
    | .divu => if y = 0 then BitVec.allOnes 32 else x / y
    | .rem => if y = 0 then x else x.srem y
    | .remu => if y = 0 then x else x % y
    | _ => x
  sx64 r

/-- Is a branch taken? -/
def RvCond.holds (c : RvCond) (a b : DWord) : Bool :=
  match c with
  | .eq => decide (a = b)
  | .ne => decide (a ≠ b)
  | .lt => decide (a.toInt < b.toInt)
  | .ge => decide (b.toInt ≤ a.toInt)
  | .ltu => decide (a.toNat < b.toNat)
  | .geu => decide (b.toNat ≤ a.toNat)

/-! The physical map (R505, R506). -/

/-- A result or an exception: its cause and mtval. -/
abbrev RvRes (α : Type) := Except (Nat × DWord) α

/-- What an address names. -/
inductive RvPlace
  | itcm (o : Nat) | dtcm (o : Nat)
  | reg (core n : Nat)
  | mem (pa : Nat) | host (b : Nat)
  | nothing
  deriving DecidableEq, Repr

/-- The map (R505): `n` bytes at an aligned address. A register access is an aligned doubleword of a number that the
window reaches (R506). -/
def rvPlace (a n : Nat) : RvPlace :=
  if a < 0x4_0000 then .itcm a
  else if among a 0x10_0000 0x4_0000 then .dtcm (a - 0x10_0000)
  else if among a 0x1000_0000 0x8000 then
    let i := (a - 0x1000_0000) / 8
    if n = 8 && (regAccess i).isSome && regScope i = .device then .reg 0 i else .nothing
  else if among a 0x1100_0000 (0x8000 * 128) then
    let i := a % 0x8000 / 8
    if n = 8 && (regAccess i).isSome && regScope i ≠ .device then .reg ((a - 0x1100_0000) / 0x8000) i else .nothing
  else if among a 0x80_0000_0000 Config.memBytes then .mem (a - 0x80_0000_0000)
  else if among a (2 ^ 48) (2 ^ 48) then .host (a - 2 ^ 48)
  else .nothing

/-- Change the processor. -/
def State.updRv (s : State) (f : Riscv → Riscv) : State := { s with rv := f s.rv }

/-- Bytes of a tightly coupled memory. -/
def tcmRead (m : SMap Byte) (o n : Nat) : Nat := ofBytes ((upto o n).map fun a => SMap.get 0 m a)
def tcmWrite (m : SMap Byte) (o n v : Nat) : SMap Byte := (placed o (bytesOf n v)).foldl (fun m e => SMap.put m e.1 e.2) m

/-- A register access as a doubleword: a trap of it is an access fault. -/
def rvReg {α : Type} (cause : Nat) (a : Nat) (x : Act α) : Act (RvRes α) := do
  match ← attemptUndo x with
  | .ok v => return .ok v
  | .error (.trap _ _) => return .error (cause, BitVec.ofNat 64 a)
  | .error e => throw e

/-- Load `n` bytes; `store` says that a store's causes apply. -/
def rvLoad (store : Bool) (a n : Nat) : Act (RvRes Nat) := do
  let s ← get
  let bad := if store then 7 else 5
  let tval := BitVec.ofNat 64 a
  if a % n ≠ 0 then return .error (bad - 1, tval)
  else
    match rvPlace a n with
    | .itcm o => return .ok (tcmRead s.rv.itcm o n)
    | .dtcm o => return .ok (tcmRead s.rv.dtcm o n)
    | .reg c i => rvReg bad a (readReg c false i)
    | .mem pa => if s.m.poison.contains (pa / 128) then return .error (bad, tval) else return .ok (s.m.readNat pa n)
    | .host b => return .ok (ofBytes (hostRead s b n))
    | .nothing => return .error (bad, tval)

/-- Store `n` bytes. -/
def rvStore (a n v : Nat) : Act (RvRes Unit) := do
  let s ← get
  let tval := BitVec.ofNat 64 a
  if a % n ≠ 0 then return .error (6, tval)
  else
    match rvPlace a n with
    | .itcm o => return .ok (← set (s.updRv fun x => { x with itcm := tcmWrite x.itcm o n v }))
    | .dtcm o => return .ok (← set (s.updRv fun x => { x with dtcm := tcmWrite x.dtcm o n v }))
    | .reg c i => rvReg 7 a (writeReg none false c i (BitVec.ofNat 64 v))
    | .mem pa => return .ok (← set (commitLocal none (placed pa (bytesOf n v)) s))
    | .host b => return .ok (← set (hostWrite b (bytesOf n v) s))
    | .nothing => return .error (7, tval)

/-! Control and status registers (R504, R507). -/

/-- MEIP (R507). -/
def meip (s : State) : Bool := svPending s.sv &&& s.sv.ien.toNat ≠ 0

/-- mcycle now: it counts at 1.2 GHz, two for every three clocks (R504). -/
def mcycleNow (s : State) : DWord :=
  if s.rv.inhibit.getLsbD 0 then s.rv.mcycle else s.rv.mcycle + BitVec.ofNat 64 (s.cycle * 2 / 3 - s.rv.cycleAt * 2 / 3)

/-- Read a CSR; none where there is none. -/
def csrRead (s : State) (n : Nat) : Option DWord :=
  let r := s.rv
  match n with
  | 0x300 => some (BitVec.ofNat 64 (b2n r.mie * 8 + b2n r.mpie * 128 + 0x1800))
  | 0x301 => some (BitVec.ofNat 64 (2 ^ 63 + 2 ^ 12 + 2 ^ 8 + 2 ^ 2 + 1))
  | 0x304 => some (BitVec.ofNat 64 (b2n r.msie * 8 + b2n r.mtie * 128 + b2n r.meie * 2048))
  | 0x305 => some r.mtvec
  | 0x320 => some (r.inhibit.setWidth 64)
  | 0x340 => some r.mscratch
  | 0x341 => some r.mepc
  | 0x342 => some r.mcause
  | 0x343 => some r.mtval
  | 0x344 => some (BitVec.ofNat 64 (b2n (meip s) * 2048))
  | 0xB00 => some (mcycleNow s)
  | 0xC00 => some (mcycleNow s)
  | 0xB02 => some r.minstret
  | 0xC02 => some r.minstret
  | _ => if among n 0xF11 5 || among n 0x323 29 || among n 0xB03 29 then some 0 else none

/-- Write a CSR that is not read-only. -/
def csrWrite (n : Nat) (v : DWord) (s : State) : State :=
  let bit := fun i => v.getLsbD i
  match n with
  | 0x300 => s.updRv fun r => { r with mie := bit 3, mpie := bit 7 }
  | 0x304 => s.updRv fun r => { r with msie := bit 3, mtie := bit 7, meie := bit 11 }
  | 0x305 => s.updRv fun r => { r with mtvec := v &&& ~~~2 }
  | 0x320 => s.updRv fun r => { r with mcycle := mcycleNow s, cycleAt := s.cycle, inhibit := bits v 0 3 &&& 5 }
  | 0x340 => s.updRv fun r => { r with mscratch := v }
  | 0x341 => s.updRv fun r => { r with mepc := v &&& ~~~1 }
  | 0x342 => s.updRv fun r => { r with mcause := v }
  | 0x343 => s.updRv fun r => { r with mtval := v }
  | 0xB00 => s.updRv fun r => { r with mcycle := v, cycleAt := s.cycle }
  | 0xB02 => s.updRv fun r => { r with minstret := v }
  | _ => s

/-! Execution. -/

/-- Registers; x0 reads 0. -/
def Riscv.reg (r : Riscv) (n : Nat) : DWord := if n = 0 then 0 else SMap.get 0 r.x n
def setX (n : Nat) (v : DWord) : Act Unit :=
  if n = 0 then pure () else modify fun s => s.updRv fun r => { r with x := SMap.put r.x n v }

/-- Continue at an address. -/
def rvGoto (a : DWord) : Act Unit := modify fun s => s.updRv fun r => { r with pc := a }

/-- Take a trap: an exception, or an interrupt whose cause has bit 63. -/
def rvTrap (cause : Nat) (tval : DWord) : Act Unit :=
  modify fun s => s.updRv fun r =>
    let base := r.mtvec &&& ~~~3
    { r with
      mepc := r.pc, mcause := BitVec.ofNat 64 cause, mtval := tval, mpie := r.mie, mie := false
      pc := if r.mtvec.getLsbD 0 && decide (2 ^ 63 ≤ cause) then base + BitVec.ofNat 64 (4 * (cause % 2 ^ 63)) else base }

/-- The value of a load. -/
def extend (n : Nat) (signed : Bool) (v : Nat) : DWord := if signed then rvSx (8 * n) v else BitVec.ofNat 64 v

/-- A CSR instruction. -/
def rvCsr (f : RvCsr) (rd src : Nat) (imm : Bool) (num : Nat) (w next : DWord) : Act (RvRes Unit) := do
  let s ← get
  let x := if imm then BitVec.ofNat 64 src else s.rv.reg src
  let writes := f = .write || src ≠ 0
  match csrRead s num with
  | none => return .error (2, w)
  | some old =>
    if writes && num / 2 ^ 10 = 3 then return .error (2, w)
    else
      if writes then
        modify (csrWrite num (match f with | .write => x | .set => old ||| x | .clear => old &&& ~~~x))
      else pure ()
      setX rd old
      return .ok (← rvGoto next)

/-- Execute an instruction of `w`, the next one standing at `next`: an exception leaves everything but what a register
access did. -/
def rvExec (i : Rv) (w next : DWord) : Act (RvRes Unit) := do
  let s ← get
  let r := s.rv
  let done : Nat → DWord → Act (RvRes Unit) := fun rd v => do
    setX rd v
    return .ok (← rvGoto next)
  match i with
  | .lui rd imm => done rd imm
  | .auipc rd imm => done rd (r.pc + imm)
  | .jal rd off =>
    setX rd next
    return .ok (← rvGoto (r.pc + off))
  | .jalr rd rs1 off =>
    setX rd next
    return .ok (← rvGoto ((r.reg rs1 + off) &&& ~~~1))
  | .branch c rs1 rs2 off => return .ok (← rvGoto (if c.holds (r.reg rs1) (r.reg rs2) then r.pc + off else next))
  | .load rd rs1 off n sg =>
    match ← rvLoad false (r.reg rs1 + off).toNat n with
    | .ok v => done rd (extend n sg v)
    | .error e => return .error e
  | .store rs1 rs2 off n =>
    match ← rvStore (r.reg rs1 + off).toNat n ((r.reg rs2).toNat % 2 ^ (8 * n)) with
    | .ok _ => return .ok (← rvGoto next)
    | .error e => return .error e
  | .opImm f word rd rs1 imm => done rd (if word then alu32 f (r.reg rs1) imm else alu64 f (r.reg rs1) imm)
  | .op f word rd rs1 rs2 => done rd (if word then alu32 f (r.reg rs1) (r.reg rs2) else alu64 f (r.reg rs1) (r.reg rs2))
  | .fence => return .ok (← rvGoto next)
  | .lr rd rs1 n =>
    match ← rvLoad false (r.reg rs1).toNat n with
    | .ok v =>
      modify fun s => s.updRv fun x => { x with resv := some ((x.reg rs1).toNat, s.m.pubCount, s.m.unstamped) }
      done rd (extend n true v)
    | .error e => return .error e
  | .sc rd rs1 rs2 n =>
    let a := (r.reg rs1).toNat
    modify fun s => s.updRv fun x => { x with resv := none }
    if a % n ≠ 0 then return .error (6, BitVec.ofNat 64 a)
    else if r.resv = some (a, s.m.pubCount, s.m.unstamped) then
      match ← rvStore a n ((r.reg rs2).toNat % 2 ^ (8 * n)) with
      | .ok _ => done rd 0
      | .error e => return .error e
    else if rvPlace a n = .nothing then return .error (7, BitVec.ofNat 64 a)
    else done rd 1
  | .amo f rd rs1 rs2 n =>
    let a := (r.reg rs1).toNat
    match ← rvLoad true a n with
    | .error e => return .error e
    | .ok old =>
      match ← rvStore a n ((atomNew f (8 * n) old ((r.reg rs2).toNat % 2 ^ (8 * n)) 0).getD old) with
      | .ok _ => done rd (extend n true old)
      | .error e => return .error e
  | .csr f rd src imm num => rvCsr f rd src imm num w next
  | .ecall => return .error (11, 0)
  | .ebreak => return .error (3, r.pc)
  | .mret =>
    modify fun s => s.updRv fun x => { x with mie := x.mpie, mpie := true }
    return .ok (← rvGoto r.mepc)
  | .wfi =>
    modify fun s => s.updRv fun x => { x with waiting := true }
    return .ok (← rvGoto next)

/-- The 16 bits at an address of the ITCM, which alone is executable (R505; log 30). -/
def fetchHalf (s : State) (a : Nat) : Option Nat := if a < 0x4_0000 then some (tcmRead s.rv.itcm a 2) else none

/-- The instruction at the program counter: its bits and length, or the address that cannot be fetched. -/
def rvFetch (s : State) : Except DWord (Nat × Nat) :=
  let a := s.rv.pc.toNat
  match fetchHalf s a with
  | none => .error s.rv.pc
  | some lo =>
    if lo % 4 ≠ 3 then .ok (lo, 2)
    else
      match fetchHalf s (a + 2) with
      | none => .error (s.rv.pc + 2)
      | some hi => .ok (lo + hi * 2 ^ 16, 4)

/-- Does an instruction write minstret itself? What it writes is not counted up (log 30). -/
def Rv.setsCount : Rv → Bool
  | .csr f _ src _ num => num = 0xB02 && (f = .write || src ≠ 0)
  | _ => false

/-- One instruction, or one interrupt (R504, R507). -/
def rvStep : Act Unit := do
  let s ← get
  let pending := meip s && s.rv.meie
  if s.rv.waiting && !pending then pure ()
  else
    set (s.updRv fun r => { r with waiting := false })
    if pending && s.rv.mie then rvTrap (2 ^ 63 + 11) 0
    else
      match rvFetch s with
      | .error a => rvTrap 1 a
      | .ok (w, n) =>
        match if n = 2 then decode16 w else decode32 w with
        | none => rvTrap 2 (BitVec.ofNat 64 w)
        | some i =>
          match ← rvExec i (BitVec.ofNat 64 w) (s.rv.pc + BitVec.ofNat 64 n) with
          | .ok _ =>
            if s.rv.inhibit.getLsbD 2 || i.setsCount then pure ()
            else modify fun t => t.updRv fun r => { r with minstret := r.minstret + 1 }
          | .error (cause, tval) =>
            modify fun t => t.updRv fun r => { r with pc := s.rv.pc }
            rvTrap cause tval

/-- SAMOVAR_INSTRUCTION (R504–R507): the samovar executes one instruction. -/
def execSamovarInstruction (s : State) : Host.Outcome State Fault Refusal :=
  event (fun s => s.rv.on && !s.off) (whole rvStep) s

end Sys2Proof.Machine
end

