-- ==== Sys2Proof/Machine/Dispatch.lean ====
section
/-! DEFINITION. One arm per row of the table of operations and events. -/

namespace Sys2Proof.Machine

def exec (i : Instr) (s : State) : Host.Outcome State Fault Refusal :=
  match i with
  | .add o => Sys2Proof.Machine.execAdd o s
  | .sub o => Sys2Proof.Machine.execSub o s
  | .min o => Sys2Proof.Machine.execMin o s
  | .max o => Sys2Proof.Machine.execMax o s
  | .minu o => Sys2Proof.Machine.execMinu o s
  | .maxu o => Sys2Proof.Machine.execMaxu o s
  | .and o => Sys2Proof.Machine.execAnd o s
  | .or o => Sys2Proof.Machine.execOr o s
  | .xor o => Sys2Proof.Machine.execXor o s
  | .andn o => Sys2Proof.Machine.execAndn o s
  | .shl o => Sys2Proof.Machine.execShl o s
  | .shr o => Sys2Proof.Machine.execShr o s
  | .sar o => Sys2Proof.Machine.execSar o s
  | .ror o => Sys2Proof.Machine.execRor o s
  | .mul o => Sys2Proof.Machine.execMul o s
  | .mulh o => Sys2Proof.Machine.execMulh o s
  | .mulhu o => Sys2Proof.Machine.execMulhu o s
  | .div o => Sys2Proof.Machine.execDiv o s
  | .divu o => Sys2Proof.Machine.execDivu o s
  | .rem o => Sys2Proof.Machine.execRem o s
  | .remu o => Sys2Proof.Machine.execRemu o s
  | .addi o => Sys2Proof.Machine.execAddi o s
  | .andi o => Sys2Proof.Machine.execAndi o s
  | .ori o => Sys2Proof.Machine.execOri o s
  | .xori o => Sys2Proof.Machine.execXori o s
  | .shli o => Sys2Proof.Machine.execShli o s
  | .shri o => Sys2Proof.Machine.execShri o s
  | .sari o => Sys2Proof.Machine.execSari o s
  | .li o => Sys2Proof.Machine.execLi o s
  | .lih o => Sys2Proof.Machine.execLih o s
  | .clz o => Sys2Proof.Machine.execClz o s
  | .ctz o => Sys2Proof.Machine.execCtz o s
  | .popc o => Sys2Proof.Machine.execPopc o s
  | .bfx o => Sys2Proof.Machine.execBfx o s
  | .bfxu o => Sys2Proof.Machine.execBfxu o s
  | .bfi o => Sys2Proof.Machine.execBfi o s
  | .lea o => Sys2Proof.Machine.execLea o s
  | .sel o => Sys2Proof.Machine.execSel o s
  | .cmpEq o => Sys2Proof.Machine.execCmpEq o s
  | .cmpNe o => Sys2Proof.Machine.execCmpNe o s
  | .cmpLt o => Sys2Proof.Machine.execCmpLt o s
  | .cmpLe o => Sys2Proof.Machine.execCmpLe o s
  | .cmpLtu o => Sys2Proof.Machine.execCmpLtu o s
  | .cmpLeu o => Sys2Proof.Machine.execCmpLeu o s
  | .cmpiEq o => Sys2Proof.Machine.execCmpiEq o s
  | .cmpiNe o => Sys2Proof.Machine.execCmpiNe o s
  | .cmpiLt o => Sys2Proof.Machine.execCmpiLt o s
  | .cmpiLe o => Sys2Proof.Machine.execCmpiLe o s
  | .cmpiLtu o => Sys2Proof.Machine.execCmpiLtu o s
  | .cmpiLeu o => Sys2Proof.Machine.execCmpiLeu o s
  | .pset o => Sys2Proof.Machine.execPset o s
  | .pmovAnd o => Sys2Proof.Machine.execPmovAnd o s
  | .pmovOr o => Sys2Proof.Machine.execPmovOr o s
  | .pmovXor o => Sys2Proof.Machine.execPmovXor o s
  | .pmovAndn o => Sys2Proof.Machine.execPmovAndn o s
  | .br o => Sys2Proof.Machine.execBr o s
  | .call o => Sys2Proof.Machine.execCall o s
  | .jr o => Sys2Proof.Machine.execJr o s
  | .loop o => Sys2Proof.Machine.execLoop o s
  | .lds o => Sys2Proof.Machine.execLds o s
  | .sts o => Sys2Proof.Machine.execSts o s
  | .atomAdd o => Sys2Proof.Machine.execAtomAdd o s
  | .atomAnd o => Sys2Proof.Machine.execAtomAnd o s
  | .atomOr o => Sys2Proof.Machine.execAtomOr o s
  | .atomXor o => Sys2Proof.Machine.execAtomXor o s
  | .atomMin o => Sys2Proof.Machine.execAtomMin o s
  | .atomMax o => Sys2Proof.Machine.execAtomMax o s
  | .atomMinu o => Sys2Proof.Machine.execAtomMinu o s
  | .atomMaxu o => Sys2Proof.Machine.execAtomMaxu o s
  | .atomSwp o => Sys2Proof.Machine.execAtomSwp o s
  | .cas o => Sys2Proof.Machine.execCas o s
  | .tkwait o => Sys2Proof.Machine.execTkwait o s
  | .tkpost o => Sys2Proof.Machine.execTkpost o s
  | .semwait o => Sys2Proof.Machine.execSemwait o s
  | .semadd o => Sys2Proof.Machine.execSemadd o s
  | .semset o => Sys2Proof.Machine.execSemset o s
  | .arvw o => Sys2Proof.Machine.execArvw o s
  | .arvclr o => Sys2Proof.Machine.execArvclr o s
  | .fence o => Sys2Proof.Machine.execFence o s
  | .acq o => Sys2Proof.Machine.execAcq o s
  | .barv o => Sys2Proof.Machine.execBarv o s
  | .barw o => Sys2Proof.Machine.execBarw o s
  | .mqadv o => Sys2Proof.Machine.execMqadv o s
  | .wset o => Sys2Proof.Machine.execWset o s
  | .wrel o => Sys2Proof.Machine.execWrel o s
  | .hset o => Sys2Proof.Machine.execHset o s
  | .tmpld o => Sys2Proof.Machine.execTmpld o s
  | .trap o => Sys2Proof.Machine.execTrap o s
  | .sysr o => Sys2Proof.Machine.execSysr o s
  | .sysw o => Sys2Proof.Machine.execSysw o s
  | .nestq o => Sys2Proof.Machine.execNestq o s
  | .nestf o => Sys2Proof.Machine.execNestf o s
  | .nestr o => Sys2Proof.Machine.execNestr o s
  | .nests o => Sys2Proof.Machine.execNests o s
  | .sbindLd o => Sys2Proof.Machine.execSbindLd o s
  | .sunbLd o => Sys2Proof.Machine.execSunbLd o s
  | .ldq o => Sys2Proof.Machine.execLdq o s
  | .gath o => Sys2Proof.Machine.execGath o s
  | .ldt o => Sys2Proof.Machine.execLdt o s
  | .mfill o => Sys2Proof.Machine.execMfill o s
  | .pref o => Sys2Proof.Machine.execPref o s
  | .nli o => Sys2Proof.Machine.execNli o s
  | .nadd o => Sys2Proof.Machine.execNadd o s
  | .naddi o => Sys2Proof.Machine.execNaddi o s
  | .ncmpEq o => Sys2Proof.Machine.execNcmpEq o s
  | .ncmpNe o => Sys2Proof.Machine.execNcmpNe o s
  | .ncmpLt o => Sys2Proof.Machine.execNcmpLt o s
  | .ncmpLe o => Sys2Proof.Machine.execNcmpLe o s
  | .ncmpLtu o => Sys2Proof.Machine.execNcmpLtu o s
  | .ncmpLeu o => Sys2Proof.Machine.execNcmpLeu o s
  | .nbr o => Sys2Proof.Machine.execNbr o s
  | .nloop o => Sys2Proof.Machine.execNloop o s
  | .sbindSt o => Sys2Proof.Machine.execSbindSt o s
  | .sunbSt o => Sys2Proof.Machine.execSunbSt o s
  | .stq o => Sys2Proof.Machine.execStq o s
  | .scat o => Sys2Proof.Machine.execScat o s
  | .stt o => Sys2Proof.Machine.execStt o s
  | .atomvAdd o => Sys2Proof.Machine.execAtomvAdd o s
  | .atomvAnd o => Sys2Proof.Machine.execAtomvAnd o s
  | .atomvOr o => Sys2Proof.Machine.execAtomvOr o s
  | .atomvXor o => Sys2Proof.Machine.execAtomvXor o s
  | .atomvMin o => Sys2Proof.Machine.execAtomvMin o s
  | .atomvMax o => Sys2Proof.Machine.execAtomvMax o s
  | .atomvMinu o => Sys2Proof.Machine.execAtomvMinu o s
  | .atomvMaxu o => Sys2Proof.Machine.execAtomvMaxu o s
  | .atomvSwp o => Sys2Proof.Machine.execAtomvSwp o s
  | .rput o => Sys2Proof.Machine.execRput o s
  | .mwb o => Sys2Proof.Machine.execMwb o s
  | .issueBundle h pm pa pb pf => Sys2Proof.Machine.execIssueBundle h pm pa pb pf s
  | .emptyBundle h => Sys2Proof.Machine.execEmptyBundle h s
  | .mls t => Sys2Proof.Machine.execMls t s
  | .accrd t => Sys2Proof.Machine.execAccrd t s
  | .accz t => Sys2Proof.Machine.execAccz t s
  | .accld t => Sys2Proof.Machine.execAccld t s
  | .amld t => Sys2Proof.Machine.execAmld t s
  | .draw t => Sys2Proof.Machine.execDraw t s
  | .mmaM8K1 t => Sys2Proof.Machine.execMmaM8K1 t s
  | .mmaM8K2 t => Sys2Proof.Machine.execMmaM8K2 t s
  | .mmaM8K4 t => Sys2Proof.Machine.execMmaM8K4 t s
  | .mmaM8K8 t => Sys2Proof.Machine.execMmaM8K8 t s
  | .mmaM16K1 t => Sys2Proof.Machine.execMmaM16K1 t s
  | .mmaM16K2 t => Sys2Proof.Machine.execMmaM16K2 t s
  | .mmaM16K4 t => Sys2Proof.Machine.execMmaM16K4 t s
  | .mmaM16K8 t => Sys2Proof.Machine.execMmaM16K8 t s
  | .mmaM32K1 t => Sys2Proof.Machine.execMmaM32K1 t s
  | .mmaM32K2 t => Sys2Proof.Machine.execMmaM32K2 t s
  | .mmaM32K4 t => Sys2Proof.Machine.execMmaM32K4 t s
  | .mmaM32K8 t => Sys2Proof.Machine.execMmaM32K8 t s
  | .mmaM64K1 t => Sys2Proof.Machine.execMmaM64K1 t s
  | .mmaM64K2 t => Sys2Proof.Machine.execMmaM64K2 t s
  | .mmaM64K4 t => Sys2Proof.Machine.execMmaM64K4 t s
  | .mmaM64K8 t => Sys2Proof.Machine.execMmaM64K8 t s
  | .vadd u => Sys2Proof.Machine.execVadd u s
  | .vsub u => Sys2Proof.Machine.execVsub u s
  | .vmul u => Sys2Proof.Machine.execVmul u s
  | .vfma u => Sys2Proof.Machine.execVfma u s
  | .vfms u => Sys2Proof.Machine.execVfms u s
  | .vmin u => Sys2Proof.Machine.execVmin u s
  | .vmax u => Sys2Proof.Machine.execVmax u s
  | .vabs u => Sys2Proof.Machine.execVabs u s
  | .vneg u => Sys2Proof.Machine.execVneg u s
  | .vand u => Sys2Proof.Machine.execVand u s
  | .vor u => Sys2Proof.Machine.execVor u s
  | .vxor u => Sys2Proof.Machine.execVxor u s
  | .vnot u => Sys2Proof.Machine.execVnot u s
  | .vshl u => Sys2Proof.Machine.execVshl u s
  | .vshr u => Sys2Proof.Machine.execVshr u s
  | .vsar u => Sys2Proof.Machine.execVsar u s
  | .vcmpEq u => Sys2Proof.Machine.execVcmpEq u s
  | .vcmpNe u => Sys2Proof.Machine.execVcmpNe u s
  | .vcmpLt u => Sys2Proof.Machine.execVcmpLt u s
  | .vcmpLe u => Sys2Proof.Machine.execVcmpLe u s
  | .vcmpGt u => Sys2Proof.Machine.execVcmpGt u s
  | .vcmpGe u => Sys2Proof.Machine.execVcmpGe u s
  | .vsel u => Sys2Proof.Machine.execVsel u s
  | .vmov u => Sys2Proof.Machine.execVmov u s
  | .vbcast u => Sys2Proof.Machine.execVbcast u s
  | .vperm u => Sys2Proof.Machine.execVperm u s
  | .vslide u => Sys2Proof.Machine.execVslide u s
  | .vredSum u => Sys2Proof.Machine.execVredSum u s
  | .vredMin u => Sys2Proof.Machine.execVredMin u s
  | .vredMax u => Sys2Proof.Machine.execVredMax u s
  | .vredAnd u => Sys2Proof.Machine.execVredAnd u s
  | .vredOr u => Sys2Proof.Machine.execVredOr u s
  | .vredXor u => Sys2Proof.Machine.execVredXor u s
  | .vscanSum u => Sys2Proof.Machine.execVscanSum u s
  | .vscanMin u => Sys2Proof.Machine.execVscanMin u s
  | .vscanMax u => Sys2Proof.Machine.execVscanMax u s
  | .vcvt u => Sys2Proof.Machine.execVcvt u s
  | .vscl u => Sys2Proof.Machine.execVscl u s
  | .vsclDerive u => Sys2Proof.Machine.execVsclDerive u s
  | .viota u => Sys2Proof.Machine.execViota u s
  | .vpopc u => Sys2Proof.Machine.execVpopc u s
  | .vfirst u => Sys2Proof.Machine.execVfirst u s
  | .vtopk u => Sys2Proof.Machine.execVtopk u s
  | .vld u => Sys2Proof.Machine.execVld u s
  | .vst u => Sys2Proof.Machine.execVst u s
  | .gate u => Sys2Proof.Machine.execGate u s
  | .vpen u => Sys2Proof.Machine.execVpen u s
  | .vsbias u => Sys2Proof.Machine.execVsbias u s
  | .vban u => Sys2Proof.Machine.execVban u s
  | .vmatch u => Sys2Proof.Machine.execVmatch u s
  | .vexp t => Sys2Proof.Machine.execVexp t s
  | .vlog t => Sys2Proof.Machine.execVlog t s
  | .vrcp t => Sys2Proof.Machine.execVrcp t s
  | .vrsq t => Sys2Proof.Machine.execVrsq t s
  | .vtanh t => Sys2Proof.Machine.execVtanh t s
  | .vsigm t => Sys2Proof.Machine.execVsigm t s
  | .cpy o => Sys2Proof.Machine.execCpy o s
  | .cpys o => Sys2Proof.Machine.execCpys o s
  | .cpyt o => Sys2Proof.Machine.execCpyt o s
  | .cpyd o => Sys2Proof.Machine.execCpyd o s
  | .lease o => Sys2Proof.Machine.execLease o s
  | .lrel o => Sys2Proof.Machine.execLrel o s
  | .msendP o => Sys2Proof.Machine.execMsendP o s
  | .msendH o => Sys2Proof.Machine.execMsendH o s
  | .disp o => Sys2Proof.Machine.execDisp o s
  | .cmb o => Sys2Proof.Machine.execCmb o s
  | .qwait o => Sys2Proof.Machine.execQwait o s
  | .qread o => Sys2Proof.Machine.execQread o s
  | .rlook o => Sys2Proof.Machine.execRlook o s
  | .rpin o => Sys2Proof.Machine.execRpin o s
  | .runpin o => Sys2Proof.Machine.execRunpin o s
  | .rfetch o => Sys2Proof.Machine.execRfetch o s
  | .revict o => Sys2Proof.Machine.execRevict o s
  | .rpolLayer o => Sys2Proof.Machine.execRpolLayer o s
  | .rpolUnlayer o => Sys2Proof.Machine.execRpolUnlayer o s
  | .rpolCat o => Sys2Proof.Machine.execRpolCat o s
  | .rpolUncat o => Sys2Proof.Machine.execRpolUncat o s
  | .sqopen o => Sys2Proof.Machine.execSqopen o s
  | .sqopenClose o => Sys2Proof.Machine.execSqopenClose o s
  | .sqframe o => Sys2Proof.Machine.execSqframe o s
  | .sqtrunc o => Sys2Proof.Machine.execSqtrunc o s
  | .sqckpt o => Sys2Proof.Machine.execSqckpt o s
  | .sqspec o => Sys2Proof.Machine.execSqspec o s
  | .sqcmit o => Sys2Proof.Machine.execSqcmit o s
  | .sqcurRead o => Sys2Proof.Machine.execSqcurRead o s
  | .sqcurPlay o => Sys2Proof.Machine.execSqcurPlay o s
  | .sqcurKv o => Sys2Proof.Machine.execSqcurKv o s
  | .prel o => Sys2Proof.Machine.execPrel o s
  | .pstat o => Sys2Proof.Machine.execPstat o s
  | .publish => Sys2Proof.Machine.execPublish s
  | .rftRetry => Sys2Proof.Machine.execRftRetry s
  | .rftSkip => Sys2Proof.Machine.execRftSkip s
  | .rftRedirect => Sys2Proof.Machine.execRftRedirect s
  | .yield => Sys2Proof.Machine.execYield s
  | .tend => Sys2Proof.Machine.execTend s
  | .tendAbort => Sys2Proof.Machine.execTendAbort s
  | .tendEsc => Sys2Proof.Machine.execTendEsc s
  | .nop => Sys2Proof.Machine.execNop s
  | .mnop => Sys2Proof.Machine.execMnop s
  | .heldAccessRetry => Sys2Proof.Machine.execHeldAccessRetry s
  | .flipLimitExpiry => Sys2Proof.Machine.execFlipLimitExpiry s
  | .flipToHostFinish => Sys2Proof.Machine.execFlipToHostFinish s
  | .windowFillDone => Sys2Proof.Machine.execWindowFillDone s
  | .deviceWriteback => Sys2Proof.Machine.execDeviceWriteback s
  | .publicationCommit => Sys2Proof.Machine.execPublicationCommit s
  | .scopeRefusalTimeout => Sys2Proof.Machine.execScopeRefusalTimeout s
  | .shadowWriteRelease => Sys2Proof.Machine.execShadowWriteRelease s
  | .snapshotPressure => Sys2Proof.Machine.execSnapshotPressure s
  | .snapshotExpired => Sys2Proof.Machine.execSnapshotExpired s
  | .dirtyEvictUncorrectable => Sys2Proof.Machine.execDirtyEvictUncorrectable s
  | .registerWrite => Sys2Proof.Machine.execRegisterWrite s
  | .barCfgWrite => Sys2Proof.Machine.execBarCfgWrite s
  | .muInvPage => Sys2Proof.Machine.execMuInvPage s
  | .muInvAsid => Sys2Proof.Machine.execMuInvAsid s
  | .muInvAll => Sys2Proof.Machine.execMuInvAll s
  | .muInvNone => Sys2Proof.Machine.execMuInvNone s
  | .nsRinvRegion => Sys2Proof.Machine.execNsRinvRegion s
  | .nsRinvAll => Sys2Proof.Machine.execNsRinvAll s
  | .ldShinvRegion => Sys2Proof.Machine.execLdShinvRegion s
  | .ldShinvAll => Sys2Proof.Machine.execLdShinvAll s
  | .tileDispatch => Sys2Proof.Machine.execTileDispatch s
  | .priorityAging => Sys2Proof.Machine.execPriorityAging s
  | .tileCommit => Sys2Proof.Machine.execTileCommit s
  | .yieldRequest => Sys2Proof.Machine.execYieldRequest s
  | .boundaryYield => Sys2Proof.Machine.execBoundaryYield s
  | .yieldDeadline => Sys2Proof.Machine.execYieldDeadline s
  | .saveComplete => Sys2Proof.Machine.execSaveComplete s
  | .saveBound => Sys2Proof.Machine.execSaveBound s
  | .tileRestore => Sys2Proof.Machine.execTileRestore s
  | .watchdog => Sys2Proof.Machine.execWatchdog s
  | .streamEntryRead => Sys2Proof.Machine.execStreamEntryRead s
  | .streamEntryLand => Sys2Proof.Machine.execStreamEntryLand s
  | .ldDirectOpComplete => Sys2Proof.Machine.execLdDirectOpComplete s
  | .heldFaultTrap => Sys2Proof.Machine.execHeldFaultTrap s
  | .stStreamEntryWrite => Sys2Proof.Machine.execStStreamEntryWrite s
  | .stDirectOpComplete => Sys2Proof.Machine.execStDirectOpComplete s
  | .mqGrant => Sys2Proof.Machine.execMqGrant s
  | .mqEntryLand => Sys2Proof.Machine.execMqEntryLand s
  | .mqFullTimeout => Sys2Proof.Machine.execMqFullTimeout s
  | .tokenPushDeliver => Sys2Proof.Machine.execTokenPushDeliver s
  | .lateFaultTrap => Sys2Proof.Machine.execLateFaultTrap s
  | .mlsStart => Sys2Proof.Machine.execMlsStart s
  | .shadowFull => Sys2Proof.Machine.execShadowFull s
  | .mmaKStep => Sys2Proof.Machine.execMmaKStep s
  | .copyChunkArrival => Sys2Proof.Machine.execCopyChunkArrival s
  | .copyComplete => Sys2Proof.Machine.execCopyComplete s
  | .copyFault => Sys2Proof.Machine.execCopyFault s
  | .leaseExpiry => Sys2Proof.Machine.execLeaseExpiry s
  | .shageanFlitReceive => Sys2Proof.Machine.execShageanFlitReceive s
  | .shageanGoBack => Sys2Proof.Machine.execShageanGoBack s
  | .linkAckTimeout => Sys2Proof.Machine.execLinkAckTimeout s
  | .linkResync => Sys2Proof.Machine.execLinkResync s
  | .shageanPacketReceive => Sys2Proof.Machine.execShageanPacketReceive s
  | .peerRequest => Sys2Proof.Machine.execPeerRequest s
  | .peerResponse => Sys2Proof.Machine.execPeerResponse s
  | .handlerInboxGrant => Sys2Proof.Machine.execHandlerInboxGrant s
  | .handlerMessage => Sys2Proof.Machine.execHandlerMessage s
  | .handlerEnqueueRetry => Sys2Proof.Machine.execHandlerEnqueueRetry s
  | .gateSetLoadReq => Sys2Proof.Machine.execGateSetLoadReq s
  | .gateSetBiasReload => Sys2Proof.Machine.execGateSetBiasReload s
  | .gateSetFreeReq => Sys2Proof.Machine.execGateSetFreeReq s
  | .gateSetLoad => Sys2Proof.Machine.execGateSetLoad s
  | .gateSetFree => Sys2Proof.Machine.execGateSetFree s
  | .tokenScore => Sys2Proof.Machine.execTokenScore s
  | .steeperScore => Sys2Proof.Machine.execSteeperScore s
  | .combineArrival => Sys2Proof.Machine.execCombineArrival s
  | .dropNoticeArrival => Sys2Proof.Machine.execDropNoticeArrival s
  | .waveStart => Sys2Proof.Machine.execWaveStart s
  | .wavePass => Sys2Proof.Machine.execWavePass s
  | .qwaitTimeout => Sys2Proof.Machine.execQwaitTimeout s
  | .jobCountersClear => Sys2Proof.Machine.execJobCountersClear s
  | .saucerCopyArrive => Sys2Proof.Machine.execSaucerCopyArrive s
  | .flushDeadline => Sys2Proof.Machine.execFlushDeadline s
  | .expertEnqueueRetry => Sys2Proof.Machine.execExpertEnqueueRetry s
  | .expertTileRetire => Sys2Proof.Machine.execExpertTileRetire s
  | .absenceThreshold => Sys2Proof.Machine.execAbsenceThreshold s
  | .fetchStart => Sys2Proof.Machine.execFetchStart s
  | .fetchComplete => Sys2Proof.Machine.execFetchComplete s
  | .fetchFail => Sys2Proof.Machine.execFetchFail s
  | .nvmeCompletion => Sys2Proof.Machine.execNvmeCompletion s
  | .nvmeTimeout => Sys2Proof.Machine.execNvmeTimeout s
  | .sqCplayWrite => Sys2Proof.Machine.execSqCplayWrite s
  | .lineFrameReceive => Sys2Proof.Machine.execLineFrameReceive s
  | .advertisementTimer => Sys2Proof.Machine.execAdvertisementTimer s
  | .portAcceptStart => Sys2Proof.Machine.execPortAcceptStart s
  | .portEnable => Sys2Proof.Machine.execPortEnable s
  | .portDisable => Sys2Proof.Machine.execPortDisable s
  | .whiskLoad => Sys2Proof.Machine.execWhiskLoad s
  | .coldReset => Sys2Proof.Machine.execColdReset s
  | .bootStagingWrite => Sys2Proof.Machine.execBootStagingWrite s
  | .bootGo => Sys2Proof.Machine.execBootGo s
  | .featureAccept => Sys2Proof.Machine.execFeatureAccept s
  | .ringEnable => Sys2Proof.Machine.execRingEnable s
  | .ringDoorbell => Sys2Proof.Machine.execRingDoorbell s
  | .ringEntryNest => Sys2Proof.Machine.execRingEntryNest s
  | .ringEntryCopy => Sys2Proof.Machine.execRingEntryCopy s
  | .ringEntryCopyin => Sys2Proof.Machine.execRingEntryCopyin s
  | .ringEntryAttest => Sys2Proof.Machine.execRingEntryAttest s
  | .apertureAccess => Sys2Proof.Machine.execApertureAccess s
  | .tdispLockInterface => Sys2Proof.Machine.execTdispLockInterface s
  | .tdispStartInterface => Sys2Proof.Machine.execTdispStartInterface s
  | .tdispStopInterface => Sys2Proof.Machine.execTdispStopInterface s
  | .hostAtomicCompletion => Sys2Proof.Machine.execHostAtomicCompletion s
  | .hostAtomicWithdraw => Sys2Proof.Machine.execHostAtomicWithdraw s
  | .thermalTrip => Sys2Proof.Machine.execThermalTrip s
  | .svNqEnqueue => Sys2Proof.Machine.execSvNqEnqueue s
  | .svNdonePop => Sys2Proof.Machine.execSvNdonePop s
  | .svFlipPop => Sys2Proof.Machine.execSvFlipPop s
  | .mailboxS2hSend => Sys2Proof.Machine.execMailboxS2hSend s
  | .mailboxH2sSend => Sys2Proof.Machine.execMailboxH2sSend s
  | .mailboxS2hClear => Sys2Proof.Machine.execMailboxS2hClear s
  | .mbAtomSeq => Sys2Proof.Machine.execMbAtomSeq s
  | .mbAtomClaim => Sys2Proof.Machine.execMbAtomClaim s
  | .mbAtomWdraw => Sys2Proof.Machine.execMbAtomWdraw s
  | .illegalOpcode => Sys2Proof.Machine.execIllegalOpcode s
  | .engineOperationComplete => Sys2Proof.Machine.execEngineOperationComplete s
  | .samovarInstruction => Sys2Proof.Machine.execSamovarInstruction s
  | .thermalSensorReading => Sys2Proof.Machine.execThermalSensorReading s
  | .powerLoss => Sys2Proof.Machine.execPowerLoss s
  | .linkStateChange => Sys2Proof.Machine.execLinkStateChange s
  | .doeMailboxMessage => Sys2Proof.Machine.execDoeMailboxMessage s

end Sys2Proof.Machine
end

