-- ==== Sys2Proof/Machine/Turn.lean ====
section
/-! DEFINITION. A sequencer's turn: examine stopped sequencers after a return from a trap, fetch, check the guard,
execute (04 R97, R109, 05 R121, R156). -/

namespace Sys2Proof.Machine

/-- Execute what has been fetched (04 R97, R109). -/
def runFetched (c : Nat) (q : Seq) (f : Fetched) (s : State) : Host.Outcome State Fault Refusal :=
  match f with
  | .bundle i _ => exec i s
  | .plain d n =>
    if d.i.isIllegal then exec .illegalOpcode s
    else if !wordOk q d then settle c q (trap .reservedField 0 s)
    else if !((s.coreOf c).preg d.g.toNat) then .next (s.advance c q n)
    else exec d.i { s with guard := d.g }

/-- Fetch and execute on sequencer `q` of core `c`. -/
def runSeq (c : Nat) (q : Seq) (s : State) : Host.Outcome State Fault Refusal :=
  let s := { s with core := c, sq := q }
  match if q = .cmp then replaying c s else none with
  | some s => settle c q (replayBundle c s)
  | none =>
    match fetch c q s with
    | .ok f s' => runFetched c q f s'
    | .error e s' => settle c q (.error e s')

/-- The lowest sequencer whose trap is pending. -/
def lowestPend (k : Core) : Seq :=
  if k.trap.pend.getLsbD 1 then .ld else if k.trap.pend.getLsbD 2 then .cmp else .st

/-- Try the head of a bound queue once more. -/
def retryQueue (c : Nat) (q : Seq) (i : Nat) : Act Unit := do
  let s ← get
  let k := s.coreOf c
  match k.binding i with
  | none => pure ()
  | some b =>
    if b.held.isSome then pure ()
    else if q = .st then streamWrite c i
    else if mayRead k i b then streamRead c i
    else pure ()

/-- Try the held heads of LD or ST once more (R156, 07 R215). -/
def retryOnce (c : Nat) (q : Seq) : Act Unit := do
  modCoreAt c (unhold q)
  each (upto (if q = .st then 8 else 0) 8) fun i => retryQueue c q i
  let s ← get
  match (s.coreOf c).directHead q with
  | none => pure ()
  | some o =>
    if o.held.isSome then pure ()
    else if q = .st then stRun c (stParts o - o.done)
    else ldRun c (ldParts o - o.done)

/-- Examine the lowest pending sequencer (R156): a condition that still holds is taken as a trap; otherwise the
sequencer resumes. -/
def examine (c : Nat) (s : State) : Host.Outcome State Fault Refusal :=
  let q := lowestPend (s.coreOf c)
  let s := s.updCore c fun k =>
    { k.updSeq q resume with trap := { k.trap with pend := k.trap.pend &&& ~~~((1 : BitVec 4) <<< seqNum q) } }
  let a : Act Bool := do
    if q = .cmp then return false
    else
      retryOnce c q
      let s ← get
      if (heldQueue (s.coreOf c) q).isSome then
        reportHeld c q
        return true
      else return false
  match a s with
  | .error e s' => settle c q (.error e s')
  | .ok true s' => .next s'
  | .ok false s' => if ((s'.coreOf c).seq q).run = .running then runSeq c q s' else .next s'

/-- Does the sequencer execute: its tile is not being saved and has not ended (06 R191)? -/
def canRun (k : Core) (q : Seq) : Bool :=
  match k.tile with
  | none => false
  | some t => t.saving.isNone && !t.committed &&
    (match (k.seq q).run with
     | .running => true
     | .stalled _ => true
     | _ => false)

/-- Is CTL to examine the sequencers that stopped while its handler ran, before it goes on or waits at its back-edge
(R156)? -/
def mayExamine (k : Core) : Bool :=
  !k.trap.mode && k.trap.pend ≠ 0 && (canRun k .ctl || (k.ctl.run = .atBackEdge && (k.tile.any fun t => t.saving.isNone && !t.committed)))

/-- A sequencer that nothing holds at its back-edge any longer goes on (06 R188). -/
def leaveEdge (c : Nat) (q : Seq) (s : State) : State :=
  let k := s.coreOf c
  if (k.seq q).run = .atBackEdge && k.tile.isSome && !stillHeld k q then
    s.updSeq c q fun x => { x with run := .running, edge := false }
  else s

/-- A turn of sequencer `q` of core `c`. A fault held at a queue is reported before LD or ST executes anything more (07 R215,
08 R245). -/
def turn (c : Nat) (q : Seq) (s : State) : Host.Outcome State Fault Refusal :=
  let s := leaveEdge c q s
  let k := s.coreOf c
  if q = .ctl && mayExamine k then examine c s
  else if !canRun k q then .next s
  else if heldDue k q then outcomeOf (reportHeld c q s)
  else runSeq c q s

end Sys2Proof.Machine
end

