-- ==== Sys2Proof/Machine/Schedule.lean ====
section
/-! DEFINITION. Which step comes next: the head of the agenda, or the turn of the next sequencer (log 1). -/

namespace Sys2Proof.Machine

/-- The sequencer after `q` in the rotation. -/
def nextSeq : Seq → Seq
  | .ctl => .ld | .ld => .cmp | .cmp => .st | .st => .ctl

/-- The next core in the rotation that holds a tile, after `c`; 0 where none does. -/
def nextCore (s : State) (c : Nat) : Nat :=
  let busy := s.cores.filter fun e => e.2.tile.isSome
  match busy.find? fun e => decide (c < e.1) with
  | some e => e.1
  | none => ((busy.head?).map (·.1)).getD 0

/-- Move the turn on by one sequencer. -/
def rotate (s : State) : State :=
  { s with core := if s.sq = .st then nextCore s s.core else s.core, sq := nextSeq s.sq }

/-- Change the state of an outcome that has one. -/
def mapNext (f : State → State) : Host.Outcome State Fault Refusal → Host.Outcome State Fault Refusal
  | .next s => .next (f s)
  | .fault x => .fault x
  | .refused x => .refused x

/-- Clocks pass: cores whose MMA waits for the shadow plane count them (11 R355). -/
def passClocks (n : Nat) (s : State) : State :=
  let wait := fun (k : Core) =>
    if waitsForPlane k then { k with mx := { k.mx with waitclk := (k.mx.waitclk + n) % 2 ^ 32 } } else k
  { s with cycle := s.cycle + n, cores := s.cores.map fun e => (e.1, wait e.2) }

/-- Clean data can no longer be corrected: whoever reads it meets poison (02 R71). A sector that was written has been
evicted without an error before. -/
def softError (p : ErrorPlace) (s : State) : State :=
  let add := fun (x : Nat) (l : List Nat) => if l.contains x then l else x :: l
  match p with
  | .memory x =>
    if Config.memBytes ≤ x * 128 then s
    else { s with m := { s.m with poison := add x s.m.poison, writer := SMap.erase s.m.writer x } }
  | .expert x => if 2 ^ 28 ≤ x * 128 then s else { s with m := { s.m with xsPoison := add x s.m.xsPoison } }
  | .scratch c x =>
    if Config.cores ≤ c || decide (Config.scratchBytes ≤ x * 128) then s
    else s.updCore c fun k => { k with spPoison := add x k.spPoison }

/-- Let one choice happen. A device that is off knows only a cold reset (17 R499, R501). -/
def choose (c : Choice) (s : State) : Host.Outcome State Fault Refusal :=
  match c with
  | .turn c q => turn c q s
  | .event i a => if s.off && i ≠ .coldReset then .next s else exec i { s with ev := a }
  | .ticks n => .next (passClocks n s)
  | .hostWrite a l => .next (hostSet a l s)
  | .hostRead i b => outcomeOf (hostReads i b s)
  | .hostConfig r b => outcomeOf (hostConfig r b s)
  | .hostFault asid va => .next (hostFault asid va s)
  | .softError p => .next (softError p s)

/-- What waits at the fault queues is tried again (02 R38, R51). -/
def pumpJobs (s : State) : State :=
  if s.ns.jobs.isEmpty then s
  else
    match fqPump s with
    | .ok _ t => t
    | .error _ _ => s

/-- A clock passes. -/
def State.tick (s : State) : State := postAtomic (noteStates (pumpJobs (endEvictions evictClocks (passClocks 1 s))))

/-- One step at the clock after this one. -/
def stepOnce (s : State) : Host.Outcome State Fault Refusal :=
  let s := s.tick
  match s.agenda with
  | a :: r => choose a { s with agenda := r }
  | [] => mapNext rotate (turn s.core s.sq s)

/-- Page-table entries that map the first gibibyte onto itself, and the instruction's 20 bytes. -/
def slotBytes (w : Nat) : List (Nat × Byte) :=
  placed 0x100 (bytesOf 8 0x201) ++ placed 0x200 (bytesOf 8 0x301) ++ placed 0x300 (bytesOf 8 0x1F) ++
  placed 0x1000 (bytesOf 20 w)

/-- The stream class that reads a word as `decodeTableWord` does. -/
def tableSeq (w : Nat) : Seq :=
  let l := bytesOf 20 w
  let ok := fun strm => match decodeBytes strm l with
    | .ok (d, _) => !d.i.isIllegal
    | .error _ => false
  if ok .ctl then .ctl else if ok .ld then .ld else if ok .st then .st else .ctl

/-- A core that runs a tile whose sequencer `q` stands at 0x1000. -/
def slotCore (q : Seq) (k : Core) : Core :=
  let reg : Region := { valid := true, supv := true, xroot := 0x100, spTile := Config.scratchBytes, verBytes := 2 ^ 40, chain := [0] }
  let nrec : NestRec := { code := 0x1000, trip := 1, ends := [0xFFFF, 0xFFFF, 0xFFFF] }
  { k with
    ctl := {}, ld := {}, cmp := {}, st := {}, trap := {}, tile := some { nrec := nrec, reg := reg } }.setSeq q
      { pc := 0x1000, stage := .epilogue, run := .running }

/-- The state with an instruction standing where the next step fetches. -/
def placeWord (s : State) (nbits w : Nat) : State :=
  let q := tableSeq (w % 2 ^ nbits)
  let s := s.updCluster 0 fun c => { c with tlb1 := [], tlb2 := [] }
  let s := s.updCore 0 (slotCore q)
  { s with
    core := 0, sq := q, agenda := []
    m := Memory.setBytes { s.m with poison := s.m.poison.filter fun p => decide (p ≥ 34) } (slotBytes (w % 2 ^ nbits)) }

end Sys2Proof.Machine
end

