-- ==== Sys2Proof/WellFormed.lean ====
section
/-! DEFINITION. Well-formed instructions: the bits that tell two rows of one encoding apart, the checks that a word's
fields pass, and the checks that a template passes (04 R96, R98, R107, R109, 10 R291, R293, 11 R328). -/

namespace Sys2Proof.Machine

/-- Does an instruction carry the bits that tell its row from another row of the same opcode (R98, R107, R293)? -/
def toldApart : Instr → Bool
  | .msendP o => bits o.f8 0 1 = 0
  | .msendH o => bits o.f8 0 1 = 1
  | .rpolLayer o => bits o.f8 0 2 = 0
  | .rpolUnlayer o => bits o.f8 0 2 = 1
  | .rpolCat o => bits o.f8 0 2 = 2
  | .rpolUncat o => bits o.f8 0 2 = 3
  | .sqopen o => bits o.f8 0 1 = 0
  | .sqopenClose o => bits o.f8 0 1 = 1
  | .sqcurRead o => bits o.f8 0 2 ≠ 1 && bits o.f8 0 2 ≠ 2
  | .sqcurPlay o => bits o.f8 0 2 = 1
  | .sqcurKv o => bits o.f8 0 2 = 2
  | .issueBundle _ pm pa pb pf => pm.isSome || pa.isSome || pb.isSome || pf.isSome
  | .vscl u => bits u.t.aux 7 1 = 0
  | .vsclDerive u => bits u.t.aux 7 1 = 1
  | _ => true

/-- Has the row a template of its own (04 R108)? -/
def isTemplate (i : Instr) : Bool := (mTmplOf i).isSome || (vRow i).isSome

/-- Are the fields of an instruction that sequencer `q` fetches, or of a template, all accepted? -/
def fieldsAccepted (q : Seq) (i : Instr) : Bool := if isTemplate i then opAccepts i else fieldsOk q i

/-- A well-formed instruction of sequencer `q`. -/
def wellFormed (q : Seq) (i : Instr) : Bool := toldApart i && fieldsAccepted q i

/-- Rows of the table that give no words: what engines, the device and the outside world do, and the row of an
unassigned encoding (95). -/
def isEvent : Instr → Bool
  | .heldAccessRetry | .flipLimitExpiry | .flipToHostFinish | .windowFillDone | .deviceWriteback
  | .publicationCommit | .scopeRefusalTimeout | .shadowWriteRelease | .snapshotPressure | .snapshotExpired
  | .dirtyEvictUncorrectable | .registerWrite | .barCfgWrite | .muInvPage | .muInvAsid | .muInvAll | .muInvNone
  | .nsRinvRegion | .nsRinvAll | .ldShinvRegion | .ldShinvAll | .tileDispatch | .priorityAging | .tileCommit
  | .yieldRequest | .boundaryYield | .yieldDeadline | .saveComplete | .saveBound | .tileRestore | .watchdog
  | .streamEntryRead | .streamEntryLand | .ldDirectOpComplete | .heldFaultTrap | .stStreamEntryWrite
  | .stDirectOpComplete | .mqGrant | .mqEntryLand | .mqFullTimeout | .tokenPushDeliver | .lateFaultTrap
  | .mlsStart | .shadowFull | .mmaKStep | .copyChunkArrival | .copyComplete | .copyFault | .leaseExpiry
  | .shageanFlitReceive | .shageanGoBack | .linkAckTimeout | .linkResync | .shageanPacketReceive | .peerRequest
  | .peerResponse | .handlerInboxGrant | .handlerMessage | .handlerEnqueueRetry | .gateSetLoadReq
  | .gateSetBiasReload | .gateSetFreeReq | .gateSetLoad | .gateSetFree | .tokenScore | .steeperScore
  | .combineArrival | .dropNoticeArrival | .waveStart | .wavePass | .qwaitTimeout | .jobCountersClear
  | .saucerCopyArrive | .flushDeadline | .expertEnqueueRetry | .expertTileRetire | .absenceThreshold
  | .fetchStart | .fetchComplete | .fetchFail | .nvmeCompletion | .nvmeTimeout | .sqCplayWrite
  | .lineFrameReceive | .advertisementTimer | .portAcceptStart | .portEnable | .portDisable | .whiskLoad
  | .coldReset | .bootStagingWrite | .bootGo | .featureAccept | .ringEnable | .ringDoorbell | .ringEntryNest
  | .ringEntryCopy | .ringEntryCopyin | .ringEntryAttest | .apertureAccess | .tdispLockInterface
  | .tdispStartInterface | .tdispStopInterface | .hostAtomicCompletion | .hostAtomicWithdraw | .thermalTrip
  | .svNqEnqueue | .svNdonePop | .svFlipPop | .mailboxS2hSend | .mailboxH2sSend | .mailboxS2hClear | .mbAtomSeq
  | .mbAtomClaim | .mbAtomWdraw | .illegalOpcode | .engineOperationComplete | .samovarInstruction
  | .thermalSensorReading | .powerLoss | .linkStateChange | .doeMailboxMessage => true
  | _ => false

end Sys2Proof.Machine
end

