-- ==== Sys2Proof/Safety.lean ====
section
/-! DEFINITION. What a safe step is, and the words in which the statements speak of one. -/

namespace Sys2Proof

/-- A step of the machine that neither stops with a fault nor is refused. -/
def Safe (s : Machine.State) : Prop := ∃ t, Machine.step s = .next t

/-- Memory in canonical form: addresses strictly rising, no entry equal to what an unlisted address reads as. -/
def MemCanonical (s : Machine.State) : Prop := s.m.wf = true

namespace Machine

/-- CTL of the core whose turn it is has changed its core by `f` and stands at the instruction `n` bytes further on. -/
def ctlDone (s : State) (n : Nat) (f : Core → Core) : State := (s.updCore s.core f).advance s.core .ctl n

/-- The same for sequencer `q`. -/
def seqDone (s : State) (q : Seq) (n : Nat) (f : Core → Core) : State := (s.updCore s.core f).advance s.core q n

/-- The core whose turn it is. -/
def State.here (s : State) : Core := s.coreOf s.core

/-- Nothing but core `c` differs. -/
def OnlyCore (c : Nat) (s t : State) : Prop := t = { s with cores := t.cores } ∧ ∀ c' ≠ c, t.coreOf c' = s.coreOf c'

/-- Core `c` still holds its tile and has taken no trap. -/
def NoTrap (c : Nat) (s t : State) : Prop := (t.coreOf c).tile.isSome = true ∧ (t.coreOf c).trap = (s.coreOf c).trap

/-- Of a core, only scalar registers, predicates, CTL's place in its program, and the clock of the tile's last issue differ. -/
def OnlyRegs (k k' : Core) : Prop :=
  k' = { k with s := k'.s, p := k'.p, ctl := k'.ctl, tile := k'.tile } ∧
  ∃ n, k'.tile = k.tile.map fun t => { t with lastIssue := n }

/-- CTL of core `c` goes on at address `a` after a return from a trap: where the trap found it held at its back-edge, it is
held there again (05 R156, 06 R188), and what was to be executed again elsewhere is forgotten. -/
def ctlResumed (c : Nat) (a : DWord) (s : State) : State :=
  let u := s.updSeq c .ctl fun x => { x with pinned := x.pinned.filter fun e => e.1 = a.toNat }
  let k := u.coreOf c
  if k.ctl.edge && k.tile.any fun t => t.yieldReq.isSome && a.toNat = t.nrec.entryAt .ctl 1 then
    u.updSeq c .ctl fun x => { x.clearWaits with pc := a, run := .atBackEdge }
  else u.goto c .ctl a

/-- The scalar register that an instruction of CTL writes which touches nothing but registers (05 R123–R131); S0, which
nothing changes, where it writes none. -/
def scalarDest : Instr → Option Nat
  | .add o | .sub o | .min o | .max o | .minu o | .maxu o | .and o | .or o | .xor o | .andn o | .shl o | .shr o | .sar o
  | .ror o | .mul o | .mulh o | .mulhu o | .div o | .divu o | .rem o | .remu o | .clz o | .ctz o | .popc o => some o.d.toNat
  | .addi o | .andi o | .ori o | .xori o | .shli o | .shri o | .sari o => some o.d.toNat
  | .li o | .lih o | .bfx o | .bfxu o | .bfi o | .sel o | .loop o => some o.d.toNat
  | .lea o | .jr o => some o.d.toNat
  | .call _ => some 63
  | .br _ => some 0
  | _ => none

/-- The predicate that an instruction of CTL writes which touches nothing but predicates (05 R127, R128). -/
def predicateDest : Instr → Option Nat
  | .cmpEq o | .cmpNe o | .cmpLt o | .cmpLe o | .cmpLtu o | .cmpLeu o | .pmovAnd o | .pmovOr o | .pmovXor o | .pmovAndn o =>
    some o.d.toNat
  | .cmpiEq o | .cmpiNe o | .cmpiLt o | .cmpiLe o | .cmpiLtu o | .cmpiLeu o => some o.d.toNat
  | .pset o => some o.d.toNat
  | _ => none

/-- A result of an engine without the number of its queue reservation. -/
def EngWrite.bare : EngWrite → EngWrite
  | .queue q _ d => .queue q 0 d
  | w => w

/-- The sequencer that executes a plain word, where its turn has come (04 R96). -/
def seqFor (s : State) : Instr → Seq
  | .tkwait _ | .tkpost _ | .fence _ | .publish => sharer s
  | .nli _ | .nadd _ | .naddi _ | .ncmpEq _ | .ncmpNe _ | .ncmpLt _ | .ncmpLe _ | .ncmpLtu _ | .ncmpLeu _ | .nbr _ | .nloop _ =>
    indexer s
  | .sbindLd _ | .gath _ | .sunbLd _ | .ldq _ | .ldt _ | .mfill _ | .pref _ => .ld
  | .sbindSt _ | .scat _ | .sunbSt _ | .stq _ | .stt _ | .mwb _ | .rput _ | .atomvAdd _ | .atomvAnd _ | .atomvOr _
  | .atomvXor _ | .atomvMin _ | .atomvMax _ | .atomvMinu _ | .atomvMaxu _ | .atomvSwp _ => .st
  | _ => .ctl

end Machine

end Sys2Proof
end

