-- ==== Sys2Proof/Certificates/Slice0/Obligations.lean ====
section
/-! DEFINITION. The statements for the provers; a statement of several parts is the conjunction of definitions in
`Sys2Proof.Parts`. -/

open Sys2Proof Sys2Proof.Machine

/-- Words written out in the spec's worked examples (04, 05, 07–13), of every stream class, of a bundle and of two
engines' templates, decode to what the examples say they are. -/
def Obligations.DecodeWords : Prop :=
  decodeWord .ctl 0xE400_0000 0 = ⟨0, .nop, false⟩ ∧
  decodeWord .ctl 0x3405_0000 0 = ⟨0, .li ⟨20, 0, 0, 0⟩, false⟩ ∧
  decodeWord .ctl 0x3405_4000 2 = ⟨0, .li ⟨21, 0, 0, 2⟩, false⟩ ∧
  decodeWord .ctl 0xCC00_0007 0 = ⟨0, .trap ⟨0, 0, 7⟩, false⟩ ∧
  decodeWord .ctl 0x1805_1401 0 = ⟨0, .addi ⟨20, 20, 1⟩, false⟩ ∧
  decodeWord .ctl 0x7405_4000 0xFFFF_FFF8 = ⟨0, .loop ⟨21, 0, 0, 0xFFFF_FFF8⟩, false⟩ ∧
  decodeWord .ctl 0xE000_0000 0 = ⟨0, .tend, false⟩ ∧
  decodeWord .ctl 0xD405_8000 0x010 = ⟨0, .sysr ⟨22, 0, 0, 0x010⟩, false⟩ ∧
  decodeWord .ctl 0x4405_9600 0x710 = ⟨0, .bfxu ⟨22, 22, 0, 0x710⟩, false⟩ ∧
  decodeWord .ctl 0x0005_1458 0 = ⟨0, .add ⟨20, 20, 22⟩, false⟩ ∧
  decodeWord .ctl 0xD000_0001 0 = ⟨0, .rftSkip, false⟩ ∧
  decodeWord .ctl 0x5C00_C701 0 = ⟨0, .cmpiNe ⟨3, 7, 0, 0⟩, false⟩ ∧
  decodeWord .ctl 0x683F_FFFC 0 = ⟨3, .br ⟨0xF_FFFC⟩, false⟩ ∧
  decodeWord .ctl 0xE800_1454 0x1000_4103 = ⟨0, .cpy ⟨0, 20, 0x54, 0x00_4103⟩, false⟩ ∧
  decodeWord .ctl 0xE800_1801 0x2000_0005 = ⟨0, .msendH ⟨0, 24, 1, 5⟩, false⟩ ∧
  decodeWord .ctl 0xE807_9F02 0x2300_0005 = ⟨0, .qwait ⟨30, 31, 2, 5⟩, false⟩ ∧
  decodeWord .ld 0x8800_0001 0 = ⟨0, .tkwait ⟨0, 0, 1⟩, false⟩ ∧
  decodeWord .ld 0x0000_8110 0 = ⟨0, .sbindLd ⟨2, 1, 4, 0⟩, false⟩ ∧
  decodeWord .st 0x1C02_8000 0x1000 = ⟨0, .nli ⟨10, 0, 0, 0x1000⟩, false⟩ ∧
  decodeWord .st 0x32C0_0005 0 = ⟨44, .nbr ⟨5⟩, false⟩ ∧
  decodeWord .st 0x4C00_0AE2 0x000B_0000 = ⟨0, .atomvOr ⟨0, 10, 0xE, 0x000B_0000⟩, false⟩ ∧
  decodeBundle 0x916A_3880 [0x0000_0000, 0x08F0_0005] =
    .issueBundle ⟨1, 26, 2, 1, 3, 0, 1, 0, 0⟩ (some ⟨0, 0, 0, 0, 0⟩) none none (some ⟨2, 3, 3, 0, 5⟩) ∧
  decodeV .a 0x2E00_0040_D000_0000_0008_FE80_0000_0000 =
    some (.vpen ⟨.a, { dst := 0, sa := 0, sb := 1, sc := 0, fmt := 0xD, rm := 0, sat := 0, mask := 0, pk := 0, std := 0,
                       sta := 0, stb := 0, stc := 0, aux := 2, imm := 0x3FA0_0000, rsv := 0 }⟩) ∧
  decodeM 0x2100_0000_2641_8000_0000_0000_0020_0000 =
    some (.mmaM8K2 { acc := 0, row := 0, dst := 0, sa := 0, sc := 0, fmt := 9, fw := 9, opt := 6, str := 0, std := 0,
                     sta := 0, stc := 0, addr := 0, xtra := 2, aux := 0, rsv := 0 })

/-- 04 R94–R108: every row that has an encoding decodes, from what the encoder gives, to itself with its guard and every
operand; the rows of events have no encoding. -/
def Obligations.DecodeInvertsEncode : Prop :=
  ∀ (i : Instr) (g : BitVec 6), toldApart i = true →
    (isEvent i = true → encode g i = .none) ∧
    (isEvent i = false →
      let g' := match encode g i with
        | .plain _ _ => g
        | _ => 0
      decodeCode (encode g i) = some ⟨g', i, false⟩)

/-- 04 R95, R97, R109: with nothing else due, a step is the turn of the sequencer whose turn it is: the word fetched at its
program counter, with its extension word if its opcode has one, is decoded; an unassigned opcode traps, so does a guard
from 48 to 63 or a reserved field; a guard that is false only advances; otherwise the decoded instruction is executed.
CMP executes the bundle fetched. A fault held in LD or ST is reported first. Then the turn passes on, in the model's rotation (log 1). -/
def Sys2Proof.Parts.TurnRunsDecoded : Prop :=
  ∀ (s : State),
    let s0 := s.tick
    (s0.agenda = [] → canRun s0.here s0.sq = true → heldDue s0.here s0.sq = true →
      step s = mapNext rotate (outcomeOf (reportHeld s0.core s0.sq s0))) ∧
    (s0.agenda = [] → canRun s0.here s0.sq = true → heldDue s0.here s0.sq = false → ¬(s0.sq = .ctl ∧ s0.here.trap.mode = false ∧ s0.here.trap.pend ≠ 0) →
      let c := s0.core
      let q := s0.sq
      let pc := (s0.here.seq q).pc
      let run (w x : Word) (n : Nat) (u : State) : Prop :=
        let d := decodeWord (strmOf q) w x
        let out : Host.Outcome State Fault Refusal :=
          if d.i.isIllegal = true then exec .illegalOpcode u
          else if 48 ≤ d.g.toNat ∨ d.resv = true ∨ fieldsOk q d.i = false then settle c q (.error (.trap .reservedField 0) u)
          else if (u.coreOf c).preg d.g.toNat = true then exec d.i { u with guard := d.g }
          else .next (u.advance c q n)
        step s = mapNext rotate out
      (∀ w u, q ≠ .cmp → fetchWord c pc s0 = .ok w u →
        (hasExt (strmOf q) w = false → run w 0 4 u) ∧
        (hasExt (strmOf q) w = true → ∀ x v, fetchWord c (pc + 4) u = .ok x v → run w x 8 v)) ∧
      (q = .cmp → replaying c s0 = none → ∀ i n u, fetchBundle c pc s0 = .ok (.bundle i n) u →
        step s = mapNext rotate (exec i u)))

/-- 02 R37, 04 R95, 00 R4: the word that a sequencer fetches is, little-endian, the four committed bytes at the location that
its address translates to for execution; none of them is a store not yet published. (On a page that holds a copy's shadow
they are free, 12 R368.) -/
def Sys2Proof.Parts.FetchReadsCommittedBytes : Prop :=
  ∀ (s u : State) (t : Tile) (c loc : Nat) (a : DWord), (s.coreOf c).tile = some t →
    translate (t.reg.ctx (some (clusterOf c))) .exec a.toNat s = .ok loc u → loc < 2 ^ 56 →
    u.m.shadows.contains (loc / 0x1_0000) = false →
    (u.m.poison.contains (loc / 128) = false →
      fetchWord c a s = .ok (BitVec.ofNat 32 (u.m.readNat loc 4)) u) ∧
    (u.m.poison.contains (loc / 128) = true → fetchWord c a s = .error (.trap .poisonConsumed a.toNat) u)

/-- Log 1, the model's own: where the agenda has an event at its head, the step is that event, with the arguments it brings; a
device that is off knows only a cold reset. -/
def Sys2Proof.Parts.AgendaRunsEvents : Prop :=
  ∀ (s : State) (i : Instr) (a : EvArg) (r : List Choice), s.tick.agenda = .event i a :: r →
    (s.tick.off = false ∨ i = .coldReset → step s = exec i { s.tick with agenda := r, ev := a }) ∧
    (s.tick.off = true → i ≠ .coldReset → step s = .next { s.tick with agenda := r })

/-- With nothing else due, a step decodes the word at the program counter of the sequencer whose turn it is, executes it
or traps, and passes the turn on; the word is what committed memory holds; an event at the head of the agenda happens
instead. The rotation and the agenda are the model's (log 1). -/
def Obligations.StepRunsDecoded : Prop := Parts.TurnRunsDecoded ∧ Parts.FetchReadsCommittedBytes ∧ Parts.AgendaRunsEvents

/-- R97: a guard of 0 makes an instruction unconditional, one from 48 to 63 traps RESERVED_FIELD; the decode checks are made
whatever the guard is; with a false guard an instruction that passes them only advances the program counter past
itself. -/
def Obligations.GuardDecides : Prop :=
  ∀ (c : Nat) (q : Seq) (d : Decoded) (n : Nat) (s : State),
    let out := runFetched c q (.plain d n) s
    let resv := settle c q (.error (.trap .reservedField 0) s)
    (∀ k : Core, k.preg 0 = true) ∧
    (d.i.isIllegal = true → out = exec .illegalOpcode s) ∧
    (d.i.isIllegal = false →
      (48 ≤ d.g.toNat ∨ d.resv = true ∨ fieldsOk q d.i = false → out = resv) ∧
      (d.g.toNat < 48 → d.resv = false → fieldsOk q d.i = true →
        ((s.coreOf c).preg d.g.toNat = true → out = exec d.i { s with guard := d.g }) ∧
        ((s.coreOf c).preg d.g.toNat = false → out = .next (s.advance c q n))))

/-- Memory stays in canonical form: from every state in which it is, a step that gives a next state leaves it so. -/
def Obligations.StepKeepsMemoryCanonical : Prop :=
  ∀ s t : State, MemCanonical s → step s = .next t → MemCanonical t

/-- 05 R119, 02 R55 and the reset values of the register tables: after a reset memory is canonical with nothing listed, no core
holds a tile, every scalar register is 0 and every predicate but P0 false, trap mode is off, the publish counter is 0, no
nest is in the scheduler's table, and the boot ROM waits for an image. That memory lists nothing after a reset, so that
every byte nothing has written reads 0, is log 4's choice: the spec gives memory no contents. -/
def Obligations.ResetLeaves : Prop :=
  let s := State.reset
  MemCanonical s ∧ s.m.mem = [] ∧ s.m.pubCount = 0 ∧ s.cycle = 0 ∧ s.hl.bootState = 0 ∧ s.hl.tdi = .unlocked ∧
  (∀ c, (s.coreOf c).tile = none ∧ (s.coreOf c).trap.mode = false ∧ (s.coreOf c).trap.pend = 0 ∧
    (s.coreOf c).ctl.run = .idle ∧ (s.coreOf c).windows = [] ∧ (s.coreOf c).ops = [] ∧
    (∀ n, (s.coreOf c).sreg n = 0) ∧ (∀ n < 48, (s.coreOf c).preg n = decide (n = 0)) ∧
    (∀ q r, (s.coreOf c).tokens q r = 0)) ∧
  (∀ i, (s.slot i).used = false) ∧ ∀ c n, s.barrier c false n = {} ∧ s.barrier c true n = {}

/-- 02 R53, R60: a publication by anyone leaves what an open phase reads of the device's own memory as it was, as long as
the phase is not 2^47 stamps or more behind. -/
def Obligations.SnapshotReadsAreStable : Prop :=
  ∀ (s : State) (writer : Option Nat) (l : List (Nat × Byte)) (start pa : Nat),
    start ∈ openStarts s → later start ((s.m.pubCount + 1) % 2 ^ 48) = true →
    (commitLocal writer l s).m.byteAt start pa = s.m.byteAt start pa

/-- R123: the register-to-register instructions complete with the result of the rule in Sd and go on to the next word;
no value of the operands stops them. -/
def Sys2Proof.Parts.RegisterArithmetic : Prop :=
  ∀ (o : R3) (s : State),
    let a := s.here.sreg o.a.toNat
    let b := s.here.sreg o.b.toNat
    let n := b.toNat % 64
    let r (v : DWord) : Host.Outcome State Fault Refusal := .next (ctlDone s 4 fun k => k.setS o.d.toNat v)
    exec (.add o) s = r (a + b) ∧
    exec (.sub o) s = r (a - b) ∧
    exec (.min o) s = r (if a.toInt ≤ b.toInt then a else b) ∧
    exec (.max o) s = r (if a.toInt ≥ b.toInt then a else b) ∧
    exec (.minu o) s = r (if a.toNat ≤ b.toNat then a else b) ∧
    exec (.maxu o) s = r (if a.toNat ≥ b.toNat then a else b) ∧
    exec (.and o) s = r (a &&& b) ∧
    exec (.or o) s = r (a ||| b) ∧
    exec (.xor o) s = r (a ^^^ b) ∧
    exec (.andn o) s = r (a &&& ~~~b) ∧
    exec (.shl o) s = r (a <<< n) ∧
    exec (.shr o) s = r (a >>> n) ∧
    exec (.sar o) s = r (a.sshiftRight n) ∧
    exec (.ror o) s = r (a >>> n ||| a <<< (64 - n)) ∧
    exec (.mul o) s = r (a * b) ∧
    exec (.mulh o) s = r (BitVec.ofInt 64 (a.toInt * b.toInt / 2 ^ 64)) ∧
    exec (.mulhu o) s = r (BitVec.ofNat 64 (a.toNat * b.toNat / 2 ^ 64))

/-- R123: division by zero and the overflowing division have results of their own, and otherwise a quotient is truncated
toward zero and a remainder has the sign of the dividend. -/
def Sys2Proof.Parts.DivisionCorners : Prop :=
  ∀ (o : R3) (s : State),
    let a := s.here.sreg o.a.toNat
    let b := s.here.sreg o.b.toNat
    let overflows := a.toInt = -2 ^ 63 ∧ b.toInt = -1
    let r (v : DWord) : Host.Outcome State Fault Refusal := .next (ctlDone s 4 fun k => k.setS o.d.toNat v)
    (b = 0 →
      exec (.div o) s = r (BitVec.ofNat 64 (2 ^ 64 - 1)) ∧ exec (.divu o) s = r (BitVec.ofNat 64 (2 ^ 64 - 1)) ∧
      exec (.rem o) s = r a ∧ exec (.remu o) s = r a) ∧
    (b ≠ 0 → overflows → exec (.div o) s = r a ∧ exec (.rem o) s = r 0) ∧
    (b ≠ 0 → ¬overflows →
      exec (.div o) s = r (BitVec.ofInt 64 (a.toInt.tdiv b.toInt)) ∧
      exec (.rem o) s = r (BitVec.ofInt 64 (a.toInt - b.toInt * a.toInt.tdiv b.toInt))) ∧
    (b ≠ 0 →
      exec (.divu o) s = r (BitVec.ofNat 64 (a.toNat / b.toNat)) ∧
      exec (.remu o) s = r (BitVec.ofNat 64 (a.toNat % b.toNat)))

/-- R123: CLZ, CTZ and POPC with b = 0 count bits: `n` leading zeros means that the top `n` bits are zero and the next one,
if there is one, is not; likewise from below. LEA adds a shifted index. -/
def Sys2Proof.Parts.BitCounts : Prop :=
  ∀ (s : State),
    (∀ o : R3, o.b = 0 →
      let a := s.here.sreg o.a.toNat
      let done (v : Nat) : Host.Outcome State Fault Refusal :=
        .next (ctlDone s 4 fun k => k.setS o.d.toNat (BitVec.ofNat 64 v))
      (∃ n ≤ 64, exec (.clz o) s = done n ∧ (∀ i < n, a.getLsbD (63 - i) = false) ∧
        (n < 64 → a.getLsbD (63 - n) = true)) ∧
      (∃ n ≤ 64, exec (.ctz o) s = done n ∧ (∀ i < n, a.getLsbD i = false) ∧ (n < 64 → a.getLsbD n = true)) ∧
      exec (.popc o) s = done ((List.range 64).countP fun i => a.getLsbD i)) ∧
    (∀ o : R3F, exec (.lea o) s = .next (ctlDone s 4 fun k => k.setS o.d.toNat
      (s.here.sreg o.a.toNat + s.here.sreg o.b.toNat <<< o.f.toNat)))

/-- R123: the register-to-register integer instructions complete on every operand, division by zero and the overflowing
division with results of their own, CLZ, CTZ and POPC counting bits, LEA adding a shifted index. -/
def Obligations.CtlRegisterResults : Prop := Parts.RegisterArithmetic ∧ Parts.DivisionCorners ∧ Parts.BitCounts

/-- R124, R125: the immediate instructions are words of the form RI, a shift immediate above 63 traps RESERVED_FIELD; LI and LIH
are words of the form RL, and their reserved fields trap. -/
def Obligations.CtlImmediateResults : Prop :=
  ∀ (g d a : BitVec 6) (imm : BitVec 8) (ext : Word) (s : State),
    let x := s.here.sreg a.toNat
    let ri (op : BitVec 6) (i : Instr) : Prop := decodeWord .ctl (op ++ g ++ d ++ a ++ imm) 0 = ⟨g, i, false⟩
    let rl (op : BitVec 6) (i : Instr) : Prop := decodeWord .ctl (op ++ g ++ d ++ a ++ imm) ext = ⟨g, i, false⟩
    let resv := settle s.core .ctl (.error (.trap .reservedField 0) s)
    let r (n : Nat) (v : DWord) : Host.Outcome State Fault Refusal := .next (ctlDone s n fun k => k.setS d.toNat v)
    (let o : RI := ⟨d, a, imm⟩
     let c := imm.signExtend 64
     ri 0x06 (.addi o) ∧ ri 0x07 (.andi o) ∧ ri 0x08 (.ori o) ∧ ri 0x09 (.xori o) ∧
     ri 0x0A (.shli o) ∧ ri 0x0B (.shri o) ∧ ri 0x0C (.sari o) ∧
     exec (.addi o) s = r 4 (x + c) ∧ exec (.andi o) s = r 4 (x &&& c) ∧ exec (.ori o) s = r 4 (x ||| c) ∧
     exec (.xori o) s = r 4 (x ^^^ c) ∧
     (imm.toNat < 64 → exec (.shli o) s = r 4 (x <<< imm.toNat) ∧ exec (.shri o) s = r 4 (x >>> imm.toNat) ∧
       exec (.sari o) s = r 4 (x.sshiftRight imm.toNat)) ∧
     (64 ≤ imm.toNat → exec (.shli o) s = resv ∧ exec (.shri o) s = resv ∧ exec (.sari o) s = resv)) ∧
    (let o : RL := ⟨d, a, imm, ext⟩
     rl 0x0D (.li o) ∧ rl 0x0E (.lih o) ∧
     (a = 0 → imm = 0 → exec (.li o) s = r 8 (ext.signExtend 64)) ∧ (a ≠ 0 ∨ imm ≠ 0 → exec (.li o) s = resv) ∧
     (imm = 0 → exec (.lih o) s = r 8 ((ext.setWidth 64) <<< 32 ||| (x.setWidth 32).setWidth 64)) ∧
     (imm ≠ 0 → exec (.lih o) s = resv))

/-- R126, R129: a bit field [lo + w − 1 : lo] of Sa is extracted or inserted, where the extension word of the RL form names lo
and w − 1 and no reserved bit is set; a field that passes bit 63 traps RESERVED_FIELD. SEL chooses by the predicate. -/
def Obligations.CtlFieldResults : Prop :=
  ∀ (g d a : BitVec 6) (f8 : BitVec 8) (ext : Word) (s : State),
    let o : RL := ⟨d, a, f8, ext⟩
    let lo := ext.toNat % 64
    let w := ext.toNat / 256 % 64 + 1
    let x := s.here.sreg a.toNat
    let old := s.here.sreg d.toNat
    let rl (op : BitVec 6) (i : Instr) : Prop := decodeWord .ctl (op ++ g ++ d ++ a ++ f8) ext = ⟨g, i, false⟩
    let r (v : DWord) : Host.Outcome State Fault Refusal := .next (ctlDone s 8 fun k => k.setS d.toNat v)
    let resv := settle s.core .ctl (.error (.trap .reservedField 0) s)
    let legal : Prop := f8 = 0 ∧ bits ext 6 2 = 0 ∧ bits ext 14 18 = 0 ∧ lo + w ≤ 64
    rl 0x10 (.bfx o) ∧ rl 0x11 (.bfxu o) ∧ rl 0x12 (.bfi o) ∧ rl 0x14 (.sel o) ∧
    (legal →
      exec (.bfxu o) s = r (BitVec.ofNat 64 (x.toNat / 2 ^ lo % 2 ^ w)) ∧
      exec (.bfx o) s = r (((BitVec.ofNat 64 (x.toNat / 2 ^ lo)).setWidth w).signExtend 64) ∧
      (∃ v, exec (.bfi o) s = r v ∧
        ∀ i < 64, v.getLsbD i = if lo ≤ i ∧ i < lo + w then x.getLsbD (i - lo) else old.getLsbD i)) ∧
    (¬legal → exec (.bfxu o) s = resv ∧ exec (.bfx o) s = resv ∧ exec (.bfi o) s = resv) ∧
    (bits f8 6 2 = 0 → ext.toNat < 48 →
      exec (.sel o) s = r (if s.here.preg ext.toNat then x else s.here.sreg f8.toNat)) ∧
    (bits f8 6 2 ≠ 0 ∨ 48 ≤ ext.toNat → exec (.sel o) s = resv)

/-- R127, R128: the comparisons and the predicate instructions write the relation to Pd, one of P1–P23; another
destination traps RESERVED_FIELD. The second operand of CMPI is the sign-extended extension word. -/
def Obligations.CtlPredicateResults : Prop :=
  ∀ (s : State),
    let k := s.here
    let resv := settle s.core .ctl (.error (.trap .reservedField 0) s)
    let r (n : Nat) (d : BitVec 6) (b : Bool) : Host.Outcome State Fault Refusal :=
      if 1 ≤ d.toNat ∧ d.toNat ≤ 23 then .next (ctlDone s n fun k => k.setP d.toNat b) else resv
    (∀ o : R3,
      let a := k.sreg o.a.toNat
      let b := k.sreg o.b.toNat
      exec (.cmpEq o) s = r 4 o.d (decide (a = b)) ∧ exec (.cmpNe o) s = r 4 o.d (decide (a ≠ b)) ∧
      exec (.cmpLt o) s = r 4 o.d (decide (a.toInt < b.toInt)) ∧ exec (.cmpLe o) s = r 4 o.d (decide (a.toInt ≤ b.toInt)) ∧
      exec (.cmpLtu o) s = r 4 o.d (decide (a.toNat < b.toNat)) ∧
      exec (.cmpLeu o) s = r 4 o.d (decide (a.toNat ≤ b.toNat))) ∧
    (∀ o : RL5, o.hi = 0 →
      let a := k.sreg o.a.toNat
      let b := o.ext.signExtend 64
      exec (.cmpiEq o) s = r 8 o.d (decide (a = b)) ∧ exec (.cmpiNe o) s = r 8 o.d (decide (a ≠ b)) ∧
      exec (.cmpiLt o) s = r 8 o.d (decide (a.toInt < b.toInt)) ∧
      exec (.cmpiLe o) s = r 8 o.d (decide (a.toInt ≤ b.toInt)) ∧
      exec (.cmpiLtu o) s = r 8 o.d (decide (a.toNat < b.toNat)) ∧
      exec (.cmpiLeu o) s = r 8 o.d (decide (a.toNat ≤ b.toNat))) ∧
    (∀ o : RI, o.a = 0 →
      (o.imm.toNat < 2 → exec (.pset o) s = r 4 o.d (decide (o.imm = 1))) ∧ (2 ≤ o.imm.toNat → exec (.pset o) s = resv)) ∧
    (∀ o : R3, o.a.toNat < 48 → o.b.toNat < 48 →
      let a := k.preg o.a.toNat
      let b := k.preg o.b.toNat
      exec (.pmovAnd o) s = r 4 o.d (a && b) ∧ exec (.pmovOr o) s = r 4 o.d (a || b) ∧
      exec (.pmovXor o) s = r 4 o.d (xor a b) ∧ exec (.pmovAndn o) s = r 4 o.d (a && !b))

/-- R130: BR, CALL and JR. A branch of the B format goes 4 × offset further; CALL links in S63; JR links in Sd and traps ALIGN at a
target that is not a multiple of 4, before Sd is written. -/
def Obligations.CtlBranchResults : Prop :=
  ∀ (s : State),
    let pc := s.here.ctl.pc
    let jump (s' : State) (t : DWord) : Host.Outcome State Fault Refusal :=
      if t.toNat % 4 = 0 then .next (s'.goto s.core .ctl t) else settle s.core .ctl (.error (.trap .align t.toNat) s)
    let link (d : Nat) : State := s.updCore s.core fun k => k.setS d (pc + 4)
    (∀ o : BOff,
      let t := pc + (o.off.signExtend 64) <<< 2
      exec (.br o) s = jump s t ∧ exec (.call o) s = jump (link 63) t) ∧
    (∀ o : R3F, o.b = 0 → o.f = 0 →
      exec (.jr o) s = jump (link o.d.toNat) (s.here.sreg o.a.toNat))

/-- 05 R131: LOOP. -/
def Obligations.LoopCountsDown : Prop :=
  ∀ (g d a : BitVec 6) (f8 : BitVec 8) (ext : Word) (s : State),
    let i : Instr := .loop ⟨d, a, f8, ext⟩
    let n := s.here.sreg d.toNat
    let t := s.here.ctl.pc + ext.signExtend 64
    decodeWord .ctl ((29 : BitVec 6) ++ g ++ d ++ a ++ f8) ext = ⟨g, i, false⟩ ∧
    (a ≠ 0 ∨ f8 ≠ 0 → exec i s = settle s.core .ctl (.error (.trap .reservedField 0) s)) ∧
    (a = 0 → f8 = 0 →
      (n.toNat ≤ 1 → exec i s = .next (ctlDone s 8 fun k => k.setS d.toNat 0)) ∧
      (1 < n.toNat → t.toNat % 4 = 0 →
        exec i s = .next ((s.updCore s.core fun k => k.setS d.toNat (n - 1)).goto s.core .ctl t)) ∧
      (1 < n.toNat → t.toNat % 4 ≠ 0 → exec i s = settle s.core .ctl (.error (.trap .align t.toNat) s)))

/-- Frame of the instructions of CTL that touch only registers (05 R119, R123–R131): where one takes no trap, every other
scalar register, every predicate, all memory and every other register of the machine stay as they were; for the
predicate instructions every other predicate and every scalar register. -/
def Obligations.CtlRegisterFrame : Prop :=
  ∀ (i : Instr) (s t : State), s.here.tile.isSome = true → exec i s = .next t → NoTrap s.core s t →
    let k := t.coreOf s.core
    (∀ d, scalarDest i = some d →
      OnlyCore s.core s t ∧ OnlyRegs s.here k ∧ k.p = s.here.p ∧ ∀ n ≠ d, k.sreg n = s.here.sreg n) ∧
    (∀ d, predicateDest i = some d →
      OnlyCore s.core s t ∧ OnlyRegs s.here k ∧ (∀ n, k.sreg n = s.here.sreg n) ∧
      ∀ n < 48, n ≠ d → k.preg n = s.here.preg n) ∧
    ((scalarDest i).isSome = true ∨ (predicateDest i).isSome = true →
      (∀ a, t.m.byte a = s.m.byte a) ∧ ∀ a, k.spByte a = s.here.spByte a)

/-- R119: S0 reads 0 and P0 is true, and nothing changes them; any other register reads what was last written to it, and
a write changes no other. -/
def Obligations.ScalarAndPredicateRegisters : Prop :=
  ∀ (k : Core) (d n : Nat) (v : DWord) (b : Bool),
    k.sreg 0 = 0 ∧ k.preg 0 = true ∧
    (k.setS d v).sreg n = (if n = d ∧ d ≠ 0 then v else k.sreg n) ∧ (k.setS 0 v) = k ∧
    (d < 48 → n < 48 → (k.setP d b).preg n = if n = d ∧ d ≠ 0 then b else k.preg n) ∧ (k.setP 0 b) = k

/-- R132–R135: LDS completes where its address is a multiple of its size and the bytes can be read: Sd takes the loaded
bytes, least significant first, extended by sign or by zeros. -/
def Sys2Proof.Parts.LdsCompletes : Prop :=
  ∀ (o : RL) (s s' : State) (t : Tile) (l : List Byte),
    let a := (s.here.sreg o.a.toNat + o.ext.signExtend 64).toNat
    let n := 2 ^ (o.f8.toNat % 4)
    let space := o.f8.toNat / 8 % 4
    let signed := o.f8.getLsbD 2
    let v : DWord := if signed then BitVec.ofInt 64 ((BitVec.ofNat (8 * n) (ofBytes l)).toInt) else BitVec.ofNat 64 (ofBytes l)
    s.here.tile = some t → fieldsOk .ctl (.lds o) = true → a % n = 0 →
    (space = 0 ∧ loadBytes s.core a n s = .ok l s' ∨
     space = 1 ∧ spLoad s.core a n s = .ok l s' ∨
     space = 2 ∧ t.reg.supv = true ∧ a < Config.expertBytes ∧ s.m.xsPoison.contains (a / 128) = false ∧ s' = s ∧
       l = (List.range n).map fun i => SMap.get 0 s.m.xs (a + i)) →
    exec (.lds o) s = .next ((s'.updCore s.core fun k => k.setS o.d.toNat v).advance s.core .ctl 8)

/-- R132–R134: STS completes where its address is a multiple of its size and the store can be made: the low bytes of Sd,
least significant first, go to the space that f8 names. -/
def Sys2Proof.Parts.StsCompletes : Prop :=
  ∀ (o : RL) (s s' : State),
    let a := (s.here.sreg o.a.toNat + o.ext.signExtend 64).toNat
    let n := 2 ^ (o.f8.toNat % 4)
    let l := (List.range n).map fun i => BitVec.ofNat 8 ((s.here.sreg o.d.toNat).toNat / 256 ^ i)
    fieldsOk .ctl (.sts o) = true → a % n = 0 →
    (o.f8.toNat / 8 % 4 = 0 ∧ storeBytes s.core a l s = .ok () s' ∨
     o.f8.toNat / 8 % 4 = 1 ∧ spStore s.core a l s = .ok () s') →
    exec (.sts o) s = .next (s'.advance s.core .ctl 8)

/-- R132–R135: LDS and STS complete where their address is a multiple of their size and the bytes can be read or the store
made: LDS brings the bytes extended, STS stores the low bytes of Sd, each in the space that f8 names. -/
def Obligations.ScalarAccessesComplete : Prop := Parts.LdsCompletes ∧ Parts.StsCompletes

/-- R53, R57, R69, R133: a load of the device's own memory goes to the place where its phase finds the address, and returns
for each byte the tile's own latest write; where it has written none, what its phase keeps of a byte that has been
overwritten without a stamp, and else the committed value of its snapshot; it changes nothing but translations held by
the map unit. The place lies on no unexchanged shadow page, and no byte that the tile has not written is poisoned. -/
def Obligations.LoadReturnsOwnWriteOrSnapshot : Prop :=
  ∀ (s s' : State) (t : Tile) (va loc n : Nat),
    s.here.tile = some t → translate (t.reg.ctx (some (clusterOf s.core))) .read va s = .ok loc s' →
    let p := s.m.view t.start t.reg.asid va loc
    p + n ≤ 2 ^ 56 →
    (∀ a, p ≤ a → a < p + n → s.m.shadows.contains (a / 0x1_0000) = false ∧
      ((SMap.find t.ver.bytes a).isSome ∨ s.m.poisonedAt t.start a = false)) →
    loadBytes s.core va n s =
      .ok ((List.range n).map fun i => (SMap.find t.ver.bytes (p + i)).getD
        ((SMap.find t.seen (p + i)).getD (s.m.byteAt t.start (p + i)))) s' ∧
    s' = { s with clusters := s'.clusters }

/-- R54, R62, R69, R133: a store to global memory goes into the tile's open version and nowhere else: a load of the tile
finds it there, committed memory keeps every byte, and so does the rest of the version; beyond VER_BYTES it traps
PHASE_OVERFLOW; one that asks more of a full overflow area waits (R52; which lines spill into it is log 39's reading). -/
def Obligations.StoreGoesToTheOpenVersion : Prop :=
  ∀ (s s' : State) (t : Tile) (va loc : Nat) (l : List Byte),
    s.here.tile = some t → translate (t.reg.ctx (some (clusterOf s.core))) .write va s = .ok loc s' →
    let p := s.m.view t.start t.reg.asid va loc
    let bytes := (placed p l).foldl (fun b e => SMap.put b e.1 e.2) t.ver.bytes
    let grown := (verSectors { t.ver with bytes := bytes } - verSectors t.ver) * 128
    let t' : Tile := { t with ver := { t.ver with
      bytes := bytes, via := SMap.put t.ver.via (p / 0x1_0000) (va / 0x1_0000) } }
    let u := s'.updCore s.core fun k => { k with tile := some t' }
    let fits : Prop := grown = 0 ∨ regionVerBytes s' t.reg.id + grown ≤ t.reg.verBytes
    let room : Prop := overflowAllows s' u = true
    (fits → room →
      storeBytes s.core va l s = .ok () u ∧
      (∀ i < l.length, SMap.find bytes (p + i) = l[i]?) ∧
      (∀ a, a < p ∨ p + l.length ≤ a → SMap.find bytes a = SMap.find t.ver.bytes a) ∧
      (∀ a, u.m.byte a = s.m.byte a)) ∧
    (fits → ¬room → storeBytes s.core va l s = .error (.wait .memory) s') ∧
    (¬fits → storeBytes s.core va l s = .error (.trap .phaseOverflow va) s')

/-- R44, R46: outside every window, a store to scratchpad bytes of the tile's allocation writes exactly those bytes, and a
load reads them, if no sector it reads is poisoned; an offset outside the allocation traps SCRATCH_RANGE. -/
def Sys2Proof.Parts.PlainScratchpadAccess : Prop :=
  ∀ (s : State) (t : Tile) (a n : Nat) (l : List Byte),
    s.here.tile = some t → s.here.windows = [] →
    (a + n ≤ t.reg.spTile → a + n ≤ Config.scratchBytes →
      (∀ i < n, s.here.spPoison.contains ((a + i) / 128) = false) → 0 < n →
      spLoad s.core a n s = .ok ((List.range n).map fun i => s.here.spByte (a + i)) s) ∧
    (a + l.length ≤ t.reg.spTile → a + l.length ≤ Config.scratchBytes →
      ∃ k, spStore s.core a l s = .ok () (s.setCore s.core k) ∧
        (∀ i < l.length, some (k.spByte (a + i)) = l[i]?) ∧
        (∀ b, b < a ∨ a + l.length ≤ b → k.spByte b = s.here.spByte b) ∧
        k = { s.here with sp := k.sp, spPoison := k.spPoison, soiled := k.soiled }) ∧
    (a + n > t.reg.spTile ∨ a + n > Config.scratchBytes →
      spLoad s.core a n s = .error (.trap .scratchRange a) s ∧
      (l.length = n → spStore s.core a l s = .error (.trap .scratchRange a) s))

/-- R46, R47: an access inside one chunk of an installed window. A store into a SNAP window traps XLATE_PERMISSION. An access
to an unfilled chunk begins its fill with what a load returns now and waits; one to a chunk that is being filled waits;
one to a chunk whose fill met a fault traps with it at the chunk's virtual address, and the fault is reported once. A load
of a valid chunk reads its bytes, and a store to one of a RW or NOFILL window writes its bytes and makes exactly their sectors
dirty. -/
def Sys2Proof.Parts.WindowAccess : Prop :=
  ∀ (s : State) (t : Tile) (i a n ch : Nat) (w : Window) (l : List Byte),
    let k := s.here
    let x := k.chunk ch
    let va := chunkVa w.desc ch
    let mode := winMode w.desc
    let inside (n : Nat) : Prop := ch * 4096 ≤ a ∧ a + n ≤ ch * 4096 + 4096 ∧ 0 < n
    let fits (n : Nat) : Prop := a + n ≤ t.reg.spTile ∧ a + n ≤ Config.scratchBytes
    k.tile = some t → k.windowAt ch = some (i, w) →
    (mode = modeSnap → a < ch * 4096 + 4096 → ch * 4096 < a + l.length →
      spStore s.core a l s = .error (.trap .xlatePermission a) s) ∧
    (inside n → fits n → mode ≤ modeNofill →
      (x.run = .filling → spLoad s.core a n s = .error (.wait .memory) s) ∧
      (x.run = .unfilled →
        (∀ code, x.fault = some code → spLoad s.core a n s =
          .error (.trap code va) (s.updCore s.core fun k => k.updChunk ch fun y => { y with fault := none })) ∧
        (∀ d u, x.fault = none → va + 4096 ≤ 2 ^ 56 → loadRange s.core va 4096 s = .ok d u →
          spLoad s.core a n s =
            .error (.wait .memory) (u.updCore s.core fun k => k.updChunk ch fun y => { y with run := .filling, fill := d }))) ∧
      (x.run = .valid → (∀ j < n, k.spPoison.contains ((a + j) / 128) = false) →
        spLoad s.core a n s = .ok ((List.range n).map fun j => k.spByte (a + j)) s)) ∧
    (inside l.length → fits l.length → mode = modeRw ∨ mode = modeNofill →
      (x.run = .filling → spStore s.core a l s = .error (.wait .memory) s) ∧
      (x.run = .valid → ∃ k', spStore s.core a l s = .ok () (s.setCore s.core k') ∧
        (∀ j < l.length, some (k'.spByte (a + j)) = l[j]?) ∧
        (∀ b, b < a ∨ a + l.length ≤ b → k'.spByte b = k.spByte b) ∧
        (∀ j < 32, (k'.chunk ch).dirty.getLsbD j =
          (x.dirty.getLsbD j || decide (a < ch * 4096 + 128 * j + 128 ∧ ch * 4096 + 128 * j < a + l.length))) ∧
        (∀ y ≠ ch, k'.chunk y = k.chunk y) ∧
        k' = { k with sp := k'.sp, spPoison := k'.spPoison, soiled := k'.soiled, chunks := k'.chunks }))

/-- R44–R47: outside every window a scratchpad access touches exactly its bytes or traps SCRATCH_RANGE; inside one, a
store into a SNAP window traps, an unfilled chunk is filled first, and a store makes its sectors dirty. -/
def Obligations.ScratchpadAccess : Prop := Parts.PlainScratchpadAccess ∧ Parts.WindowAccess

/-- R136: the new value of each atomic, on the n bits of its operands; none where CAS does not match. -/
def Sys2Proof.Parts.AtomicValues : Prop :=
  ∀ (n old v w : Nat), (n = 32 ∨ n = 64) → old < 2 ^ n → v < 2 ^ n →
    let sx (x : Nat) : Int := (BitVec.ofNat n x).toInt
    atomNew .add n old v w = some ((old + v) % 2 ^ n) ∧ atomNew .and n old v w = some (old &&& v) ∧
    atomNew .or n old v w = some (old ||| v) ∧ atomNew .xor n old v w = some (old ^^^ v) ∧
    (∃ x, atomNew .min n old v w = some x ∧ sx x = min (sx old) (sx v) ∧ (x = old ∨ x = v)) ∧
    (∃ x, atomNew .max n old v w = some x ∧ sx x = max (sx old) (sx v) ∧ (x = old ∨ x = v)) ∧
    atomNew .minu n old v w = some (min old v) ∧ atomNew .maxu n old v w = some (max old v) ∧
    atomNew .swp n old v w = some v ∧ atomNew .cas n old v w = if old = v then some w else none

/-- R64, R136, R137: an atomic of CTL on an aligned, writable address of the device's own memory, which is not poisoned, lies on no
unexchanged shadow page and is pinned by no other cluster, completes in one step: Sd takes the old value, memory the new one, and CTL goes on. At
device or system scope the line is first released and the value committed with a new stamp; at core or cluster scope it
is written into the line that the cluster pins. -/
def Sys2Proof.Parts.AtomicsPerform : Prop :=
  ∀ (s s' : State) (t : Tile) (loc : Nat) (hi : BitVec 4) (a d b c : BitVec 6) (op : AtomOp) (i : Instr),
    (∃ (ext : Word), bits ext 0 6 = b ∧ (let o : RL4 := ⟨d, a, hi, ext⟩
      op = .add ∧ i = .atomAdd o ∨ op = .and ∧ i = .atomAnd o ∨ op = .or ∧ i = .atomOr o ∨ op = .xor ∧ i = .atomXor o ∨
      op = .min ∧ i = .atomMin o ∨ op = .max ∧ i = .atomMax o ∨ op = .minu ∧ i = .atomMinu o ∨
      op = .maxu ∧ i = .atomMaxu o ∨ op = .swp ∧ i = .atomSwp o) ∨
      bits ext 0 6 = b ∧ bits ext 8 6 = c ∧ op = .cas ∧ i = .cas ⟨d, a, hi ++ (0 : BitVec 4), ext⟩) →
    fieldsOk .ctl i = true → s.here.tile = some t → s.here.ctl.remote = none →
    let size := if hi.getLsbD 2 then 8 else 4
    let va := (s.here.sreg a.toNat).toNat
    va % size = 0 → translate (t.reg.ctx (some (clusterOf s.core))) .write va s = .ok loc s' → loc < 2 ^ 56 →
    s'.m.poison.contains (loc / 128) = false → s'.m.shadows.contains (loc / 0x1_0000) = false → pinnedElsewhere s' (some (clusterOf s.core)) loc = false →
    let v := (s.here.sreg b.toNat).toNat % 2 ^ (8 * size)
    let w := if op = .cas then (s.here.sreg c.toNat).toNat % 2 ^ (8 * size) else 0
    let put (old : Nat) : List (Nat × Byte) := placed loc (bytesOf size ((atomNew op (8 * size) old v w).getD old))
    let done (old : Nat) (u : State) : Host.Outcome State Fault Refusal :=
      .next ((u.updCore s.core fun k => k.setS d.toNat (BitVec.ofNat 64 old)).advance s.core .ctl 8)
    (hi.toNat % 4 < 2 →
      let old := ofBytes ((List.range size).map fun j => nearByte s' (clusterOf s.core) (loc + j))
      exec i s = done old (pinWrite (clusterOf s.core) t.reg.id loc (put old) s')) ∧
    (2 ≤ hi.toNat % 4 →
      let u := releaseLines (clusterOf s.core) (fun x => x.line = loc / 256) s'
      let old := u.m.readNat loc size
      exec i s = done old (commitLocal (some t.reg.id) (put old) u))

/-- R64, R136, R137: the value that each atomic computes, and that an atomic of CTL on the device's own memory completes
in one step with it, at each scope. -/
def Obligations.AtomicsComplete : Prop := Parts.AtomicValues ∧ Parts.AtomicsPerform

/-- R55, R136: committing bytes changes exactly those bytes of memory, and takes one new stamp. -/
def Sys2Proof.Parts.CommitWritesItsBytes : Prop :=
  ∀ (s : State) (r : Option Nat) (loc : Nat) (l : List Byte),
    let t := commitLocal r (placed loc l) s
    (∀ i < l.length, some (t.m.byte (loc + i)) = l[i]?) ∧
    (∀ a, a < loc ∨ loc + l.length ≤ a → t.m.byte a = s.m.byte a) ∧
    t.m.pubCount = (s.m.pubCount + 1) % 2 ^ 48 ∧
    t = { s with m := t.m } ∧ t.m.remote = s.m.remote ∧ t.m.xs = s.m.xs

/-- R53–R55, R69: committing a version whose bytes, where the page tables place them now, all lie in the device's own memory,
none of them pinned by another cluster, with room for what it supersedes (log 39), writes every byte of the version, leaves
the version empty and begins a new phase at the newest stamp. -/
def Sys2Proof.Parts.CommitVersionPublishes : Prop :=
  ∀ (s : State) (t : Tile) (c : Nat),
    let v := s.m.versionNow t
    (s.coreOf c).tile = some t → SMap.sorted v = true → (∀ e ∈ v, e.1 < 2 ^ 56) →
    (∀ e ∈ v, pinnedElsewhere s (some (clusterOf c)) e.1 = false) → overflowAllows s (committed c t s) = true →
    t.exchanges = [] → (s.clusterAt (clusterOf c)).near = [] →
    ∃ u t', commitVersion c s = .ok () u ∧ (u.coreOf c).tile = some t' ∧
      (∀ a, u.m.byte a = (SMap.find v a).getD (s.m.byte a)) ∧
      t'.ver.bytes = [] ∧ t'.start = u.m.pubCount ∧ u.m.pubCount = (s.m.pubCount + 1) % 2 ^ 48

/-- R69, 12 R368: an exchange of two pages, each named by a leaf of its own. In committed memory the two leaves exchange their
ADDR fields and nothing else changes, under the stamp of the publication. A phase that started before it goes on finding every
byte of both pages, by either address, where it found it; no other address of any address space moves, and nothing moves for
a phase that starts later. -/
def Sys2Proof.Parts.PagesExchange : Prop :=
  ∀ (s : State) (x : Exchange) (off start o va loc asid : Nat) (a b : Nat × DWord),
    leaf64 s.m x.xroot (x.dst + off) = some a → leaf64 s.m x.xroot (x.shadow + off) = some b →
    let t := exchangePage x off s
    let page (e : DWord) := pteAddr e / 0x1_0000 * 0x1_0000
    let swapped (l m : DWord) (at_ : Nat) : Prop := ∀ i < 64,
      (t.m.readNat at_ 8).testBit i = if 8 ≤ i ∧ i < 56 then m.getLsbD i else l.getLsbD i
    let named : Prop := asid = x.asid ∧ (va / 0x1_0000 * 0x1_0000 = x.dst + off ∨ va / 0x1_0000 * 0x1_0000 = x.shadow + off)
    (a.1 + 8 ≤ b.1 ∨ b.1 + 8 ≤ a.1 → swapped a.2 b.2 a.1 ∧ swapped b.2 a.2 b.1) ∧
    (∀ y, (y < a.1 ∨ a.1 + 8 ≤ y) → (y < b.1 ∨ b.1 + 8 ≤ y) → t.m.byte y = s.m.byte y) ∧
    t.m.pubCount = s.m.pubCount ∧
    (x.dst % 0x1_0000 = 0 → x.shadow % 0x1_0000 = 0 → off % 0x1_0000 = 0 → o < 0x1_0000 → page a.2 ≠ page b.2 →
      later start s.m.pubCount = true →
      t.m.view start x.asid (x.dst + off + o) (page b.2 + o) = s.m.view start x.asid (x.dst + off + o) (page a.2 + o) ∧
      t.m.view start x.asid (x.shadow + off + o) (page a.2 + o) = s.m.view start x.asid (x.shadow + off + o) (page b.2 + o)) ∧
    (¬named ∨ later start s.m.pubCount = false → t.m.view start asid va loc = s.m.view start asid va loc)

/-- R54, R55, R69: the publication of a tile that has asked for one exchange of a page makes it together with the version's
commit, under its one stamp, and the pages hold no shadow any more; here the version is empty, so the exchange is all that
changes in memory. -/
def Sys2Proof.Parts.PublicationExchanges : Prop :=
  ∀ (s : State) (t : Tile) (c : Nat) (x : Exchange),
    (s.coreOf c).tile = some t → t.ver.bytes = [] → t.exchanges = [x] → x.len = 0x1_0000 → x.bytes = [] →
    (s.clusterAt (clusterOf c)).near = [] → overflowAllows s (committed c t s) = true →
    ∃ u t', commitVersion c s = .ok () u ∧ (u.coreOf c).tile = some t' ∧
      (∀ y, u.m.byte y = (exchangePage x 0 s).m.byte y) ∧ (∀ p ∈ x.pages, u.m.shadows.contains p = false) ∧
      t'.exchanges = [] ∧ t'.start = u.m.pubCount ∧ u.m.pubCount = (s.m.pubCount + 1) % 2 ^ 48

/-- R53–R55, R69: committing bytes writes exactly those bytes under one new stamp; committing a version writes all of it,
empties it and begins a new phase; the shadow pages of a CPYS are exchanged with it, and a phase that is open goes on
reading what it read. -/
def Obligations.PublicationCommits : Prop := Parts.CommitWritesItsBytes ∧ Parts.CommitVersionPublishes ∧ Parts.PagesExchange ∧ Parts.PublicationExchanges

/-- R139, R140 and 01 R19: a wait for no more tokens than are there takes them and goes on; one for more waits and changes
no count. A post adds its count and goes on, or traps TOKEN_OVERFLOW beyond 255; LD and ST post once their direct
operations, and ST's stores, are done. -/
def Sys2Proof.Parts.TokensComplete : Prop :=
  ∀ (o : RI) (s : State),
    let q := sharer s
    let r := seqOf o.a.toNat
    let k := s.here
    (fieldsOk q (.tkwait o) = true →
      (o.imm.toNat ≤ k.tokens r q →
        exec (.tkwait o) s = .next (seqDone s q 4 fun k => k.setTokens r q (k.tokens r q - o.imm.toNat))) ∧
      (k.tokens r q < o.imm.toNat → exec (.tkwait o) s = .next (stallSeq s.core q .token s))) ∧
    (fieldsOk q (.tkpost o) = true → postReady k q = true ∨ o.imm = 0 →
      (k.tokens q r + o.imm.toNat ≤ 255 →
        exec (.tkpost o) s = .next (seqDone s q 4 fun k => k.setTokens q r (k.tokens q r + o.imm.toNat))) ∧
      (255 < k.tokens q r + o.imm.toNat →
        exec (.tkpost o) s = settle s.core q (.error (.trap .tokenOverflow 0) s)))

/-- R141: SEMWAIT observes a semaphore that has reached v = (Sa + ext)[47:0], and waits while it has not; SEMSET replaces
the value and returns the old one; SEMADD adds and returns the sum; a sum beyond 2^48 − 1 leaves that value and posts
SEM_OVERFLOW to the tile's region. -/
def Sys2Proof.Parts.SemaphoresComplete : Prop :=
  ∀ (o : RL) (s : State) (t : Tile),
    let xsem := o.f8.getLsbD 7
    let n := o.f8.toNat % 64
    let v := ((s.here.sreg o.a.toNat).toNat + o.ext.toNat) % 2 ^ 48
    let sem := s.semOf s.core xsem n
    let ret (u : State) (w : BitVec 48) : Host.Outcome State Fault Refusal :=
      .next ((u.updCore s.core fun k => k.setS o.d.toNat (w.setWidth 64)).advance s.core .ctl 8)
    s.here.tile = some t → o.f8.getLsbD 6 = false → (xsem = true ∨ n < 32) →
      (v ≤ sem.toNat → exec (.semwait o) s = ret s sem) ∧
      (sem.toNat < v → exec (.semwait o) s = .next (stallSeq s.core .ctl .object s)) ∧
      exec (.semset o) s = ret (s.setSem s.core xsem n (BitVec.ofNat 48 v)) sem ∧
      (sem.toNat + v < 2 ^ 48 →
        exec (.semadd o) s = ret (s.setSem s.core xsem n (BitVec.ofNat 48 (sem.toNat + v))) (BitVec.ofNat 48 (sem.toNat + v))) ∧
      (2 ^ 48 ≤ sem.toNat + v → ∃ u, exec (.semadd o) s = ret u (BitVec.ofNat 48 (2 ^ 48 - 1)) ∧
        postEvent t.reg.id .semOverflow 0 (s.setSem s.core xsem n (BitVec.ofNat 48 (2 ^ 48 - 1))) = .ok () u)

/-- R142: ARVW writes the bitmap that satisfies it to Sd, and waits while none does; ARVCLR clears the bits of its mask. -/
def Sys2Proof.Parts.ArrivalBitmapsComplete : Prop :=
  ∀ (o : R3F) (s : State), o.a.toNat < 8 →
    let v := SMap.get 0 s.here.arv o.a.toNat
    let m := s.here.sreg o.b.toNat
    let met := (o.f = 0 ∧ v &&& m = m) ∨ (o.f = 1 ∧ (m = 0 ∨ v &&& m ≠ 0))
    (o.f.toNat < 2 →
      (met → exec (.arvw o) s = .next (ctlDone s 4 fun k => k.setS o.d.toNat v)) ∧
      (¬met → exec (.arvw o) s = .next (stallSeq s.core .ctl .object s))) ∧
    (o.d = 0 → o.f = 0 →
      exec (.arvclr o) s = .next (ctlDone s 4 fun k => { k with arv := SMap.put k.arv o.a.toNat (v &&& ~~~m) }))

/-- R139–R142 and R19: TKWAIT, TKPOST, SEMWAIT, SEMADD, SEMSET, ARVW and ARVCLR complete with their effects, or wait while
their condition does not hold. -/
def Obligations.SyncObjectsComplete : Prop := Parts.TokensComplete ∧ Parts.SemaphoresComplete ∧ Parts.ArrivalBitmapsComplete

/-- R143, R144, R161: FENCE goes on once everything of its scope is done, releasing the cluster's pinned lines at device
and system scope, and waits otherwise; ACQ goes on, at system scope raising RDC_FLOOR to the newest stamp; NOP does
nothing. -/
def Sys2Proof.Parts.FencesComplete : Prop :=
  ∀ (o : R3F) (s : State),
    let q := sharer s
    (o.d = 0 → o.a = 0 → o.b = 0 →
      (fenceReady s s.core q = true → o.f.toNat < 2 → exec (.fence o) s = .next (s.advance s.core q 4)) ∧
      (fenceReady s s.core q = true → 2 ≤ o.f.toNat →
        exec (.fence o) s = .next ((releaseLines (clusterOf s.core) (fun _ => true) s).advance s.core q 4)) ∧
      (fenceReady s s.core q = false → exec (.fence o) s = .next (stallSeq s.core q .memory s)) ∧
      (o.f.toNat < 3 → exec (.acq o) s = .next (s.advance s.core .ctl 4)) ∧
      (o.f.toNat = 3 → exec (.acq o) s = .next (ctlDone s 4 fun k =>
        { k with rdcFloor := s.m.pubCount }))) ∧
    exec .nop s = .next (s.advance s.core q 4)

/-- R54, R145: with no copy outstanding, no window and no slot tag waiting, PUBLISH commits the open version and the
executing sequencer goes on; a publication that had to wait for copies commits the same way when they are done. -/
def Sys2Proof.Parts.PublicationCompletes : Prop :=
  ∀ (s u : State) (q : Seq) (t : Tile),
    (s.coreOf s.core).tile = some t → (s.coreOf s.core).copies = [] → (s.coreOf s.core).windows = [] → t.tagUpdates = [] →
    commitVersion s.core s = .ok () u →
    (q = sharer s → (q = .st → stDrained s.here = true) → exec .publish s = .next (u.advance s.core q 4)) ∧
    (s.ev.core = s.core → s.ev.sq = q → ((s.coreOf s.core).seq q).publishing = some .publish →
      exec .publicationCommit s = .next (u.advance s.core q 4))

/-- R143–R145, R161: FENCE goes on once everything of its scope is done and waits otherwise, ACQ and NOP go on, and
PUBLISH commits the open version. -/
def Obligations.FencesAndPublicationComplete : Prop := Parts.FencesComplete ∧ Parts.PublicationCompletes

/-- R146: after every update a generation completes exactly where E > 0, A = E and B = 0: it advances by one and A returns
to 0. -/
def Sys2Proof.Parts.BarrierGenerations : Prop :=
  ∀ (b : Barrier),
    (0 < b.e ∧ b.a = b.e ∧ b.b = 0 → checkBarrier b = { b with a := 0, gen := b.gen + 1 }) ∧
    (¬(0 < b.e ∧ b.a = b.e ∧ b.b = 0) → checkBarrier b = b) ∧
    ¬(0 < (checkBarrier b).e ∧ (checkBarrier b).a = (checkBarrier b).e ∧ (checkBarrier b).b = 0)

/-- R147: BARV, once its publication has committed, adds one to the arrivals and records the generation it joined; where
every expected arrival has been made already it waits, and then arrives without publishing again. BARW goes on, in a new
phase, once the generation it joined, or found at its start where the tile has joined none, has completed; until then it
waits and keeps that generation. -/
def Sys2Proof.Parts.BarrierInstructions : Prop :=
  ∀ (o : R3F) (s u : State) (t : Tile),
    let device := o.f.getLsbD 0
    let n := o.a.toNat
    let cl := clusterOf s.core
    let b := s.barrier cl device n
    let mine (j : Joined) := j.device = device && j.num = n
    let g := (((t.joined.find? mine).or s.here.ctl.barw).map (·.gen)).getD b.gen
    let arrive (u : State) : Host.Outcome State Fault Refusal :=
      .next (((u.updBarrier cl device n fun b => { b with a := b.a + 1 }).updCore s.core fun k =>
        { k with tile := k.tile.map fun t =>
          { t with joined := ⟨device, n, b.gen⟩ :: t.joined.filter fun j => !mine j } }).advance s.core .ctl 4)
    let wait (u : State) : Host.Outcome State Fault Refusal :=
      .next (stallSeq s.core .ctl .object (u.updSeq s.core .ctl fun x => { x with granted := some 0, publishing := none }))
    s.here.tile = some t → fieldsOk .ctl (.barv o) = true →
    (b.e = 0 → exec (.barv o) s = settle s.core .ctl (.error (.trap .reservedField 0) s) ∧
      exec (.barw o) s = settle s.core .ctl (.error (.trap .reservedField 0) s)) ∧
    (b.e ≠ 0 → s.here.copies = [] → s.here.windows = [] → t.tagUpdates = [] → s.here.ctl.granted = none →
      commitVersion s.core s = .ok () u → u.barrier cl device n = b →
      exec (.barv o) s = if b.a = b.e then wait u else arrive u) ∧
    (b.e ≠ 0 → s.here.ctl.granted.isSome = true → exec (.barv o) s = if b.a = b.e then wait s else arrive s) ∧
    (b.e ≠ 0 → s.here.windows = [] → g < b.gen →
      ∃ v, newPhase s.core s = .ok () v ∧
        exec (.barw o) s = .next ((v.updCore s.core fun k =>
          { k with tile := k.tile.map fun t => { t with joined := t.joined.filter fun j => !mine j } }).advance s.core .ctl 4)) ∧
    (b.e ≠ 0 → b.gen ≤ g → exec (.barw o) s =
      .next (stallSeq s.core .ctl .object (s.updSeq s.core .ctl fun x => { x with barw := some ⟨device, n, g⟩ })))

/-- R146, R147: a generation completes exactly where E > 0, A = E and B = 0; BARV arrives after its publication, or waits
where every arrival has been made; BARW goes on once its generation has completed, and waits until then. -/
def Obligations.BarriersComplete : Prop := Parts.BarrierGenerations ∧ Parts.BarrierInstructions

/-- R148–R151: WSET installs a window whose descriptor is well formed, fits the tile's scratchpad and overlaps none; WREL
writes a window back and removes it, and of one not installed does nothing; MQADV advances the head of an MQ
window by min(Sb, the entries it holds); HSET writes the low word; TMPLD writes a template entry whole. -/
def Obligations.WindowsHandlesTemplatesComplete : Prop :=
  ∀ (s : State) (t : Tile), s.here.tile = some t →
    (∀ o : R3F, o.d.toNat < 32 → o.f = 0 →
      let d : QWord := s.here.sreg o.b.toNat ++ s.here.sreg o.a.toNat
      winReserved d = false → 0 < winLen d → winSoff d + winLen d ≤ 512 → (winSoff d + winLen d) * 4096 ≤ t.reg.spTile →
      winOverlaps s.here d = false → SMap.find s.here.windows o.d.toNat = none →
      (winMode d = modeMq → 2 ≤ winLen d * 4096 / mqEsz d) →
      exec (.wset o) s = .next (ctlDone s 4 (installWindow o.d.toNat d))) ∧
    (∀ o : R3F, o.d.toNat < 32 → o.a = 0 → o.b = 0 → o.f = 0 →
      (SMap.find s.here.windows o.d.toNat = none → exec (.wrel o) s = .next (s.advance s.core .ctl 4)) ∧
      (∀ w u, SMap.find s.here.windows o.d.toNat = some w → w.mq.msgs = [] →
        writeBackChunks s.core w.desc (upto (winSoff w.desc) (winLen w.desc)) s = .ok () u →
        exec (.wrel o) s = .next ((u.updCore s.core (removeWindow o.d.toNat)).advance s.core .ctl 4)) ∧
      (∀ w : Window, winMode w.desc ≠ modeRw → winMode w.desc ≠ modeNofill →
        writeBackChunks s.core w.desc (upto (winSoff w.desc) (winLen w.desc)) s = .ok () s)) ∧
    (∀ o : R3F, o.a.toNat < 32 → o.f = 0 → ∀ w, SMap.find s.here.windows o.a.toNat = some w → winMode w.desc = modeMq →
      let n := min (s.here.sreg o.b.toNat).toNat (w.mq.tail - w.mq.head)
      exec (.mqadv o) s = .next (((setMq s.core o.a.toNat (fun q => { q with head := q.head + n }) s).updCore s.core
        fun k => k.setS o.d.toNat (BitVec.ofNat 64 n)).advance s.core .ctl 4)) ∧
    (∀ o : R3F, o.d.toNat < 16 → o.b = 0 → o.f = 0 →
      exec (.hset o) s = .next (ctlDone s 4 fun k =>
        { k with h := SMap.put k.h o.d.toNat ((s.here.sreg o.a.toNat).setWidth 32) })) ∧
    (∀ (o : RL) (l : List Byte) (u : State), bits o.f8 2 6 = 0 →
      let a := (s.here.sreg o.a.toNat + o.ext.signExtend 64).toNat
      a % 16 = 0 → spLoad s.core a 16 s = .ok l u →
      exec (.tmpld o) s = .next (((u.updCore s.core
        (setTemplate (o.f8.toNat % 4) o.d.toNat (BitVec.ofNat 128 (ofBytes l)))).updCore s.core
          fun k => { k with tile := k.tile.map fun t => { t with tmplRan := true } }).advance s.core .ctl 8))

/-- R153: a class-T condition on sequencer q, met with trap mode off by a tile whose nest has a CTL trap entry, records its
cause, the address of the stopped instruction, the faulting address and where CTL will resume; turns trap mode on; and
puts CTL at the trap entry. A sequencer other than CTL stops where it stands, and ST keeps the clocks of a wait it gives
up (08 R264). Nothing else changes. While CTL has an atomic out on the host or a peer, the other sequencer waits first (log 8:
the model's choice). -/
def Sys2Proof.Parts.TrapTaken : Prop :=
  ∀ (s : State) (t : Tile) (c va : Nat) (q : Seq) (code : Machine.Code) (imm : BitVec 8),
    (s.coreOf c).tile = some t → (s.coreOf c).trap.mode = false → t.nrec.entryHalf .ctl 3 ≠ 0 →
    let k := s.coreOf c
    (q = .ctl ∨ k.ctl.remote = none → ∃ k', takeTrap c q code va imm s = .ok () (s.setCore c k') ∧
      k'.trap = { k.trap with mode := true, code := code.num, seq := seqNum q, imm := imm, pc := (k.seq q).pc
                              va := BitVec.ofNat 64 va, ret := k.ctl.pc } ∧
      k'.ctl.pc = BitVec.ofNat 64 (t.nrec.entryAt .ctl 3) ∧ k'.ctl.run = .running ∧ k'.ctl.stage = k.ctl.stage ∧
      (∀ p, p ≠ .ctl → p ≠ q → k'.seq p = k.seq p) ∧
      (q ≠ .ctl → (k'.seq q).run = .trapped ∧ (k'.seq q).pc = (k.seq q).pc ∧ (k'.seq q).stage = (k.seq q).stage ∧
        (k'.seq q).iters = (k.seq q).iters) ∧
      k'.mqWait = (if q = .st then k.rputWait s.cycle else k.mqWait) ∧
      k' = { k with ctl := k'.ctl, ld := k'.ld, cmp := k'.cmp, st := k'.st, trap := k'.trap, mqWait := k'.mqWait }) ∧
    (q ≠ .ctl → k.ctl.remote.isSome = true →
      takeTrap c q code va imm s = .ok () (s.updSeq c q fun x => { x with run := .stalled .memory }))

/-- R154: with trap mode on, a condition on LD, CMP or ST stops that sequencer and sets its pending bit, and leaves the trap
registers unchanged. -/
def Sys2Proof.Parts.TrapPends : Prop :=
  ∀ (s : State) (c va : Nat) (q : Seq) (code : Machine.Code) (imm : BitVec 8),
    (s.coreOf c).trap.mode = true → q ≠ .ctl →
    let k := s.coreOf c
    ∃ k', takeTrap c q code va imm s = .ok () (s.setCore c k') ∧
      k'.trap = { k.trap with pend := k'.trap.pend } ∧
      (∀ i < 4, k'.trap.pend.getLsbD i = (decide (i = seqNum q) || k.trap.pend.getLsbD i)) ∧
      (k'.seq q).run = .trapped ∧ (k'.seq q).pc = (k.seq q).pc ∧ (∀ p, p ≠ q → k'.seq p = k.seq p)

/-- R153, R154: with trap mode off a class-T condition records its cause and addresses and continues CTL at the trap
entry; with it on, a condition on LD, CMP or ST only stops that sequencer and marks it. -/
def Obligations.TrapEntry : Prop := Parts.TrapTaken ∧ Parts.TrapPends

/-- R153, R157: TRAP takes its trap: with trap mode off and a trap entry, the handler runs next, TRAP_CAUSE names
TRAP_INSN, CTL and imm8, and TRAP_RET the TRAP itself. So does a word of no assigned opcode, with ILLEGAL_OPCODE. -/
def Obligations.TrapInstructionTraps : Prop :=
  ∀ (o : RI) (s : State) (t : Tile),
    s.here.tile = some t → s.here.trap.mode = false → t.nrec.entryHalf .ctl 3 ≠ 0 →
    (o.d = 0 → o.a = 0 → ∃ u, exec (.trap o) s = .next u ∧
      (u.coreOf s.core).trap.code = 0x06 ∧ (u.coreOf s.core).trap.seq = 0 ∧ (u.coreOf s.core).trap.imm = o.imm ∧
      (u.coreOf s.core).trap.pc = s.here.ctl.pc ∧ (u.coreOf s.core).trap.ret = s.here.ctl.pc ∧
      (u.coreOf s.core).trap.va = 0 ∧ (u.coreOf s.core).trap.mode = true ∧
      (u.coreOf s.core).ctl.pc = BitVec.ofNat 64 (t.nrec.entryAt .ctl 3) ∧ u.m = s.m) ∧
    (s.sq = .ctl ∨ s.here.ctl.remote = none → ∃ u, exec .illegalOpcode s = .next u ∧ (u.coreOf s.core).trap.code = 0x01 ∧
      (u.coreOf s.core).trap.seq = seqNum s.sq ∧ (u.coreOf s.core).trap.pc = (s.here.seq s.sq).pc ∧
      (u.coreOf s.core).trap.mode = true ∧ u.m = s.m)

/-- R156: a return from a trap of CTL. RETRY goes back to TRAP_RET; SKIP moves TRAP_RET past the instruction there and goes on
from it (its length is what the word there gives now, 4 where it cannot be fetched: log 9, the model's choice); REDIRECT
traps RESERVED_FIELD. With trap mode off each traps PRIVILEGE, but for a REDIRECT with SEQ CTL, whose RESERVED_FIELD is the
lower code (01 R31). -/
def Sys2Proof.Parts.ReturnFromCtlTrap : Prop :=
  ∀ (s : State) (t : Tile), s.here.tile = some t → s.here.trap.ret.toNat % 4 = 0 →
    let out (u : State) := u.updCore s.core fun k => { k with trap := { k.trap with mode := false } }
    let ret := s.here.trap.ret
    let n := lengthAt s.core .ctl (s.updSeq s.core .ctl fun x => { x with pc := ret })
    (s.here.trap.mode = true → s.here.trap.seq = 0 →
      exec .rftRetry s = .next (ctlResumed s.core ret (out s)) ∧
      exec .rftSkip s = .next (ctlResumed s.core (ret + BitVec.ofNat 64 n) ((out s).updCore s.core fun k =>
        { k with trap := { k.trap with ret := ret + BitVec.ofNat 64 n } })) ∧
      exec .rftRedirect s = settle s.core .ctl (.error (.trap .reservedField 0) s)) ∧
    (s.here.trap.mode = false →
      exec .rftRetry s = settle s.core .ctl (.error (.trap .privilege 0) s) ∧
      exec .rftSkip s = settle s.core .ctl (.error (.trap .privilege 0) s) ∧
      (s.here.trap.seq = 0 → exec .rftRedirect s = settle s.core .ctl (.error (.trap .reservedField 0) s)) ∧
      (1 ≤ s.here.trap.seq → s.here.trap.seq ≤ 3 → exec .rftRedirect s = settle s.core .ctl (.error (.trap .privilege 0) s)))

/-- R156: a return from a trap of CMP. RETRY lets the stopped bundle execute again, SKIP resumes after it, REDIRECT puts
CMP at its trap entry in its epilogue, empties the held copies and the loop buffer; CTL goes back to TRAP_RET. -/
def Sys2Proof.Parts.ReturnFromCmpTrap : Prop :=
  ∀ (s : State) (t : Tile), s.here.tile = some t → s.here.trap.ret.toNat % 4 = 0 → s.here.trap.mode = true →
    s.here.trap.seq = 2 → s.here.cmp.stage ≠ .complete →
    let out := s.updCore s.core fun k => { k with trap := { k.trap with mode := false } }
    let ret := s.here.trap.ret
    exec .rftRetry s = .next (ctlResumed s.core ret (out.updCore s.core fun k => { k with cmp := resume k.cmp })) ∧
    exec .rftSkip s = .next (ctlResumed s.core ret (out.nextBundle s.core (lengthAt s.core .cmp out))) ∧
    exec .rftRedirect s = .next (ctlResumed s.core ret
      ((out.updCore s.core fun k => { k with cmp := redirect t.nrec .cmp k.cmp }).updCore s.core clearHeld))

/-- R156: a return from a trap of LD or ST. RETRY lets the stopped instruction execute again and REDIRECT puts the
sequencer at its trap entry in its epilogue, and both try the held heads of its queues again; SKIP resumes after the
instruction; CTL goes back to TRAP_RET. -/
def Sys2Proof.Parts.ReturnFromStreamTrap : Prop :=
  ∀ (s u : State) (t : Tile) (q : Seq), s.here.tile = some t → s.here.trap.ret.toNat % 4 = 0 → s.here.trap.mode = true →
    (q = .ld ∧ s.here.trap.seq = 1 ∨ q = .st ∧ s.here.trap.seq = 3) → (s.here.seq q).stage ≠ .complete →
    let out := s.updCore s.core fun k => { k with trap := { k.trap with mode := false } }
    let ret := s.here.trap.ret
    (retryHeads s.core q true (out.updCore s.core fun k => k.updSeq q resume) = .ok () u →
      exec .rftRetry s = .next (ctlResumed s.core ret u)) ∧
    (retryHeads s.core q false (out.advance s.core q (lengthAt s.core q out)) = .ok () u →
      exec .rftSkip s = .next (ctlResumed s.core ret u)) ∧
    (retryHeads s.core q true (out.updCore s.core fun k => k.updSeq q (redirect t.nrec q)) = .ok () u →
      exec .rftRedirect s = .next (ctlResumed s.core ret u)) ∧
    (∀ v b, (b = false ∨ ((v.coreOf s.core).streamer q).aq.it = false) →
      retryHeads s.core q b v = .ok () (v.updCore s.core (unhold q)))

/-- R156: RFT.RETRY, RFT.SKIP and RFT.REDIRECT after a trap of CTL, of CMP, and of LD or ST; outside trap mode they trap
PRIVILEGE. -/
def Obligations.ReturnsFromTraps : Prop := Parts.ReturnFromCtlTrap ∧ Parts.ReturnFromCmpTrap ∧ Parts.ReturnFromStreamTrap

/-- R158: TEND, once LD, CMP and ST have completed and drained and the version can be committed, publishes and marks the
tile committed, CTL idle; until then it waits, shown as running (log 19); in trap mode it traps RESERVED_FIELD. -/
def Sys2Proof.Parts.TendPublishes : Prop :=
  ∀ (s : State) (t : Tile), s.here.tile = some t →
    (s.here.trap.mode = true → exec .tend s = settle s.core .ctl (.error (.trap .reservedField 0) s)) ∧
    (s.here.trap.mode = false → tendReady s s.core = false → exec .tend s = .next (stallSeq s.core .ctl .engine s)) ∧
    (∀ u, s.here.trap.mode = false → tendReady s s.core = true → s.here.copies = [] → s.here.windows = [] →
      t.tagUpdates = [] → commitVersion s.core s = .ok () u →
      exec .tend s = .next ((u.updCore s.core fun k => { k with tile := k.tile.map fun t =>
        { t with committed := true } }).updSeq s.core .ctl fun x => { x.clearWaits with run := .idle }))

/-- R158, 06 R185, 08 R256: TEND.ABORT and TEND.ESC always end the tile: in one step the core loses it, with its copies and its
windows, but for MQ windows whose granted entries have not landed; then its record is given to the region's fault queue
(the cause outside trap mode: log 12), which alone may still write memory. Of the open version no byte is committed: where
the tile has no exchange under way, its cluster pins no line and its nest is no cohort, memory is the same in every byte, and
after TEND.ABORT it is so outside the record and the queue's TAIL, or everywhere where the queue cannot be used. -/
def Sys2Proof.Parts.TendAbortEndsTheTile : Prop :=
  ∀ (s : State) (t : Tile), s.here.tile = some t →
    let c := s.core
    let k := s.here
    let rec_ : Record := { region := t.reg.id, nid := t.nid, core := c, tile := t.ord
                           code := if k.trap.mode then k.trap.code else 0x06
                           seq := if k.trap.mode then k.trap.seq else 0xFF
                           va := if k.trap.mode then k.trap.va.toNat else 0
                           pc := if k.trap.mode then k.trap.pc.toNat else 0 }
    let quiet : Prop := t.exchanges = [] ∧ (∀ x ∈ k.copies, x.kind ≠ .shadow) ∧ (s.clusterAt (clusterOf c)).near = [] ∧
      ∀ i, slotOfNid s t.nid = some i → (s.slot i).nrec.cohort = false
    ∃ w : State, (w.coreOf c).tile = none ∧ (w.coreOf c).windows = k.landingWindows ∧ (w.coreOf c).copies = [] ∧
      (quiet → ∀ a, w.m.byte a = s.m.byte a) ∧
      (∃ u, fqSubmit ⟨t.reg, .record rec_ true⟩ w = .ok () u ∧ exec .tendEsc s = .next u) ∧
      ∃ u, fqSubmit ⟨t.reg, .record rec_ false⟩ w = .ok () u ∧ exec .tendAbort s = .next u ∧
        (quiet → s.ns.jobs = [] →
          (t.reg.valid = false ∨ fqUsable t.reg = false → ∀ a, u.m.byte a = s.m.byte a) ∧
          (t.reg.valid = true → fqUsable t.reg = true → ∀ hdr v loc loc4,
            readAs (t.reg.ctx none) t.reg.fqBase 0x20 w = .ok hdr v →
            let head := ofBytes (hdr.take 4)
            let tail := ofBytes ((hdr.drop 4).take 4)
            (tail + 2 ^ 32 - head) % 2 ^ 32 ≠ t.reg.fqEntries →
            translate (t.reg.ctx none) .write (t.reg.fqBase + 0x20 + 32 * (tail % t.reg.fqEntries)) v = .ok loc v →
            let v1 := commitLocal (some t.reg.id) (placed loc (recordBytes rec_)) v
            translate (t.reg.ctx none) .write (t.reg.fqBase + 4) v1 = .ok loc4 v1 → loc < 2 ^ 56 → loc4 < 2 ^ 56 →
            ∀ a, (a < loc ∨ loc + 32 ≤ a) → (a < loc4 ∨ loc4 + 4 ≤ a) → u.m.byte a = s.m.byte a))

/-- R160, R189: YIELD goes on to the next word; with a yield request pending and trap mode off the tile begins to be saved, the
other sequencers stopping at their instruction boundaries, where one that waits gives its wait up, and the newest of several
operations at the compute port staying unstarted (11 R354). -/
def Sys2Proof.Parts.YieldCompletes : Prop :=
  ∀ (s : State) (t : Tile), s.here.tile = some t →
    (t.yieldReq = none ∨ s.here.trap.mode = true → exec .yield s = .next (s.advance s.core .ctl 4)) ∧
    (t.yieldReq.isSome = true → s.here.trap.mode = false →
      exec .yield s = .next ((s.advance s.core .ctl 4).updCore s.core fun k =>
        { k with
          ld := k.ld.abandon, cmp := k.cmp.abandon, st := k.st.abandon, mqWait := k.rputWait s.cycle
          mx := { k.mx with parked := if k.computeIds.length < 2 then none else some (k.computeIds.foldl max 0) }
          tile := k.tile.map fun t => { t with saving := some (.yield, s.cycle) } }))

/-- R158, R160: TEND waits, publishes and marks the tile committed, or traps in trap mode; TEND.ABORT and TEND.ESC always
end the tile; YIELD goes on, and with a request pending begins a save. -/
def Obligations.TileEndsAndYields : Prop := Parts.TendPublishes ∧ Parts.TendAbortEndsTheTile ∧ Parts.YieldCompletes

/-- R27, R159: SYSR and SYSW of a register that the tile may reach complete, and SYSR brings the value the register shows; a
number that no chapter assigns traps RESERVED_FIELD, and one that the tile may not reach traps PRIVILEGE. A SYSW of BAR_CFG or
BAR_STATE with a BAR_SEL that names no barrier traps RESERVED_FIELD, which is lower, whoever makes it (01 R31, R164). -/
def Sys2Proof.Parts.SystemRegisterAccess : Prop :=
  ∀ (o : RL) (s u : State) (t : Tile),
    let n := o.ext.toNat % 2 ^ 12
    let trapMode := s.here.trap.mode
    let noBarrier : Prop := (n = 0x0C1 ∨ n = 0x0C2) ∧ s.here.barSel.toNat / 64 % 2 = 0 ∧ 15 < s.here.barSel.toNat % 64
    s.here.tile = some t → o.f8 = 0 → o.ext.toNat < 2 ^ 12 →
    (o.a = 0 → ∀ v, regTrap t.reg.supv trapMode false n = none → readReg s.core true n s = .ok v u →
      exec (.sysr o) s = .next ((u.updCore s.core fun k => k.setS o.d.toNat (BitVec.ofNat 64 v)).advance s.core .ctl 8)) ∧
    (o.a = 0 → ∀ code, regTrap t.reg.supv trapMode false n = some code →
      exec (.sysr o) s = settle s.core .ctl (.error (.trap code 0) s)) ∧
    (o.d = 0 → regTrap t.reg.supv trapMode true n = none →
      writeReg (some t.reg) false s.core n (s.here.sreg o.a.toNat) s = .ok () u →
      exec (.sysw o) s = .next (u.advance s.core .ctl 8)) ∧
    (o.d = 0 → noBarrier → exec (.sysw o) s = settle s.core .ctl (.error (.trap .reservedField 0) s)) ∧
    (o.d = 0 → ¬noBarrier → ∀ code, regTrap t.reg.supv trapMode true n = some code →
      exec (.sysw o) s = settle s.core .ctl (.error (.trap code 0) s))

/-- R27, R162: a number from 0xB00 on is unassigned; a supervisor reaches every assigned register; a user tile may not
write the trap's resume address outside trap mode nor reach a supervisor-only register, and may read CYCLE. -/
def Sys2Proof.Parts.RegisterPrivileges : Prop :=
  (∀ n, 0xB00 ≤ n → ∀ supv m w, regTrap supv m w n = some .reservedField) ∧
  (∀ n m w, regAccess n ≠ none → regTrap true m w n = none) ∧
  (∀ n, n = 0x013 ∨ (0x018 ≤ n ∧ n ≤ 0x01B) → regTrap false false true n = some .privilege ∧
    regTrap false true true n = none ∧ ∀ m, regTrap false m false n = none) ∧
  (∀ n m w, regAccess n = some .supOnly → regTrap false m w n = some .privilege) ∧
  (∀ m, regTrap false m true 0x0C1 = some .privilege ∧ regTrap false m false 0x0C1 = none ∧
    regTrap false m false 0x002 = none)

/-- R27, R28, R36, R233: what keeps a user tile to its own. A SYSW of it, whichever register it names, changes no register but
those of its own core; of the other cores only shape-cache entries of its own region may go. An address reaches a
location only through a leaf of its own tables that has U, and W for a write, and is not the host's; the translation
changes no memory. -/
def Sys2Proof.Parts.UserTilesKeepOut : Prop :=
  ∀ (s : State) (t : Tile), s.here.tile = some t → t.reg.supv = false →
    (∀ o : RL,
      let n := o.ext.toNat % 2 ^ 12
      let entered : Prop := s.here.trap.mode = false ∧ t.nrec.entryHalf .ctl 3 ≠ 0
      let allowed : Prop := fieldsOk .ctl (.sysw o) = true ∧ n ≠ 0x0C1 ∧ n ≠ 0x0C2 ∧ n ≠ 0x210 ∧
        regTrap false s.here.trap.mode true n = none
      entered ∨ allowed → ∃ u, exec (.sysw o) s = .next u ∧ u = { s with cores := u.cores } ∧
        ∀ c, c ≠ s.core → u.coreOf c = { s.coreOf c with shapeCache := (u.coreOf c).shapeCache } ∧
          ∀ x ∈ (s.coreOf c).shapeCache, x.region ≠ t.reg.id → x ∈ (u.coreOf c).shapeCache) ∧
    ∀ (acc : Acc) (va loc : Nat) (u : State),
      let x := t.reg.ctx (some (clusterOf s.core))
      translate x acc va s = .ok loc u → ∃ lv e, lookup x va s = .ok (lv, e) u ∧ pteU e = true ∧ pteH e = false ∧
        (acc = .write → pteW e = true) ∧ (acc = .exec → pteX e = true) ∧ loc = locOf s.devId lv e va ∧
        u = { s with clusters := u.clusters }

/-- R162, R163: what the registers of a core show to its CTL. -/
def Sys2Proof.Parts.CoreRegisterViews : Prop :=
  ∀ (s : State) (c : Nat), c < 128 → s.devId < 256 →
    let k := s.coreOf c
    let rd (n : Nat) (v : Nat) : Prop := readReg c true n s = .ok v s
    rd 0x000 (c + s.devId * 2 ^ 16) ∧ rd 0x002 (s.cycle % 2 ^ 64) ∧
    rd 0x010 (k.trap.code + k.trap.seq * 2 ^ 12 + k.trap.imm.toNat * 2 ^ 16) ∧
    rd 0x011 k.trap.pc.toNat ∧ rd 0x012 k.trap.va.toNat ∧ rd 0x013 k.trap.ret.toNat ∧
    (∃ v, rd 0x014 v ∧ (v.testBit 4 = k.trap.mode) ∧ ∀ i, 1 ≤ i → i ≤ 3 → v.testBit i = k.trap.pend.getLsbD i) ∧
    (∃ v, rd 0x020 v ∧ ((∀ i < 8, SMap.get 0 k.tk i < 256) → ∀ i < 8, v / 2 ^ (8 * i) % 256 = SMap.get 0 k.tk i)) ∧
    (∀ i < 4, rd (0x018 + i) (SMap.get 0 k.trap.scr i).toNat) ∧
    (∀ v : DWord, writeReg none false c 0x013 v s =
      .ok () (s.updCore c fun k => { k with trap := { k.trap with ret := v } }))

/-- R27, R159, R162, R163: SYSR and SYSW complete where the register may be reached and trap otherwise; which registers a
user or a supervisor tile may reach; what a user tile leaves as it was; and what the registers of a core show. -/
def Obligations.SystemRegisters : Prop := Parts.SystemRegisterAccess ∧ Parts.RegisterPrivileges ∧ Parts.UserTilesKeepOut ∧ Parts.CoreRegisterViews

/-- R199–R203: the four scheduler commands complete with their answer in Sd: NESTQ what the enqueue of the record at Sa
answers, NESTF and NESTR what stopping and restarting the named nest answer, NESTS the item asked for. -/
def Sys2Proof.Parts.SchedulerAnswers : Prop :=
  ∀ (o : Cmd) (s : State) (t : Tile), s.here.tile = some t →
    let a := (s.here.sreg o.a.toNat).toNat
    let done (u : State) (x : Except NestErr Nat) : Host.Outcome State Fault Refusal :=
      .next ((u.updCore s.core fun k => k.setS o.d.toNat (resultWord x)).advance s.core .ctl 8)
    (∀ l u v x, o.f8.toNat < 2 → o.imm = 0 → a % 128 = 0 →
      (o.f8 = 1 ∧ spLoad s.core a 128 s = .ok l u ∨ o.f8 = 0 ∧ loadRange s.core a 128 s = .ok l u) →
      enqueue (outsideSubtree t.reg) (some l) 0 u = .ok x v → exec (.nestq o) s = done v x) ∧
    (o.f8.toNat < 4 → o.imm = 0 →
      exec (.nestf o) s = done (flushNest t a (o.f8.getLsbD 1) s).2 (flushNest t a (o.f8.getLsbD 1) s).1) ∧
    (o.f8.toNat < 2 → o.imm = 0 →
      exec (.nestr o) s = done (restartNest t a (o.f8.getLsbD 0) s).2 (restartNest t a (o.f8.getLsbD 0) s).1) ∧
    (o.f8 = 0 → o.imm.toNat < 8 → exec (.nests o) s = done s (nestStatus t a o.imm.toNat s))

/-- R176, R200: a record that passes the checks of an enqueue enters the slot that is free, under a new incarnation, with
nothing committed; the answer is its NID. -/
def Sys2Proof.Parts.EnqueueEntersTheNest : Prop :=
  ∀ (denied : State → Nat → Bool) (l : List Byte) (owner i : Nat) (s u : State),
    let r := nestRecOf l
    let reg := effRegion s r.region
    reg.valid = true → denied s r.region = false → freeSlot s = some i → recordBad l s = .ok false u →
    (r.cohort = true → r.tiles ≤ reg.cores ∧ r.tiles ≤ 8 * (allowedClusters r).length) → 0 < r.tiles →
    ∃ v, enqueue denied (some l) owner s = .ok (.ok (slotNid v i)) v ∧ (v.slot i).used = true ∧ (v.slot i).nrec = r ∧
      (v.slot i).inc = nextInc (s.slot i).inc ∧ (v.slot i).f = 0 ∧ (v.slot i).window = [] ∧ (v.slot i).run = .active ∧
      (∀ a, v.m.byte a = s.m.byte a) ∧ v.cores = s.cores

/-- R201, R202: stopping a nest that another tile names answers the state it was in; its tiles in flight are gone from the
cores and from the save slots, the nest is flushed once none is in flight, or with FREE its slot is empty, and its frontier and window stay where no
tile of it had committed already. Of memory only the headers of freed save slots change, where no cluster pins a line and no
tile of the nest has an exchange under way: NESTF posts no record, and no byte of an open version is committed. Restarting
a flushed nest makes it active again at its base priority, from its frontier, or with ZERO from 0 with its window cleared,
and answers its NID. -/
def Sys2Proof.Parts.FlushAndRestart : Prop :=
  ∀ (t : Tile) (v i : Nat) (s : State), namedNest t.reg s v = .ok i →
    (∀ free, nestState s i ≠ 0 → nestState s i ≠ 5 → (free = true → isProducer s v = false) → v ≠ t.nid →
      let u := (flushNest t v free s).2
      (flushNest t v free s).1 = .ok (nestState s i) ∧
      (∀ c T, (u.coreOf c).tile = some T → T.nid ≠ v) ∧ (∀ x ∈ u.ns.saved, x.nid ≠ v) ∧
      (free = false → inFlight u v = 0 → (u.slot i).run = .flushed) ∧ (free = true → (u.slot i).used = false) ∧
      ((∀ e ∈ tilesOnCores s v, ∀ T, (s.coreOf e.1).tile = some T → T.committed = false) →
        (u.slot i).f = (s.slot i).f ∧ (u.slot i).window = (s.slot i).window) ∧
      ((∀ c, (s.clusterAt c).near = []) →
        (∀ e ∈ tilesOnCores s v, ∀ T, (s.coreOf e.1).tile = some T →
          T.exchanges = [] ∧ ∀ x ∈ (s.coreOf e.1).copies, x.kind ≠ .shadow) →
        (∀ x ∈ savedTiles s v, (x.core.tile.map (·.exchanges)).getD [] = []) →
        ∀ a, (∀ x ∈ savedTiles s v, a < x.slotAt ∨ x.slotAt + 8 ≤ a) → u.m.byte a = s.m.byte a)) ∧
    (∀ free, nestState s i = 0 ∨ nestState s i = 5 → flushNest t v free s = (.error .state, s)) ∧
    (∀ zero, nestState s i = 6 → 0 < (s.slot i).nrec.tiles → (zero = true ∨ (s.slot i).f < (s.slot i).nrec.tiles) →
      let u := (restartNest t v zero s).2
      (restartNest t v zero s).1 = .ok v ∧ (u.slot i).run = .active ∧
      (u.slot i).f = (if zero then 0 else (s.slot i).f) ∧ (u.slot i).next = (u.slot i).f ∧ (u.slot i).again = [] ∧
      (u.slot i).window = (if zero then [] else (s.slot i).window) ∧
      (u.slot i).effPrio = (effRegion s (s.slot i).nrec.region).prio ∧ u.m = s.m ∧ u.cores = s.cores) ∧
    (∀ zero, nestState s i ≠ 6 → restartNest t v zero s = (.error .state, s))

/-- R199–R203: the four scheduler commands complete with their answers; a record that passes its checks enters the free
slot; flushing and restarting change the nest's state as they should. -/
def Obligations.SchedulerCommandsComplete : Prop := Parts.SchedulerAnswers ∧ Parts.EnqueueEntersTheNest ∧ Parts.FlushAndRestart

/-- R119, R175, R178, R182: dispatching the next tile of the nest served first, on the core picked for it, starts a tile
with no template image there: its indices in S1–S4, its ordinal in S5, the nest's four arguments in S6–S9, its NID in S10 and
zeros in the other scalar registers; every predicate but P0 false, trap mode off, no window, an empty version, and a phase
that starts at the newest stamp. -/
def Obligations.DispatchStartsTheTile : Prop :=
  ∀ (s : State) (i t c : Nat),
    topSlot s (servable s) = some i → firstSaved s (slotNid s i) = none → dispatchSet s i = [t] →
    pickCore s (slotNid s i) (idleCores s (s.slot i).nrec) = some c → (s.slot i).nrec.tmpl = 0 → portOf s c = none →
    (s.slot i).nrec.args.length = 4 →
    ∃ u T, exec .tileDispatch s = .next u ∧ (u.coreOf c).tile = some T ∧ T.nid = slotNid s i ∧ T.ord = t ∧
      T.start = s.m.pubCount ∧ T.ver.bytes = [] ∧ T.nrec = (s.slot i).nrec ∧
      (∀ d < 4, (u.coreOf c).sreg (d + 1) = BitVec.ofNat 64 (SMap.get 0 ((s.slot i).nrec.indices t) d)) ∧
      (u.coreOf c).sreg 5 = BitVec.ofNat 64 t ∧
      (∀ d < 4, (u.coreOf c).sreg (d + 6) = (s.slot i).nrec.args.getD d 0) ∧
      (u.coreOf c).sreg 10 = BitVec.ofNat 64 (slotNid s i) ∧
      (u.coreOf c).sreg 0 = 0 ∧ (∀ n, 11 ≤ n → n < 64 → (u.coreOf c).sreg n = 0) ∧
      (∀ p < 48, (u.coreOf c).preg p = decide (p = 0)) ∧ (u.coreOf c).h = [] ∧ (u.coreOf c).trap = {} ∧
      (u.coreOf c).windows = [] ∧ (u.coreOf c).ctl = startSeq (s.slot i).nrec .ctl ∧
      (u.coreOf c).ld = startSeq (s.slot i).nrec .ld ∧ (u.coreOf c).cmp = startSeq (s.slot i).nrec .cmp ∧
      (u.coreOf c).st = startSeq (s.slot i).nrec .st ∧ u.m = s.m ∧ ∀ c' ≠ c, u.coreOf c' = s.coreOf c'

/-- R183: a sequencer whose next address reaches its kernel entry, its epilogue entry or END changes its stage: the kernel
starts over until it has run TRIP times, then the epilogue follows, and a sequencer other than CTL has completed where
its epilogue reaches END. -/
def Obligations.StageChanges : Prop :=
  ∀ (r : NestRec) (q : Seq) (hold : Bool) (addr : Nat) (x : SeqState),
    (x.stage = .prologue → addr ≠ r.entryAt q 1 →
      arrive r q hold addr x = { x with pc := BitVec.ofNat 64 addr, run := .running }) ∧
    (x.stage = .prologue → addr = r.entryAt q 1 → r.trip ≠ 0 → r.entryAt q 1 ≠ r.entryAt q 2 →
      arrive r q hold addr x = { x with pc := BitVec.ofNat 64 addr, stage := .kernel, run := .running }) ∧
    (x.stage = .kernel → addr = r.entryAt q 2 → x.iters + 1 < r.trip →
      arrive r q hold addr x = { x with iters := x.iters + 1, pc := BitVec.ofNat 64 (r.entryAt q 1)
                                        run := if hold then .atBackEdge else .running, edge := hold }) ∧
    (x.stage = .kernel → addr = r.entryAt q 2 → r.trip ≤ x.iters + 1 → (q = .ctl ∨ r.entryAt q 2 ≠ r.endAt q) →
      arrive r q hold addr x = { x with iters := x.iters + 1, pc := BitVec.ofNat 64 addr, stage := .epilogue, run := .running }) ∧
    (x.stage = .epilogue → q ≠ .ctl → addr = r.endAt q →
      arrive r q hold addr x = { x with pc := BitVec.ofNat 64 addr, stage := .complete, run := .idle })

/-- R181, R185, R187, R188: aging raises the effective priority of a nest with a dispatchable tile by one; a tile whose final
publication has committed leaves its core and counts as committed; a starved nest, the first for which a core may be asked,
makes that core's tile, or its cohort, yield; four sequencers held at their back-edges begin a boundary save. -/
def Obligations.SchedulerEventsComplete : Prop :=
  ∀ (s : State),
    let i := s.ev.idx
    let n := s.slot i
    let c := s.ev.core
    (s.ns.age ≠ 0 → dispatchSet s i ≠ [] → n.ageSince + s.ns.age ≤ s.cycle →
      n.effPrio < (effRegion s n.nrec.region).maxPrio →
      exec .priorityAging s = .next (s.updSlot i fun n =>
        { n with effPrio := n.effPrio + 1, ageSince := n.ageSince + s.ns.age })) ∧
    (∀ t, (s.coreOf c).tile = some t → t.committed = true → ∃ u, exec .tileCommit s = .next u ∧ (u.coreOf c).tile = none ∧
      (∀ a, u.m.byte a = s.m.byte a) ∧ ∀ j, slotOfNid s t.nid = some j → (u.slot j).isCommitted t.ord = true) ∧
    (∀ j d, topSlot s (fun j => starved s j && (yieldVictim s j).isSome) = some j → yieldVictim s j = some d →
      exec .yieldRequest s = .next ((requestSet s d).foldl (fun s c => raiseYield c s) s)) ∧
    (∀ t, (s.coreOf c).tile = some t → t.yieldReq.isSome = true → t.saving = none →
      (∀ q, ((s.coreOf c).seq q).run = .atBackEdge ∧ stillHeld (s.coreOf c) q = true) →
      exec .boundaryYield s = .next (s.updCore c fun k => { k with
        tile := k.tile.map fun t => { t with saving := some (.boundary, s.cycle) }
        mx := { k.mx with parked := if k.computeIds.length < 2 then none else some (k.computeIds.foldl max 0) } }))

/-- R190, R195, R196, R61: a yield deadline begins a forced save (an atomic that CTL has out is answered first, log 8); a save that exceeds its bound, a tile of which no sequencer
has issued for the watchdog period, and a tile whose pressure deadline is over leave the core. -/
def Sys2Proof.Parts.DeadlinesPass : Prop :=
  ∀ (s : State) (t : Tile), (s.coreOf s.ev.core).tile = some t →
    let c := s.ev.core
    (∀ at_, t.saving = none → t.committed = false → (s.coreOf c).ctl.remote = none → t.yieldReq = some at_ → at_ + t.reg.yieldDl ≤ s.cycle →
      ∃ u, exec .yieldDeadline s = .next u ∧ (u.coreOf c).tile = some { t with saving := some (.forced, s.cycle) } ∧
        ∀ q, ((u.coreOf c).seq q).pc = ((s.coreOf c).seq q).pc) ∧
    (∀ kind at_, t.saving = some (kind, at_) → at_ + Config.saveBound ≤ s.cycle →
      ∃ u, exec .saveBound s = .next u ∧ (u.coreOf c).tile = none) ∧
    (t.reg.watchdog ≠ 0 → t.saving = none → t.committed = false → t.lastIssue + t.reg.watchdog ≤ s.cycle →
      ∃ u, exec .watchdog s = .next u ∧ (u.coreOf c).tile = none) ∧
    (∀ at_, s.ev.flag = false → t.press = some at_ → at_ + s.m.pressDeadline ≤ s.cycle → t.committed = false →
      ∃ u, exec .snapshotExpired s = .next u ∧ (u.coreOf c).tile = none)

/-- R57, R60, 06 R198: snapshot pressure marks every running tile that it reaches and asks it to yield, and leaves the others;
of memory it changes one byte for each saved tile that it reaches, the one in the slot's header that holds PRESS, and every
phase that is open goes on reading there what it read. -/
def Sys2Proof.Parts.SnapshotPressureMarks : Prop :=
  ∀ (s : State), ∃ u, exec .snapshotPressure s = .next u ∧
    (∀ a, (∀ x ∈ s.ns.saved, savedPressed s x = true → a ≠ x.slotAt + 0x1E) → u.m.byte a = s.m.byte a) ∧
    (∀ x ∈ s.ns.saved, savedPressed s x = true → (u.m.byte (x.slotAt + 0x1E)).getLsbD 0 = true) ∧
    ∀ c t, (s.coreOf c).tile = some t →
      (pressed s t.start = true → ∃ t', (u.coreOf c).tile = some t' ∧ t'.press.isSome = true ∧ t'.yieldReq.isSome = true ∧
        t'.ver = t.ver ∧ t'.start = t.start) ∧
      (pressed s t.start = false → ∃ seen, (u.coreOf c).tile = some { t with seen := seen }) ∧
      ∀ t' a, (u.coreOf c).tile = some t' → (SMap.find t'.seen a).getD (u.m.byteAt t'.start a) =
        (SMap.find t.seen a).getD (s.m.byteAt t.start a)

/-- R60, R61, R190, R195, R196: a yield deadline forces a save, a save bound, a watchdog and a pressure deadline end the
tile, and snapshot pressure marks exactly the running tiles that it reaches. -/
def Obligations.DeadlinesEndTiles : Prop := Parts.DeadlinesPass ∧ Parts.SnapshotPressureMarks

/-- R191–R193, R197: a drained context without windows is written to a free slot of its pool and leaves the core: the slot's
bytes hold its scalar registers and program counters. The slot served first resumes its lowest saved tile on the core picked
for it, with the scalar registers and CTL's program counter that the bytes of the save slot hold, and the save slot is free
again. (What the layout has no place for is kept with the saved tile: log 38, the model's choice.) -/
def Obligations.SaveAndRestore : Prop :=
  ∀ (s : State),
    (∀ t kind at_ i, (s.coreOf s.ev.core).tile = some t → t.saving = some (kind, at_) → freeSave s t.reg = some i →
      drained s s.ev.core = true → (kind = .forced ∨ (s.coreOf s.ev.core).windows = []) →
      ∃ u x l, exec .saveComplete s = .next u ∧ (u.coreOf s.ev.core).tile = none ∧ u.ns.saved = l ++ [x] ∧
        l.map (fun y => (y.nid, y.ord, y.slotAt)) = s.ns.saved.map (fun y => (y.nid, y.ord, y.slotAt)) ∧
        x.nid = t.nid ∧ x.ord = t.ord ∧ x.slot = i ∧ x.base = t.reg.saveBase ∧
        (∀ n < 64, u.m.readNat (x.slotAt + 0x200 + 8 * n) 8 = ((s.coreOf s.ev.core).sreg n).toNat) ∧
        (∀ q, u.m.readNat (x.slotAt + 0x20 + 8 * seqNum q) 8 = ((s.coreOf s.ev.core).seq q).pc.toNat)) ∧
    (∀ i x c, s.m.wf = true → topSlot s (servable s) = some i → firstSaved s (slotNid s i) = some x →
      pickCore s (slotNid s i) (openCores s i) = some c → portOf s c = none →
      ∃ u, exec .tileRestore s = .next u ∧
        u.coreOf c = { (restored (s.coreOf c) x (x.img s.m) (ringByte s c) s.cycle).keepSeen s.m (placed x.slotAt (bytesOf 8 0)) with
          soiled := [] } ∧
        (∀ n, 0 < n → n < 64 →
          (u.coreOf c).sreg n = BitVec.ofNat 64 (s.m.readNat (x.slotAt + 0x200 + 8 * n) 8)) ∧
        (u.coreOf c).ctl.pc = BitVec.ofNat 64 (s.m.readNat (x.slotAt + 0x20) 8) ∧
        u.m.readNat x.slotAt 8 = 0 ∧
        u.ns.saved.map (fun y => (y.nid, y.ord)) =
          (s.ns.saved.filter fun y => !(y.nid = x.nid && y.ord = x.ord)).map fun y => (y.nid, y.ord))

/-- R38, R66: an access held for a flip is tried again once the page is the device's own; when the flip limit or the scope
hold is over, a stream's head gets its fault with the entry it stands at, and a sequencer that would issue the access traps
(where CTL has no atomic out, log 8). -/
def Sys2Proof.Parts.HeldAndRefusedAccesses : Prop :=
  ∀ (s : State) (h : Hold),
    let e := s.ev
    let k := s.coreOf e.core
    let w := waitsAt k e.num e.sq e.idx
    (w.hold = some h → deviceOwned s h.asid h.page = true → ∃ u, exec .heldAccessRetry s = .next u ∧
      (waitsAt (u.coreOf e.core) e.num e.sq e.idx).hold = none ∧
      ∀ f ∈ u.m.flips, ¬(f.asid = h.asid ∧ f.va = h.page)) ∧
    (∀ b, e.num = 1 → k.binding e.idx = some b →
      (w.hold = some h → h.since + s.m.flipLimit ≤ s.cycle → ∃ u b', exec .flipLimitExpiry s = .next u ∧
        (u.coreOf e.core).binding e.idx = some b' ∧ b'.held = some ⟨.hostOwned, h.va, h.lane,
          if e.idx < 8 then b.issued % b.walk.entries else b.deliv, false⟩) ∧
      (w.refused = some h → h.since + s.m.scopeHold ≤ s.cycle → ∃ u b', exec .scopeRefusalTimeout s = .next u ∧
        (u.coreOf e.core).binding e.idx = some b' ∧ b'.held = some ⟨.scopeRefusalTimeout, h.va, h.lane,
          if e.idx < 8 then b.issued % b.walk.entries else b.deliv, false⟩)) ∧
    (∀ t, e.num = 0 → k.tile = some t → k.trap.mode = false → t.nrec.entryHalf .ctl 3 ≠ 0 →
      (e.sq = .ctl ∨ k.ctl.remote = none) →
      (w.hold = some h → h.since + s.m.flipLimit ≤ s.cycle → ∃ u, exec .flipLimitExpiry s = .next u ∧
        (u.coreOf e.core).trap.code = 0x12 ∧ (u.coreOf e.core).trap.va = BitVec.ofNat 64 h.va ∧
        (u.coreOf e.core).trap.mode = true) ∧
      (w.refused = some h → h.since + s.m.scopeHold ≤ s.cycle → ∃ u, exec .scopeRefusalTimeout s = .next u ∧
        (u.coreOf e.core).trap.code = 0x1A ∧ (u.coreOf e.core).trap.va = BitVec.ofNat 64 h.va ∧
        (u.coreOf e.core).trap.mode = true))

/-- R39: a page marked for the host is handed over once no open version holds a byte of it and no infuser read uses its
translation: its leaf gets H = 1, no map unit keeps its translation, the mark is gone and the host gets its acknowledgement;
of memory, only the leaf and what a near-atomic unit had pinned changes. -/
def Sys2Proof.Parts.FlipToHostFinishes : Prop :=
  ∀ (s : State) (f : Flip) (lv at_ : Nat) (e : DWord),
    s.m.hostFlips[s.ev.idx]? = some f → walk s.m (effRegion s f.asid).xroot f.va = .ok (lv, e, at_) →
    versionHolds s (locOf s.devId lv e (f.va / 2 ^ pageLog lv * 2 ^ pageLog lv)) (2 ^ pageLog lv) = false →
    infuserReads (HeldPage.covers f.asid f.va) s = false →
    ∃ u, exec .flipToHostFinish s = .next u ∧ u.sv.acks = s.sv.acks ++ [(f.asid, f.va)] ∧ f ∉ u.m.hostFlips ∧ u.m.readNat at_ 8 = (e ||| 0x20).toNat ∧
      (∀ n, ∀ x ∈ (u.clusterAt n).tlb, tlbCovers f.asid f.va x = false) ∧
      ∀ a, a < at_ ∨ at_ + 8 ≤ a → (∀ x ∈ s.clusters, ∀ l ∈ x.2.near, ∀ b ∈ l.bytes, b.1 ≠ a) → u.m.byte a = s.m.byte a

/-- R47, R48, R71: a finished fill puts the chunk's bytes into the scratchpad and makes it valid; the device writes a window
back as a release does; a dirty sector found uncorrectable is poisoned and no longer dirty. -/
def Sys2Proof.Parts.FillsAndWritebacks : Prop :=
  ∀ (s : State),
    let c := s.ev.core
    let n := s.ev.num
    (((s.coreOf c).chunk n).run = .filling → ((s.coreOf c).chunk n).fault = none →
      exec .windowFillDone s = .next (s.updCore c fun k =>
        (k.spWrite (4096 * n) (k.chunk n).fill).updChunk n fun x => { x with run := .valid, fill := [] })) ∧
    (((s.coreOf c).chunk n).run = .filling → ((s.coreOf c).chunk n).fault.isSome = true →
      exec .windowFillDone s = .next (s.updCore c fun k => k.updChunk n fun x => { x with run := .unfilled, fill := [] })) ∧
    (∀ w u, SMap.find (s.coreOf c).windows s.ev.idx = some w → winMode w.desc = modeRw ∨ winMode w.desc = modeNofill →
      writeBackChunks c w.desc (upto (winSoff w.desc) (winLen w.desc)) s = .ok () u →
      exec .deviceWriteback s = .next u) ∧
    (∀ r, SMap.find s.m.writer n = some r → ∃ u, exec .dirtyEvictUncorrectable s = .next u ∧
      u.m.poison.contains n = true ∧ SMap.find u.m.writer n = none)

/-- R38, R39, R47, R48, R66, R71: held and refused accesses are tried again or fault at their limits; a page marked for
the host is handed over; fills and write-backs finish; an uncorrectable dirty sector is poisoned. -/
def Obligations.MemoryEventsComplete : Prop := Parts.HeldAndRefusedAccesses ∧ Parts.FlipToHostFinishes ∧ Parts.FillsAndWritebacks

/-- R28, R42, R43, R166, R233: a write by the host or the samovar that its agent may make takes effect as SYSW's would; the four
kinds of MU_INV, once no infuser read uses what they name, discard it from both levels of every map unit, and flip requests
that are answered by now, and nothing else of memory; LD_SHINV discards what it names; NS_RINV reads the blocks it names again,
keeps the other copies it has, and takes in only what memory holds now (that the scheduler keeps copies, and of which
blocks, is log 57's reading). -/
def Sys2Proof.Parts.AgentWrites : Prop :=
  ∀ (s : State),
    let e := s.ev
    let asid := e.value.toNat % 2 ^ 12
    let va := vbits e.value 16 40 * 2 ^ 16
    let keeps (u : State) (p : TlbEnt → Bool) : Prop :=
      u.cores = s.cores ∧ u.m = { s.m with flips := u.m.flips } ∧
      (∀ f, f ∈ u.m.flips ↔ f ∈ s.m.flips ∧ deviceOwned s f.asid f.va = false) ∧
      ∀ n, (u.clusterAt n).tlb1 = (s.clusterAt n).tlb1.filter p ∧ (u.clusterAt n).tlb2 = (s.clusterAt n).tlb2.filter p
    let rereads (u : State) (named : Nat → Bool) : Prop :=
      u = { s with ns := { s.ns with regions := u.ns.regions } } ∧
      (∀ b r, SMap.find s.ns.regions b = some r →
        SMap.find u.ns.regions b = some (if named b then blockInMemory s b else r)) ∧
      ∀ b r, SMap.find s.ns.regions b = none → SMap.find u.ns.regions b = some r → r = blockInMemory s b
    (∀ host : Bool, (host = true ↔ e.agent = .host) →
      (∀ u, agentMay s e.idx = true → writeReg none host e.core e.idx e.value s = .ok () u → exec .registerWrite s = .next u) ∧
      (∀ u, agentMay s 0x0C1 = true → writeReg none host e.core 0x0C1 e.value s = .ok () u →
        exec .barCfgWrite s = .next u)) ∧
    (vbits e.value 14 2 = 0 →
      (infuserReads (HeldPage.covers asid va) s = false → ∃ u, exec .muInvPage s = .next u ∧
        keeps u fun x => !(x.asid = asid && x.vpn = va / 2 ^ pageLog x.level)) ∧
      (infuserReads (HeldPage.covers asid va) s = true → exec .muInvPage s = .next s)) ∧
    (vbits e.value 14 2 = 1 → infuserReads (fun h => decide (h.asid = asid)) s = false → ∃ u, exec .muInvAsid s = .next u ∧
      keeps u fun x => !decide (x.asid = asid)) ∧
    (vbits e.value 14 2 = 2 → infuserReads (fun _ => true) s = false → ∃ u, exec .muInvAll s = .next u ∧
      keeps u fun _ => false) ∧
    (vbits e.value 14 2 = 3 → exec .muInvNone s = .next s) ∧
    (bits e.value 12 1 = 0 → ∃ u, exec .nsRinvRegion s = .next u ∧ rereads u fun b => b = asid) ∧
    (bits e.value 12 1 = 1 → ∃ u, exec .nsRinvAll s = .next u ∧ rereads u fun _ => true) ∧
    (bits e.value 12 1 = 0 → ∃ u, exec .ldShinvRegion s = .next u ∧ u.m = s.m ∧ ∀ c, (u.coreOf c).shapeCache =
      (s.coreOf c).shapeCache.filter fun x => !decide (x.region = e.value.toNat % 2 ^ 12)) ∧
    (bits e.value 12 1 = 1 → ∃ u, exec .ldShinvAll s = .next u ∧ u.m = s.m ∧ ∀ c, (u.coreOf c).shapeCache = [])

/-- R508–R512, R485, R487: while the agent may use the registers, SV_NQ enqueues the nest at the address written and leaves
the answer in SV_NQRES; reading SV_NDONE or SV_FLIP takes its oldest entry, and brings 0 where there is none (the host sees
it in its answer); a mailbox message is taken only while the other side has read the one before, and a KIND 2 message of
the host asks for a page (which page its three words name is open: log 61); MB_ATOM keeps one claim or withdrawal until
the next SEQ; the host reads every other register of BAR 0, and 0 at an offset that has none. An agent that may not use
them changes nothing. -/
def Sys2Proof.Parts.SamovarRegisters : Prop :=
  ∀ (s : State),
    let e := s.ev
    let answered (u : State) (v : Nat) : State :=
      if e.agent = .host then u.updHl fun h => { h with answer := bytesOf 8 v } else u
    (mayAccess s = false → ∀ i ∈ [Instr.svNqEnqueue, .svNdonePop, .svFlipPop, .mailboxS2hSend, .mbAtomSeq, .mbAtomClaim,
      .mbAtomWdraw], exec i s = .next s) ∧
    (∀ i bound, barAllowed s bound = true → i < 0x200 →
      (∀ v u, (regAccess (0x900 + i)).isSome = true → i ≠ 0x100 → i ≠ 0x101 → readReg 0 false (0x900 + i) s = .ok v u →
        hostReads i bound s = .ok () (answerHost (bytesOf 8 v) u)) ∧
      (regAccess (0x900 + i) = none ∨ i = 0x100 ∨ i = 0x101 →
        hostReads i bound s = .ok () (answerHost (bytesOf 8 0) s))) ∧
    (mayAccess s = true →
    (∀ x u, enqueueAs s.sv.nqReg e.value.toNat id 0 s = .ok x u →
      exec .svNqEnqueue s = .next { u with sv := { u.sv with nqRes := resultWord x } }) ∧
    (s.sv.ndone = [] → exec .svNdonePop s = .next (answered s 0)) ∧
    (∀ nid r, s.sv.ndone = nid :: r → s.sv.owed = [] →
      exec .svNdonePop s = .next (answered { s with sv := { s.sv with ndone := r } } (nid + 2 ^ 63))) ∧
    (s.sv.flip = [] → exec .svFlipPop s = .next (answered s 0)) ∧
    (∀ a va r, s.sv.flip = (a, va) :: r → a < 2 ^ 12 → va < 2 ^ 56 → exec .svFlipPop s =
      .next (answered { s with sv := { s.sv with flip := r } } (a + va / 2 ^ 16 * 2 ^ 16 + 2 ^ 63))) ∧
    (s.sv.s2hFull = true → exec .mailboxS2hSend s = .next s) ∧
    (s.sv.s2hFull = false → ∃ u, exec .mailboxS2hSend s = .next u ∧ u.sv.s2hFull = true ∧ u.hl.irqs = s.hl.irqs ++ [17] ∧
      u.sv = { s.sv with s2h := u.sv.s2h, s2hFull := true } ∧
      ∀ n, SMap.get 0 u.sv.s2h n = if n = 0 then e.value else SMap.get 0 s.sv.s2h n) ∧
    exec .mbAtomSeq s = .next { s with sv := { s.sv with atomSeq := e.num % 2 ^ 16, claim := false, wdraw := false } } ∧
    (s.sv.claim = false → s.sv.wdraw = false →
      exec .mbAtomClaim s = .next { s with sv := { s.sv with claim := true } } ∧
      exec .mbAtomWdraw s = .next { s with sv := { s.sv with wdraw := true } }) ∧
    (s.sv.claim = true ∨ s.sv.wdraw = true → exec .mbAtomClaim s = .next s ∧ exec .mbAtomWdraw s = .next s)) ∧
    (barAllowed s e.flag = true →
      (s.sv.h2sFull = true → exec .mailboxH2sSend s = .next s) ∧
      (s.sv.h2sFull = false →
        let at_ (i : Nat) := SMap.get 0 s.sv.h2s i
        let page := Config.flipMessage (at_ 1) (at_ 2) (at_ 3)
        let u := { s with sv := { s.sv with
          h2s := SMap.put s.sv.h2s 0 e.value, h2sFull := true, ipend := s.sv.ipend ||| 8 } }
        exec .mailboxH2sSend s = .next (if e.value.toNat % 256 = 2 then hostFault page.1 page.2 u else u)) ∧
      exec .mailboxS2hClear s = .next { s with sv := { s.sv with
        s2hFull := false, ipend := if s.sv.s2hFull then s.sv.ipend ||| 16 else s.sv.ipend } })

/-- R28, R43, R166, R233, R508–R512: what a write by the host or the samovar does, the invalidations, and the samovar's
enqueue, pops, mailboxes and atomic claims. -/
def Obligations.RegisterWritesByAgents : Prop := Parts.AgentWrites ∧ Parts.SamovarRegisters

/-- R359–R361: CPY, CPYS, CPYT and CPYD, with fewer than 16 copies outstanding and none of the conditions of R360, enter
their copy behind the others and go on: the bytes of a global destination are reserved in the version, and a barrier's
pending bytes grow by the length. With 16 outstanding they wait. -/
def Sys2Proof.Parts.CopiesAccepted : Prop :=
  ∀ (s : State) (t : Tile) (o : Cmd) (kind : CopyKind) (i : Instr),
    (kind = .plain ∧ i = .cpy o ∨ kind = .shadow ∧ i = .cpys o ∨ kind = .tagged ∧ i = .cpyt o ∨
      kind = .infused ∧ i = .cpyd o) →
    fieldsOk .ctl i = true → s.here.tile = some t →
    let x := copyOf s.here t kind o
    let cl := clusterOf s.core
    (16 ≤ s.here.copies.length → exec i s = .next (stallSeq s.core .ctl .queue s)) ∧
    (s.here.copies.length < 16 → (s.here.sreg (o.a.toNat + 2)).toNat < 2 ^ 40 →
      (∀ e ∈ copyTraps s s.here t x, e.1 = false) →
      ∃ (u : State) (y : Copy), exec i s = .next (u.advance s.core .ctl 8) ∧ (u.coreOf s.core).copies = s.here.copies ++ [y] ∧
        y = { x with pages := y.pages, released := y.released } ∧ (kind ≠ .shadow → y = x) ∧
        (∃ t', (u.coreOf s.core).tile = some t' ∧ t'.ver.bytes = t.ver.bytes ∧
          t'.ver.reserved = t.ver.reserved + if x.space = 0 then x.n else 0) ∧
        (u.barrier cl x.device x.num).b = (s.barrier cl x.device x.num).b + (if x.done = 3 then x.n else 0) ∧
        u.m = { s.m with shadows := y.pages ++ s.m.shadows })

/-- R361–R363, R366, R375, R377: a chunk of a scratchpad source that lands writes its source bytes, in the scratchpad or in the
tile's open version, is counted, and sets its arrival bit (that a chunk of 512 bytes lands in one step, where R361 has
granules of 32, is log 34's choice; the wait of a landing that finds the overflow area full is log 39's). The oldest copy of
the core, all chunks landed, makes its slot-tag update, or leaves it to the publication where the bytes are the version's;
then it adds its length to its semaphore of the core or the cluster, which saturates with an event, or takes it off its
barrier's pending bytes, and is gone; a CPYS leaves its exchange to the publication. A CPYS may write once no open phase reads
its shadow pages; a copy's fault ends the tile. -/
def Sys2Proof.Parts.CopyEvents : Prop :=
  ∀ (s : State) (t : Tile),
    let e := s.ev
    let k := s.coreOf e.core
    k.tile = some t →
    (∀ x, k.copies[e.idx]? = some x → (x.kind = .plain ∨ x.kind = .tagged) → x.srcSp = true → x.fault = none →
      x.released = true → x.bytes = [] → e.num < x.chunks → e.num ∉ x.landed → k.windows = [] →
      let n := min 512 (x.n - 512 * e.num)
      let src := x.src + 512 * e.num
      let dst := x.dst + 512 * e.num
      let landed (u : State) : Prop :=
        (u.coreOf e.core).copies[e.idx]? = some { x with landed := e.num :: x.landed, hold := none, refused := none } ∧
        (∀ m, SMap.get 0 (u.coreOf e.core).arv m = SMap.get 0 k.arv m |||
          if x.arv.map (·.1) = some m then (1 : DWord) <<< ((x.arv.map (·.2)).getD 0 + e.num) else (0 : DWord)) ∧
        ∀ a, u.m.byte a = s.m.byte a
      src + n ≤ t.reg.spTile → src + n ≤ Config.scratchBytes →
      (∀ i < n, k.spPoison.contains ((src + i) / 128) = false) →
      (x.space = 1 → x.src + x.n ≤ x.dst ∨ x.dst + x.n ≤ x.src → dst + n ≤ t.reg.spTile → dst + n ≤ Config.scratchBytes →
        ∃ u, exec .copyChunkArrival s = .next u ∧ landed u ∧
          (∀ i < n, (u.coreOf e.core).spByte (dst + i) = k.spByte (src + i)) ∧
          ∀ a, a < dst ∨ dst + n ≤ a → (u.coreOf e.core).spByte a = k.spByte a) ∧
      (∀ loc v, x.space = 0 → dst % 0x1_0000 + n ≤ 0x1_0000 →
        translate (t.reg.ctx (some (clusterOf e.core))) .write dst s = .ok loc v →
        let p := s.m.view t.start t.reg.asid dst loc
        let l := (List.range n).map fun i => k.spByte (src + i)
        let T : Tile := { t with ver := { t.ver with
          bytes := (placed p l).foldl (fun b e => SMap.put b e.1 e.2) t.ver.bytes
          via := ((List.range n).map fun i => (p + i, dst + i)).foldl
            (fun m e => SMap.put m (e.1 / 0x1_0000) (e.2 / 0x1_0000)) t.ver.via
          reserved := t.ver.reserved - n } }
        let w := v.updCore e.core fun k => { k with tile := some T }
        (overflowAllows v w = true → ∃ u, exec .copyChunkArrival s = .next u ∧ landed u ∧
          (u.coreOf e.core).tile = some T) ∧
        (overflowAllows v w = false → ∃ u, exec .copyChunkArrival s = .next u ∧
          (u.coreOf e.core).tile = some t ∧ (u.coreOf e.core).copies = k.copies ∧ ∀ a, u.m.byte a = s.m.byte a))) ∧
    (∀ x r, k.copies = x :: r → x.fault = none → (∀ j < x.chunks, j ∈ x.landed) →
      let v := s.semOf e.core (x.done = 2) x.num
      let cl := clusterOf e.core
      let gone (u : State) : Prop := exec .copyComplete s = .next u ∧ (u.coreOf e.core).copies = r
      ((x.kind = .tagged → x.n = 0) →
        let gone (u : State) : Prop := gone u ∧ u.m = s.m ∧ ∃ T, (u.coreOf e.core).tile = some T ∧
          T = { t with exchanges := t.exchanges ++ if x.kind = .shadow then [x.exchange t.reg] else [] }
        (x.done = 0 → ∃ u, gone u) ∧
        (x.done = 1 ∨ x.done = 2 → v.toNat + x.n < 2 ^ 48 →
          ∃ u, gone u ∧ (u.semOf e.core (x.done = 2) x.num).toNat = v.toNat + x.n) ∧
        (x.done = 1 ∨ x.done = 2 → 2 ^ 48 ≤ v.toNat + x.n → x.kind ≠ .shadow →
          ∀ w, postEvent t.reg.id .semOverflow 0 (s.setSem e.core (x.done = 2) x.num (BitVec.ofNat 48 (2 ^ 48 - 1))) =
            .ok () w → exec .copyComplete s = .next (w.updCore e.core fun k => { k with copies := k.copies.drop 1 })) ∧
        (x.done = 3 → let b := s.barrier cl x.device x.num
          ∃ u, gone u ∧ u.barrier cl x.device x.num =
            if 0 < b.e ∧ b.a = b.e ∧ b.b - x.n = 0 then { b with a := 0, b := 0, gen := b.gen + 1 }
            else { b with b := b.b - x.n })) ∧
      (x.kind = .tagged → 0 < x.n → x.done = 0 →
        (x.space = 0 → ∃ u T, gone u ∧ u.m = s.m ∧ (u.coreOf e.core).tile = some T ∧
          T = { t with tagUpdates := t.tagUpdates ++ [⟨t.reg.asid, t.reg.xroot, t.reg.id, t.reg.supv, x.extra, x.n, x.pc⟩] }) ∧
        (∀ loc w, x.space ≠ 0 → translate (t.reg.ctx (some cl)) .write x.extra s = .ok loc w → isLocal loc = true →
          s.m.poison.contains (loc / 128) = false → pinnedElsewhere s none loc = false →
          s.m.shadows.contains (loc / 0x1_0000) = false →
          ∃ u, gone u ∧ u.m.readNat loc 8 = tagAdd (s.m.readNat loc 8) x.n ∧
            ∀ a, a < loc ∨ loc + 8 ≤ a → u.m.byte a = s.m.byte a))) ∧
    (∀ x, k.copies[e.idx]? = some x → x.released = false → stillRead s x.pages = false →
      ∃ u, exec .shadowWriteRelease s = .next u ∧ u.m = s.m ∧
        (u.coreOf e.core).copies[e.idx]? = some { x with released := true }) ∧
    (∀ x f, k.copies[e.idx]? = some x → x.fault = some f →
      ∃ u, exec .copyFault s = .next u ∧ (u.coreOf e.core).tile = none ∧ (u.coreOf e.core).copies = [])

/-- R370–R372: LEASE grants the lowest free handle of its region where every line of the range is local and the limits
hold, and otherwise answers a reason; LREL gives a lease back, or answers its remaining life; a lease whose life is over
ends. -/
def Sys2Proof.Parts.LeasesComplete : Prop :=
  ∀ (s : State) (t : Tile) (o : Cmd), s.here.tile = some t →
    let done (u : State) (v : DWord) : Host.Outcome State Fault Refusal :=
      .next ((u.updCore s.core fun k => k.setS o.d.toNat v).advance s.core .ctl 8)
    let a := (s.here.sreg o.a.toNat).toNat
    let n := (s.here.sreg (o.a.toNat + 1)).toNat
    (fieldsOk .ctl (.lease o) = true → 0 < n → n ≤ 8 * 2 ^ 20 →
      ∀ lines u, leaseLines (t.reg.ctx (some (clusterOf s.core))) a n s = .ok lines u →
        (∀ why, leaseResult u t.reg lines = .error why → exec (.lease o) s = done u (0 - BitVec.ofNat 64 why)) ∧
        (∀ h, leaseResult u t.reg lines = .ok h → h < 8 ∧
          (∀ x ∈ liveLeases u, x.region = t.reg.id → x.handle ≠ h) ∧
          exec (.lease o) s = done { u with m := { u.m with leases := liveLeases u ++
            [{ region := t.reg.id, handle := h, lines := lines.getD [], since := u.cycle, life := o.imm.toNat }] } }
              (BitVec.ofNat 64 h))) ∧
    (fieldsOk .ctl (.lease o) = true → n = 0 ∨ 8 * 2 ^ 20 < n →
      exec (.lease o) s = settle s.core .ctl (.error (.trap .reservedField 0) s)) ∧
    (fieldsOk .ctl (.lrel o) = true →
      let mine (x : Lease) := x.region = t.reg.id && x.handle = o.imm.toNat % 8
      ((liveLeases s).find? mine = none → exec (.lrel o) s = done s (0 - 1)) ∧
      (∀ x, (liveLeases s).find? mine = some x →
        (o.f8.getLsbD 0 = false →
          exec (.lrel o) s = done { s with m := { s.m with leases := s.m.leases.filter fun y => !mine y } } 0) ∧
        (o.f8.getLsbD 0 = true → x.life = 0 → exec (.lrel o) s = done s (BitVec.ofNat 64 (2 ^ 63 - 1))) ∧
        (o.f8.getLsbD 0 = true → x.life ≠ 0 →
          exec (.lrel o) s = done s (BitVec.ofNat 64 (x.since + x.life * 16384 - s.cycle))))) ∧
    (let ended (x : Lease) := x.region = s.ev.num && x.handle = s.ev.idx && x.life ≠ 0 && decide (x.since + x.life * 16384 ≤ s.cycle)
     s.m.leases.any ended = true →
      exec .leaseExpiry s = .next { s with m := { s.m with leases := s.m.leases.filter fun x => !ended x } })

/-- R359–R361, R369–R377: copies enter their queue or wait, their chunks land, they complete or fault; LEASE and LREL
answer, and a lease ends. -/
def Obligations.CopiesComplete : Prop := Parts.CopiesAccepted ∧ Parts.CopyEvents ∧ Parts.LeasesComplete

/-- R225: the index instructions complete on the bank of the executing sequencer; a branch target that is not a multiple of 4
traps ALIGN before anything is written, and NLOOP falls through at 1 or 0. -/
def Obligations.IndexInstructionsComplete : Prop :=
  ∀ (s : State),
    let q := indexer s
    let k := s.here
    let pc := (k.seq q).pc
    let jump (u : State) (t : DWord) : Host.Outcome State Fault Refusal :=
      if t.toNat % 4 = 0 then .next (u.goto s.core q t) else settle s.core q (.error (.trap .align t.toNat) s)
    let num (n d : Nat) (v : DWord) : Host.Outcome State Fault Refusal := .next (seqDone s q n fun k => k.setN q d v)
    let cmp (d : Nat) (b : Bool) : Host.Outcome State Fault Refusal := .next (seqDone s q 4 fun k => k.setP d b)
    (∀ o : RL, fieldsOk q (.nli o) = true →
      exec (.nli o) s = num 8 o.d.toNat (k.sreg o.a.toNat + o.ext.signExtend 64)) ∧
    (∀ o : R3F, fieldsOk q (.nadd o) = true →
      exec (.nadd o) s = num 4 o.d.toNat (k.nreg q o.a.toNat + k.nreg q o.b.toNat <<< o.f.toNat)) ∧
    (∀ o : RI, fieldsOk q (.naddi o) = true →
      exec (.naddi o) s = num 4 o.d.toNat (k.nreg q o.a.toNat + o.imm.signExtend 64)) ∧
    (∀ o : R3,
      let a := k.nreg q o.a.toNat
      let b := k.nreg q o.b.toNat
      (fieldsOk q (.ncmpEq o) = true → exec (.ncmpEq o) s = cmp o.d.toNat (decide (a = b))) ∧
      (fieldsOk q (.ncmpNe o) = true → exec (.ncmpNe o) s = cmp o.d.toNat (decide (a ≠ b))) ∧
      (fieldsOk q (.ncmpLt o) = true → exec (.ncmpLt o) s = cmp o.d.toNat (decide (a.toInt < b.toInt))) ∧
      (fieldsOk q (.ncmpLe o) = true → exec (.ncmpLe o) s = cmp o.d.toNat (decide (a.toInt ≤ b.toInt))) ∧
      (fieldsOk q (.ncmpLtu o) = true → exec (.ncmpLtu o) s = cmp o.d.toNat (decide (a.toNat < b.toNat))) ∧
      (fieldsOk q (.ncmpLeu o) = true → exec (.ncmpLeu o) s = cmp o.d.toNat (decide (a.toNat ≤ b.toNat)))) ∧
    (∀ o : BOff, fieldsOk q (.nbr o) = true → exec (.nbr o) s = jump s (pc + (o.off.signExtend 64) <<< 2)) ∧
    (∀ o : RL, fieldsOk q (.nloop o) = true →
      let n := k.nreg q o.d.toNat
      exec (.nloop o) s = if n.toNat ≤ 1 then num 8 o.d.toNat 0
        else jump (s.updCore s.core fun k => k.setN q o.d.toNat (n - 1)) (pc + o.ext.signExtend 64))

/-- R206, R212, R218–R220, R237–R241: a binding whose shape resolves takes the place of any other of its queue and empties the
queue; SUNB ends one. On ST a binding in the middle of an entry makes them wait, and a walk without entries ends at once. -/
def Obligations.StreamBindingsComplete : Prop :=
  ∀ (s s' : State) (t : Tile) (sh : Shape) (o : R3F), s.here.tile = some t → resolve s.core o.a.toNat s = .ok sh s' →
    let q := o.d.toNat
    let k := s.here
    let org (x : Seq) : List Int := (upto o.b.toNat 4).map fun i => (k.nreg x i).toInt
    let list (x : Seq) := (k.nreg x (o.b.toNat + o.f.toNat)).toNat
    let off (x : Seq) := list x % 2 ^ 32
    let cnt (x : Seq) := list x / 2 ^ 32
    let inRange (x : Seq) : Prop := off x % 4 = 0 ∧ off x + 4 * cnt x ≤ t.reg.spTile ∧ off x + 4 * cnt x ≤ Config.scratchBytes ∧
      o.f.toNat ≤ sh.ndim
    let run (x : Seq) : Binding := { kind := if o.f = 1 then .cyc else .once, shape := sh, org := org x }
    let byList (x : Seq) : Binding :=
      { kind := .list, shape := sh, org := org x, g := o.f.toNat, listOff := off x, listCnt := cnt x }
    let ld (b : Binding) : Host.Outcome State Fault Refusal :=
      .next ((s'.updCore s.core fun k => (k.setQueue q []).setBinding q (some b)).advance s.core .ld 4)
    let st (i : Instr) (b : Binding) : Prop := ∃ u : State, exec i s = .next (u.advance s.core .st 4) ∧
      (u.coreOf s.core).queue q = [] ∧
      (u.coreOf s.core).binding q = (if b.kind ≠ .cyc ∧ b.walk.entries = 0 then none else some b) ∧
      (∀ n, n ≠ q → (u.coreOf s.core).queue n = k.queue n ∧ (u.coreOf s.core).binding n = k.binding n)
    (fieldsOk .ld (.sbindLd o) = true → exec (.sbindLd o) s = ld (run .ld)) ∧
    (fieldsOk .ld (.gath o) = true → inRange .ld → exec (.gath o) s = ld (byList .ld)) ∧
    (fieldsOk .ld (.sunbLd o) = true → exec (.sunbLd o) s = .next (seqDone s .ld 4 fun k => k.setBinding q none)) ∧
    ((∀ b, (s'.coreOf s.core).binding q = some b → b.issued ≤ b.deliv ∨ b.held.isSome = true) →
      (fieldsOk .st (.sbindSt o) = true → st (.sbindSt o) (run .st)) ∧
      (fieldsOk .st (.scat o) = true → inRange .st → st (.scat o) (byList .st))) ∧
    (fieldsOk .st (.sunbSt o) = true →
      (∀ b, k.binding q = some b → b.deliv < b.issued → b.held = none →
        exec (.sunbSt o) s = .next (stallSeq s.core .st .queue s)) ∧
      ((∀ b, k.binding q = some b → b.issued ≤ b.deliv ∨ b.held.isSome = true) →
        ∃ u : State, exec (.sunbSt o) s = .next (u.advance s.core .st 4) ∧ (u.coreOf s.core).binding q = none ∧
          ∀ n, (u.coreOf s.core).queue n = k.queue n))

/-- R213, R214, R221–R224 and R235, R236, R242, R243, R247, R248, R257: a direct operation of LD or ST enters its queue where it
has room, none of its conditions holds and its shape resolves, with what it reads at issue. -/
def Obligations.DirectOperationsEnter : Prop :=
  ∀ (s : State) (t : Tile), s.here.tile = some t →
    let k := s.here
    let enters (i : Instr) (q : Seq) (x : DirectOp) : Prop := ∃ u, exec i s = .next u ∧
      ((u.coreOf s.core).streamer q).direct = (k.streamer q).direct ++ [x]
    let org (q : Seq) (b : Nat) : List Int := (upto b 4).map fun i => (k.nreg q i).toInt
    let fits (a n : Nat) : Prop := a + n ≤ t.reg.spTile ∧ a + n ≤ Config.scratchBytes
    (∀ o : RL, fieldsOk .ld (.pref o) = true → exec (.pref o) s = .next (s.advance s.core .ld 8)) ∧
    (k.lds.direct.length < 8 →
      (∀ (o : R3F) sh s', fieldsOk .ld (.ldq o) = true → resolve s.core o.a.toNat s = .ok sh s' → k.binding o.d.toNat = none →
        (k.queue o.d.toNat).length < 4 → ((s'.coreOf s.core).queue o.d.toNat) = k.queue o.d.toNat →
        ∃ u r, exec (.ldq o) s = .next u ∧ (u.coreOf s.core).queue o.d.toNat = k.queue o.d.toNat ++ [{ id := r, data := none }] ∧
          (u.coreOf s.core).lds.direct = (s'.coreOf s.core).lds.direct ++
            [{ kind := .ldq, d := o.d.toNat, shape := sh, org := org .ld o.b.toNat, rid := some r }]) ∧
      (∀ (o : RL) sh s', fieldsOk .ld (.ldt o) = true → resolve s.core o.a.toNat s = .ok sh s' →
        let a := (k.nreg .ld o.d.toNat).toNat
        let og := org .ld (o.f8.toNat % 16)
        a % 32 = 0 → fits a ((Walk.mk sh og 0 0 0).entries * (o.ext.toNat % 2 ^ 10)) →
        ∃ u, exec (.ldt o) s = .next u ∧ (u.coreOf s.core).lds.direct = (s'.coreOf s.core).lds.direct ++
          [{ kind := .ldt, d := o.d.toNat, ext := o.ext, addr := a, shape := sh, org := og }]) ∧
      (∀ (o : RL) w, fieldsOk .ld (.mfill o) = true → SMap.find k.windows o.d.toNat = some w →
        let first := (k.nreg .ld o.a.toNat).toNat
        first + o.ext.toNat % 2 ^ 10 ≤ winLen w.desc →
        (winMode w.desc = modeSnap ∨ winMode w.desc = modeRw →
          enters (.mfill o) .ld { kind := .mfill, d := o.d.toNat, ext := o.ext, addr := first }) ∧
        (¬(winMode w.desc = modeSnap ∨ winMode w.desc = modeRw) →
          exec (.mfill o) s = .next (s.advance s.core .ld 8)))) ∧
    (k.sts.direct.length < 8 →
      (∀ (o : R3F) sh s' e l, fieldsOk .st (.stq o) = true → resolve s.core o.a.toNat s = .ok sh s' →
        k.binding o.d.toNat = none → 0 < bufferFree k → (s'.coreOf s.core).queue o.d.toNat = k.queue o.d.toNat →
        (k.queue o.d.toNat).head? = some e → e.data = some l →
        ∃ u, exec (.stq o) s = .next u ∧
          (u.coreOf s.core).queue o.d.toNat = (if o.f = 0 then (k.queue o.d.toNat).drop 1 else k.queue o.d.toNat) ∧
          (u.coreOf s.core).sts.direct = (s'.coreOf s.core).sts.direct ++
            [{ kind := .stq, guard := s.guard, d := o.d.toNat, a := o.a.toNat, f8 := o.b ++ o.f, shape := sh
               org := org .st o.b.toNat, data := [l] }]) ∧
      (∀ (o : RL) sh s', fieldsOk .st (.stt o) = true → resolve s.core o.a.toNat s = .ok sh s' →
        let a := (k.nreg .st o.d.toNat).toNat
        let og := org .st (o.f8.toNat % 16)
        a % 32 = 0 → fits a ((Walk.mk sh og 0 0 0).entries * (o.ext.toNat % 2 ^ 10)) →
        ∃ u, exec (.stt o) s = .next u ∧ (u.coreOf s.core).sts.direct = (s'.coreOf s.core).sts.direct ++
          [{ kind := .stt, guard := s.guard, d := o.d.toNat, a := o.a.toNat, f8 := o.f8, ext := o.ext, addr := a
             shape := sh, org := og }]) ∧
      (∀ (o : RL) w, fieldsOk .st (.mwb o) = true → SMap.find k.windows o.d.toNat = some w →
        let first := (k.nreg .st o.a.toNat).toNat
        let writes : Prop := o.ext.toNat % 2 ^ 10 ≠ 0 ∧ (winMode w.desc = modeRw ∨ winMode w.desc = modeNofill)
        first + o.ext.toNat % 2 ^ 10 ≤ winLen w.desc →
        (writes → enters (.mwb o) .st
          { kind := .mwb, guard := s.guard, d := o.d.toNat, a := o.a.toNat, f8 := o.f8, ext := o.ext, addr := first }) ∧
        (¬writes → exec (.mwb o) s = .next (s.advance s.core .st 8))) ∧
      (∀ (o : RL4) (op : AtomOp) (sel : BitVec 4) (i : Instr),
        (op, sel, i) ∈ [(.add, 0, .atomvAdd o), (.and, 1, .atomvAnd o), (.or, 2, .atomvOr o), (.xor, 3, .atomvXor o),
          (.min, 4, .atomvMin o), (.max, 5, .atomvMax o), (.minu, 6, .atomvMinu o), (.maxu, 7, .atomvMaxu o),
          (.swp, 8, .atomvSwp o)] → fieldsOk .st i = true →
        let base : List Int := [((k.nreg .st (o.ext.toNat / 2 ^ 16 % 16)).toNat : Int)]
        (o.hi.getLsbD 3 = true →
          let a := (k.nreg .st o.a.toNat).toNat
          a % 512 = 0 → fits a 1536 →
          enters i .st { kind := .atomv, guard := s.guard, op := op, d := o.d.toNat, a := o.a.toNat, f8 := o.hi ++ sel
                         ext := o.ext, addr := a, org := base }) ∧
        (o.hi.getLsbD 3 = false →
          let qa := o.a.toNat
          let qv := o.ext.toNat % 16
          let ret := o.ext.getLsbD 8
          k.binding qa = none → k.binding qv = none →
          (ret = true → k.binding o.d.toNat = none ∧ (k.queue o.d.toNat).length < 4) →
          ∀ a v x y, (k.queue qa).head? = some a → a.data = some x → (k.queue qv).head? = some v → v.data = some y →
            (if qa = qv then 1 else 2) ≤ bufferFree k →
            enters i .st { kind := .atomv, guard := s.guard, op := op, d := o.d.toNat, a := qa, f8 := o.hi ++ sel
                           ext := o.ext, org := base
                           rid := if ret then some k.nextId else none
                           data := if qa = qv then [x] else [x, y] })))

/-- R212–R216, R237–R246: a stream reads its next entry or holds the entry's fault; an entry lands at the tail of its queue; a
single load lands in its reservation and leaves the direct queue; a stream of ST writes its queue's head and counts it; a
single store leaves the direct queue once written; a held fault becomes a trap of its sequencer (once CTL has no atomic out,
log 8). -/
def Obligations.StreamEventsComplete : Prop :=
  ∀ (s : State) (t : Tile),
    let c := s.ev.core
    let k := s.coreOf c
    let q := s.ev.num
    k.tile = some t →
    (∀ b l s', q < 8 → t.saving = none → k.binding q = some b → mayRead k q b = true →
      (readEntry c b.walk (b.issued % b.walk.entries) s = .ok (.ok l) s' →
        exec .streamEntryRead s = .next (s'.updCore c fun k => k.setBinding q
          (some { b with issued := b.issued + 1, reading := b.reading ++ [l], started := false, hold := none }))) ∧
      (∀ lane code va, readEntry c b.walk (b.issued % b.walk.entries) s = .ok (.error (lane, .trap code va)) s' →
        exec .streamEntryRead s = .next (s'.updCore c fun k => k.setBinding q (some { b with
          started := true, hold := none, refused := none
          held := some ⟨code, if code = .shapeBounds then 0 else va, lane, b.issued % b.walk.entries, false⟩ })))) ∧
    (∀ b l r, q < 8 → k.binding q = some b → b.reading = l :: r → (∀ e ∈ k.queue q, e.id ≠ k.nextId) →
      ∃ u, exec .streamEntryLand s = .next u ∧ (u.coreOf c).queue q = k.queue q ++ [{ id := k.nextId, data := some l }] ∧
        (u.coreOf c).binding q = some { b with reading := r, deliv := b.deliv + 1 }) ∧
    (∀ o r l s', t.saving = none → k.lds.direct = o :: r → o.kind = .ldq → o.held = none → o.done = 0 →
      (Walk.mk o.shape o.org 0 0 0).entries ≠ 0 → readEntry c ⟨o.shape, o.org, 0, 0, 0⟩ 0 s = .ok (.ok l) s' →
      ∃ u, exec .ldDirectOpComplete s = .next u ∧ (u.coreOf c).lds.direct = (s'.coreOf c).lds.direct.drop 1 ∧
        (u.coreOf c).queue o.d = ((s'.coreOf c).queue o.d).map fun e =>
          if e.id = o.rid.getD 0 then { e with data := some l } else e) ∧
    (∀ b e r l s', t.saving = none → 8 ≤ q → q < 16 → k.binding q = some b → b.held = none → k.queue q = e :: r → e.data = some l →
      b.walk.entries ≠ 0 →
      writeEntry c b.walk (b.deliv % b.walk.entries) (fun n => pure (laneOf b.shape l n)) b.shape.lanes s = .ok (.ok ()) s' →
      ∃ u, exec .stStreamEntryWrite s = .next u ∧ (u.coreOf c).queue q = ((s'.coreOf c).queue q).drop 1 ∧
        ((b.kind = .cyc ∨ b.deliv + 1 ≠ b.walk.entries) → (u.coreOf c).binding q =
          some { b with deliv := b.deliv + 1, issued := b.deliv + 1, hold := none, refused := none }) ∧
        (b.kind ≠ .cyc → b.deliv + 1 = b.walk.entries → (u.coreOf c).binding q = none)) ∧
    (∀ o r s', t.saving = none → k.sts.direct = o :: r → o.kind = .stq → o.held = none → o.done = 0 →
      (Walk.mk o.shape o.org 0 0 0).entries ≠ 0 →
      writeEntry c ⟨o.shape, o.org, 0, 0, 0⟩ 0 (fun n => pure (laneOf o.shape (o.data.getD 0 []) n)) o.shape.lanes s =
        .ok (.ok ()) s' →
      ∃ u, exec .stDirectOpComplete s = .next u ∧ (u.coreOf c).sts.direct = (s'.coreOf c).sts.direct.drop 1) ∧
    (∀ n h, s.ev.sq = .ld ∨ s.ev.sq = .st → heldQueue k s.ev.sq = some (n, h) → (k.seq s.ev.sq).run ≠ .trapped →
      k.trap.mode = false → t.nrec.entryHalf .ctl 3 ≠ 0 → k.ctl.remote = none →
      ∃ u, exec .heldFaultTrap s = .next u ∧ (u.coreOf c).trap.code = h.code.num ∧
        (u.coreOf c).trap.seq = seqNum s.ev.sq ∧ (u.coreOf c).trap.va = BitVec.ofNat 64 h.va ∧
        (u.coreOf c).trap.mode = true ∧ ((u.coreOf c).seq s.ev.sq).run = .trapped ∧
        ((u.coreOf c).streamer s.ev.sq).aq.queue = n ∧ ((u.coreOf c).streamer s.ev.sq).aq.lane = h.lane)

/-- R252–R255: a remote put whose window has a free entry reads its source, takes the entry and lets ST go on; where the window
has none it waits and reads nothing, until the wait bound makes it trap MQ_FULL_TIMEOUT into the handler, an MSEND.P
likewise (13 R388); a granted entry lands in its place, and the window's tail passes all that have landed in order. -/
def Obligations.RemotePutsComplete : Prop :=
  ∀ (s : State) (t : Tile),
    let granted (c : Nat) : State := s.updCore c fun k => { k with
      mqWait := if k.st.granted.isSome then k.mqWait else s.cycle - k.st.grantSince.getD s.cycle
      st := { k.st with grantSince := none, put := none, granted := some 0 } }
    (∀ o : RL, s.here.tile = some t → fieldsOk .st (.rput o) = true →
      let a := (s.here.nreg .st o.d.toNat).toNat
      let core := clusterOf s.core * 8 + (s.here.nreg .st o.a.toNat).toNat % 8
      let win := o.ext.toNat % 32
      let size := 64 * 2 ^ (o.ext.toNat / 2 ^ 12 % 8)
      let k := s.here
      a % 64 = 0 →
      (∀ l s' w, mqFree s t.reg.id core win = true → spLoad s.core a size (granted s.core) = .ok l s' →
        SMap.find (s'.coreOf core).windows win = some w →
        ∃ (u : State) (w' : Window), exec (.rput o) s = .next (u.advance s.core .st 8) ∧ SMap.find (u.coreOf core).windows win = some w' ∧
          w'.mq.res = w.mq.res + 1 ∧ w'.mq.head = w.mq.head ∧ w'.mq.tail = w.mq.tail ∧
          w'.mq.msgs = w.mq.msgs ++ [{ s := w.mq.res, data := some (l.take w.mq.esz ++ bytesOf (w.mq.esz - l.length) 0)
                                       sem := if o.ext.getLsbD 8 then some (o.ext.toNat / 2 ^ 16 % 32) else none
                                       src := some s.core }]) ∧
      (mqFree s t.reg.id core win = false →
        (k.st.grantSince = none → ∃ u, exec (.rput o) s = .next u ∧ (u.coreOf s.core).st.run = .stalled .object ∧
          (u.coreOf s.core).st.grantSince = some s.cycle ∧ (u.coreOf s.core).st.pc = k.st.pc) ∧
        (∀ n, k.st.grantSince = some n → max 1 k.mqBound ≤ s.cycle - n →
          exec (.rput o) s = settle s.core .st (.error (.trap .mqFullTimeout 0) (s.updCore s.core (Core.noteWait s.cycle)))))) ∧
    (let e := s.ev
     let c := e.core
     let k := s.coreOf c
     (e.flag = true → mqFree s e.num c e.idx = true → exec .mqGrant s = .next (mqTake c e.idx (fun n => { s := n }) s)) ∧
     (∀ p l s', e.flag = false → e.sq = .st → k.tile = some t → t.saving = none → k.st.put = some p → k.st.grantSince.isSome = true →
       mqFree s t.reg.id p.core p.win = true → spLoad c p.src p.size (granted c) = .ok l s' → ∃ u : State, exec .mqGrant s = .next (u.advance c .st 8)) ∧
     (∀ q, q = .ctl ∧ e.sq = .ctl ∨ q = .st ∧ e.sq ≠ .ctl → ∀ p, k.tile = some t → t.saving = none → (k.seq q).put = some p →
       max 1 k.mqBound ≤ s.cycle - (k.seq q).grantSince.getD s.cycle →
       exec .mqFullTimeout s = settle c q (.error (.trap .mqFullTimeout 0) s) ∧
       (k.trap.mode = false → t.nrec.entryHalf .ctl 3 ≠ 0 → (q = .ctl ∨ k.ctl.remote = none) →
         ∃ u, exec .mqFullTimeout s = .next u ∧ u = { s with cores := u.cores } ∧ (u.coreOf c).trap.code = 0x15 ∧
           (u.coreOf c).trap.seq = seqNum q ∧ (u.coreOf c).trap.pc = (k.seq q).pc ∧ (u.coreOf c).trap.mode = true ∧
           (u.coreOf c).ctl.pc = BitVec.ofNat 64 (t.nrec.entryAt .ctl 3) ∧ ((u.coreOf c).seq q).put = none)) ∧
     (∀ w m l, k.tile = some t → SMap.find k.windows e.num = some w → w.mq.msgs = [m] → m.s = e.idx → m.data = some l → m.landed = false → m.sent = none →
       64 ≤ w.mq.esz → m.job = none → m.sem = none → w.mq.tail = m.s →
       ∃ (u : State) (w' : Window), exec .mqEntryLand s = .next u ∧ SMap.find (u.coreOf c).windows e.num = some w' ∧ w'.mq.tail = w.mq.tail + 1 ∧
         w'.mq.msgs = [] ∧
         ∀ i < l.length, some ((u.coreOf c).spByte (winSoff w.desc * 4096 + w.mq.esz * (1 + m.s % w.mq.n) + i)) = l[i]?))

/-- 04 R96: an instruction whose fields its own rules refuse traps RESERVED_FIELD on the sequencer that executes it, before any
effect. -/
def Sys2Proof.Parts.ReservedFieldsTrap : Prop :=
  ∀ (i : Instr) (s : State), fieldsOk (seqFor s i) i = false →
    exec i s = settle s.core (seqFor s i) (.error (.trap .reservedField 0) s)

/-- 09 R268, R269, R271–R275, 10 R295, 11 R332, R336, R345: an operation that its slot accepts, whose interlocks are met, that
finds none of the conditions of issue and whose queues let it, issues: it reads its operands then, pops the heads it does
not peek, and its results wait in the engine; MLS and MMA enter their ports. No register changes yet. -/
def Sys2Proof.Parts.TemplatesIssue : Prop :=
  ∀ (i : Instr) (s : State) (t : Tile), s.here.tile = some t → opAccepts i = true →
    let k := s.here
    let ops : List OpAt := [⟨0, i, none⟩]
    opReady k i = true → (∀ e ∈ issueTraps k t i ++ queueTraps k ops, e.1 = false) → queuesReady k ops = true →
    (∀ ch ∈ opChunks k ops, touchChunks s.core (ch * 4096) 1 s = .ok () s) →
    ∃ u, exec i s = .next u ∧
      (let k' := u.coreOf s.core
       k'.s = k.s ∧ k'.p = k.p ∧ k'.v = k.v ∧ k'.k = k.k ∧ k'.sp = k.sp ∧ k'.mx.acc = k.mx.acc ∧ k'.flags = k.flags ∧
       u.m = s.m ∧ k'.comp.bundle = k.comp.bundle + 1 ∧
       (∀ a, i = .mls a → k'.mx.load = k.mx.load ++
         [⟨k.comp.bundle, a, mlsAddr k a, a.opt.getLsbD 0, a.opt.getLsbD 2, false, k.cmp.pc⟩]) ∧
       (∀ a m n, mmaDims i = some (a, m, n) → SMap.get 0 k'.mx.stepcnt a.acc.toNat = 0 ∧
         ∃ id, k'.mx.mmas = k.mx.mmas ++ [⟨id, k.comp.bundle, a, m, n, 0, k.amTile 0, k.amTile 1, k.cmp.pc⟩]) ∧
       ((∀ a, i ≠ .mls a) → mmaDims i = none → ∃ o, k'.ops = k.ops ++ [o] ∧ o.flags = (runOp k 0 i).flags ∧
         o.late = (runOp k 0 i).late ∧ o.bundle = k.comp.bundle ∧
         o.writes.map EngWrite.bare = (runOp k 0 i).writes.map EngWrite.bare))

/-- R96, R268–R275: an instruction whose fields are refused traps RESERVED_FIELD on its sequencer; and for every template
row, of the slots M, A, B and F, an accepted operation that is ready issues: its operands are read, its results wait
in the engine, and no register changes yet. -/
def Obligations.OperationsIssue : Prop := Parts.ReservedFieldsTrap ∧ Parts.TemplatesIssue

/-- 10 R288, R298, R300: the integer and bitwise operations on the lanes of an integer format, with SAT 0 and every lane
enabled, give each lane its result modulo 2^w. -/
def Sys2Proof.Parts.VectorIntegerResults : Prop :=
  ∀ (k : Core) (n : Nat) (u : VUnit),
    let w := codeWidth u.t.fmt
    let a := lanesOf w (k.source u.t.sa.toNat)
    let b := lanesOf w (k.source u.t.sb.toNat)
    let gives (i : Instr) (l : List Nat) : Prop := runOp k n i = { writes := writeAll u.t.dst.toNat (bytesOfLanes w l) }
    u.t.fmt.toNat ∈ [1, 2, 3, 5, 6, 7] → u.t.sat = 0 → u.t.mask = 0 →
    gives (.vadd u) ((a.zip b).map fun e => (e.1 + e.2) % 2 ^ w) ∧
    gives (.vsub u) ((a.zip b).map fun e => (e.1 + 2 ^ w - e.2) % 2 ^ w) ∧
    gives (.vmul u) ((a.zip b).map fun e => e.1 * e.2 % 2 ^ w) ∧
    gives (.vand u) ((a.zip b).map fun e => e.1 &&& e.2) ∧
    gives (.vor u) ((a.zip b).map fun e => e.1 ||| e.2) ∧
    gives (.vxor u) ((a.zip b).map fun e => e.1 ^^^ e.2) ∧
    gives (.vnot u) (a.map fun x => 2 ^ w - 1 - x) ∧
    gives (.vmov u) a ∧
    (u.t.aux.getLsbD 15 = false → gives (.vshl u) ((a.zip b).map fun e => e.1 * 2 ^ (e.2 % w) % 2 ^ w) ∧
      gives (.vshr u) ((a.zip b).map fun e => e.1 / 2 ^ (e.2 % w)))

/-- R79, R83: a code of a floating format that is neither NaN nor an infinity stands for a value that rounds to that code, in
every rounding mode, without a flag; and a value beyond the largest finite one is an overflow, which gives the largest
finite value or the infinity as R79 says. -/
def Sys2Proof.Parts.FloatRounding : Prop :=
  (∀ (f : Fmt) (rm : RM) (sat : Bool) (x c : Nat), f.isFloat = true →
    let p := f.params
    c < 2 ^ (p.eb + p.mb + 1) → c % 2 ^ (p.eb + p.mb) ≤ p.max → roundFloat f rm sat x (decodeFloat p c) = (c, 0)) ∧
  (∀ (f : Fmt) (rm : RM) (sat neg : Bool) (x m : Nat) (e : Int), f.isFloat = true → 0 < m →
    let p := f.params
    let sign := if neg then 2 ^ (p.eb + p.mb) else 0
    p.bias + 1 < Nat.log2 m + e →
    roundFloat f rm sat x (.num neg m e) =
      (sign + if sat = true ∨ p.inf = 0 ∨ rm = .rtz ∨ rm = .stoch ∨ rm = .rdn ∧ neg = false ∨ rm = .rup ∧ neg = true then p.max else p.inf,
        flagOF))

/-- R298, R320, R79: with every lane enabled and a rounding mode that draws nothing, VADD, VMUL and VFMA on a floating format
round the exact sum, product, and product plus sum, once; VEXP, VLOG, VRCP, VRSQ, VTANH and VSIGM round their function's
value; each lane raises the flags it meets. Of the functions: e^±0 = 2^±0 = 1, e^+∞ = +∞, e^−∞ = +0, 2 to a whole power is that
power of two, and a NaN gives NaN; 1/±0 is an infinity with DZ. -/
def Sys2Proof.Parts.FloatingLaneResults : Prop :=
  (∀ (k : Core) (n : Nat) (u : VUnit) (F : Fmt) (rm : RM),
    fmtOf u.t.fmt.toNat = some F → F.isFloat = true → 8 ≤ F.width → rmOf u.t.rm.toNat = some rm → rm ≠ .stoch → u.t.mask = 0 →
    let sat : Bool := u.t.sat = 1
    let lanes (sel : BitVec 6) := (lanesOf F.width (k.source sel.toNat)).map (decodeVal F)
    let a := lanes u.t.sa
    let b := lanes u.t.sb
    let c := lanes u.t.sc
    let once (v : Val × Flags) : Nat × Flags := let r := roundFloat F rm sat 0 v.1; (r.1, r.2 ||| v.2)
    let gives (i : Instr) (l : List (Val × Flags)) : Prop := runOp k n i =
      { writes := writeAll u.t.dst.toNat (bytesOfLanes F.width ((l.map once).map (·.1)))
        flags := ((l.map once).map (·.2)).foldl (· ||| ·) 0 }
    gives (.vadd u) ((a.zip b).map fun e => addVal rm e.1 e.2) ∧
    gives (.vmul u) ((a.zip b).map fun e => mulVal e.1 e.2) ∧
    gives (.vfma u) ((a.zip (b.zip c)).map fun e =>
      let p := mulVal e.1 e.2.1
      let s := addVal rm p.1 e.2.2
      (s.1, p.2 ||| s.2)) ∧
    gives (.vexp u.t) (a.map (expVal (u.t.aux.getLsbD 0))) ∧
    gives (.vlog u.t) (a.map (logVal (u.t.aux.getLsbD 0))) ∧
    gives (.vrcp u.t) (a.map rcpVal) ∧ gives (.vrsq u.t) (a.map rsqVal) ∧ gives (.vtanh u.t) (a.map tanhVal) ∧
    gives (.vsigm u.t) (a.map sigmVal)) ∧
  (∀ (two neg : Bool) (e : Int), expVal two (.num neg 0 e) = (.num false 1 0, 0) ∧ expVal two (.inf false) = (.inf false, 0) ∧
    expVal two (.inf true) = (.num false 0 0, 0) ∧ expVal two .nan = (.nan, 0) ∧ rcpVal (.num neg 0 e) = (.inf neg, flagDZ)) ∧
  (∀ (neg : Bool) (j d : Nat), 0 < j → j < 4096 → d ≤ 320 →
    expVal true (.num neg (j * 2 ^ d) (-(d : Int))) = (.num false 1 (if neg then -(j : Int) else j), 0))

/-- R91, R92, R304, R305: with every lane enabled, VREDSUM of an integer format leaves the sum of all lanes, saturated, in lane
0 and zeros in the others, and VSCANSUM leaves in each lane the saturated sum of the lanes up to it, or before it. Of a
floating format, VREDSUM takes neighbours two by two, level by level, each step rounded to FP32, and rounds the last value to
its format; VSCANSUM carries a value from −0 on, lane by lane, rounded to FP32 at each. -/
def Sys2Proof.Parts.ReductionsAndScans : Prop :=
  ∀ (k : Core) (n : Nat) (u : VUnit) (F : Fmt) (rm : RM),
    fmtOf u.t.fmt.toNat = some F → rmOf u.t.rm.toNat = some rm → u.t.mask = 0 →
    let codes := lanesOf F.width (k.source u.t.sa.toNat)
    let ints := codes.map (intOf F)
    let L := 4096 / F.width
    let sat (i : Int) : Nat := wrapInt F.width (satInt F i).1
    let round (v : Val) : Nat × Flags := roundFloat F rm false 0 v
    let excl := u.t.aux.getLsbD 0
    codes.length = L →
    (F.isInt = true →
      runOp k n (.vredSum u) = { writes := writeAll u.t.dst.toNat (bytesOfLanes F.width (sat ints.sum :: List.replicate (L - 1) 0))
                                 flags := (satInt F ints.sum).2 } ∧
      (runOp k n (.vscanSum u)).writes = writeAll u.t.dst.toNat (bytesOfLanes F.width
        ((List.range L).map fun i => sat (ints.take (if excl then i else i + 1)).sum))) ∧
    (F.isFloat = true → 8 ≤ F.width →
      (∃ t : Nat → Nat → Val × Flags,
        (∀ i < L, t 0 i = (toFp32 F (codes.getD i 0), 0)) ∧
        (∀ j i, t (j + 1) i = sumStep rm (t j (2 * i)) (t j (2 * i + 1))) ∧
        (let r := t (Nat.log2 L) 0
         runOp k n (.vredSum u) =
          { writes := writeAll u.t.dst.toNat (bytesOfLanes F.width ((round r.1).1 :: List.replicate (L - 1) 0))
            flags := r.2 ||| (round r.1).2 })) ∧
      ∃ t : Nat → Val × Flags, t 0 = (.num true 0 0, 0) ∧
        (∀ i < L, t (i + 1) = sumStep rm (t i) (toFp32 F (codes.getD i 0), 0)) ∧
        (runOp k n (.vscanSum u)).writes = writeAll u.t.dst.toNat (bytesOfLanes F.width
          ((List.range L).map fun i => (round (t (if excl then i else i + 1)).1).1)))

/-- R306, R340: VCVT with a rounding mode that draws nothing rounds each lane that takes part, or saturates it in an integer
format, and puts it into its place of the destination; a narrower result leaves the rest of a register as it is. ACCRD does
the same with the 128 elements of an accumulator's row, read as FP32 or as INT32, and with STEP its count. -/
def Sys2Proof.Parts.ConversionsAndAccumulatorReads : Prop :=
  ∀ (k : Core) (n : Nat),
    let part (d lo : Nat) (l : List Byte) : EngWrite := .vreg d ((List.range 512).map fun i =>
      if i < lo then none else l[i - lo]?)
    (∀ (u : VUnit) (F D : Fmt) (rm : RM), fmtOf u.t.fmt.toNat = some F → fmtOf (u.t.aux.toNat % 16) = some D →
      rmOf u.t.rm.toNat = some rm → rm ≠ .stoch → u.t.dst.toNat < 32 →
      let p := u.t.aux.toNat / 16 % 8
      let a := lanesOf F.width (k.source u.t.sa.toNat)
      let Ls := 4096 / F.width
      let Ld := 4096 / D.width
      let out (l : List Nat) : List (Nat × Flags) := l.map fun c => roundTo D rm (u.t.sat = 1) 0 (decodeVal F c)
      let gives (lo : Nat) (l : List (Nat × Flags)) : Prop := runOp k n (.vcvt u) =
        { writes := [part u.t.dst.toNat lo (bytesOfLanes D.width (l.map (·.1)))], flags := (l.map (·.2)).foldl (· ||| ·) 0 }
      a.length = Ls →
      (F.width = D.width → gives 0 (out a)) ∧
      (F.width < D.width → p < D.width / F.width → gives 0 (out ((a.drop (p * Ld)).take Ld))) ∧
      (D.width < F.width → p < F.width / D.width → gives (p * Ls * D.width / 8) (out a))) ∧
    (∀ (t : MTmpl) (D : Fmt) (rm : RM), fmtOf t.fmt.toNat = some D → rmOf (t.opt.toNat % 8) = some rm → t.dst.toNat < 32 →
      let p := t.aux.toNat % 8
      let row := k.accRow t.acc.toNat t.row.toNat
      let l := row.map fun w => roundTo D rm (t.opt.getLsbD 3) 0 (if t.opt.getLsbD 4 then valInt w.toInt else decodeVal .fp32 w.toNat)
      row.length = 128 → (p + 1) * 128 * D.width ≤ 4096 →
      runOp k n (.accrd t) =
        { writes := part t.dst.toNat (p * 128 * D.width / 8) (bytesOfLanes D.width (l.map (·.1))) ::
            (if t.opt.getLsbD 6 then writeAll t.sc.toNat (bytesOf 4 (k.stepcnt t.acc.toNat) ++ bytesOf 508 0) else [])
          flags := (l.map (·.2)).foldl (· ||| ·) 0 })

/-- R347, R348: DRAW writes its five results and SLICE. Where no logit is valid it answers 2 and −∞; with a temperature of ±0,
negative, infinite or NaN it takes the lowest of the greatest logits; otherwise the lowest index whose running sum passes
the threshold of the draw, or the highest valid one. -/
def Sys2Proof.Parts.DrawResults : Prop :=
  (∀ (k : Core) (n : Nat) (t : MTmpl),
    let w := (lanesOf 32 (k.source t.sc.toNat))
    let at_ (i : Nat) := w.getD i 0
    let ctr := drawCtr (at_ 0 + at_ 1 % 2 ^ 24 * 2 ^ 32) (at_ 5)
    let r := drawFrom (drawLogits k t) (decodeVal .fp32 (at_ 4)) (BitVec.ofNat 64 (at_ 2 + at_ 3 * 2 ^ 32)) ctr
    let code (v : Val) : Nat := (roundFloat .fp32 .rne false 0 v).1
    runOp k n (.draw t) =
      { writes := .slice r.idx :: writeAll t.dst.toNat
          (bytesOfLanes 32 ([r.idx, r.u, code r.z, code r.mx, r.st] ++ List.replicate 123 0)), flags := r.flags }) ∧
  ∀ (x : List Val) (t : Val) (seed ctr : DWord),
    let r := drawFrom x t seed ctr
    let valid (i : Nat) : Prop := ∃ v : Val, x[i]? = some v ∧ v ≠ .nan ∧ v ≠ .inf true
    let greedy : Prop := t = .nan ∨ t = .inf false ∨ t.neg? = true ∨ t.isZero = true
    ((∀ i, ¬valid i) → r = { idx := 0, u := 0, z := .num false 0 0, mx := .inf true, st := 2, flags := 0 }) ∧
    (∀ (i : Nat) (v : Val), valid i → x[i]? = some v → (∀ (j : Nat) (w : Val), x[j]? = some w → v.lt w = false) →
      (∀ j < i, ∀ w : Val, x[j]? = some w → w ≠ .nan → w.lt v = true) →
      greedy → r.idx = i ∧ r.mx.eqv v = true ∧ r.st = 1 ∧ r.u = 0 ∧ r.z = .num false 0 0 ∧
        r.flags = if t.isZero then 0 else flagNV) ∧
    (¬greedy → (∃ i, valid i) → ∃ pre : Nat → Val × Flags,
      pre 0 = (.num true 0 0, 0) ∧
      (∀ i < x.length, ∃ e, pre (i + 1) = sumStep .rne (pre i) e ∧ (¬valid i → e = (.num false 0 0, 0)) ∧
        (∀ v : Val, valid i → x[i]? = some v →
          e.1 = (rneF32 (expVal false (rneF32 (divVal (addVal .rne v r.mx.flip).1 t).1).1).1).1)) ∧
      (let h := drawHash seed ctr
       let lim := (rneF32 (mulVal (.num false (h.toNat / 256) (-24)) (pre x.length).1).1).1
       r.st = 0 ∧ r.u = h.toNat / 256 ∧ r.z = (pre x.length).1 ∧
       (∀ i < x.length, lim.lt (pre (i + 1)).1 = true → (∀ j < i, lim.lt (pre (j + 1)).1 = false) → r.idx = i) ∧
       ((∀ i < x.length, lim.lt (pre (i + 1)).1 = false) →
         ∀ i, valid i → (∀ j, valid j → j ≤ i) → r.idx = i)))

/-- R79, R91, R92, R288–R306, R320, R340, R347: rounding; the results of the integer, bitwise and floating lane operations
and of the special functions; of reductions, scans and conversions; of accumulator reads; and of DRAW. -/
def Obligations.EngineResults : Prop := Parts.VectorIntegerResults ∧ Parts.FloatRounding ∧ Parts.FloatingLaneResults ∧ Parts.ReductionsAndScans ∧ Parts.ConversionsAndAccumulatorReads ∧ Parts.DrawResults

/-- 04 R99–R102, 09 R269, R270, R277: a bundle from memory whose header, patches and copies are accepted issues the operations
of its present and held slots where its guard is true, and nothing where it is false; either way it is counted, the loop
buffer takes its step, and CMP goes on past its words. -/
def Obligations.BundlesComplete : Prop :=
  ∀ (h : BundleHdr) (ps : List (Option Patch)) (i : Instr) (s : State) (t : Tile),
    (∃ m a b f, ps = [m, a, b, f] ∧ i = .issueBundle h m a b f) ∨ ps = [none, none, none, none] ∧ i = .emptyBundle h →
    s.here.tile = some t → s.here.comp.lateVa = none →
    let k := s.here
    let c := s.core
    let len := 4 + 4 * (ps.filter Option.isSome).length
    let forms := (slotted ps).map fun e => e.2.map (formCopy k e.1)
    let copies := forms.map fun x => x.bind okCopy
    let l := bundleSlots k h copies
    let done (u : State) : Host.Outcome State Fault Refusal := .next
      (((u.updCore c fun k => { k with comp := { k.comp with issued := (k.comp.issued + 1) % 2 ^ 32 } }).updCore c
        (loopStep h copies len)).nextBundle c len)
    hdrBad h (ps.map Option.isSome) = false → (∀ p ∈ ps, ∀ x, p = some x → patchBad x = false) →
    loopBad k t h len = false → (∀ x ∈ forms, ∀ e, x ≠ some (.error e)) → Reg.p h.g.toNat ∉ busyRegs k true →
    (k.preg h.g.toNat = false → exec i s = done s) ∧
    (∀ u, k.preg h.g.toNat = true → issueOps c h (slotOps l) (advanceTraps l) s = .ok () u →
      exec i s = done (u.updCore c fun k => { k with comp := { k.comp with held := l.map fun e => (e.2.getD (none, none)).2 } }))

/-- 09 R268, R272, R281, 10 R294, 11 R331, R336: a finished operation writes each result where it belongs and raises its flags;
a push delivers its tokens once its bundle is done; a fault found late traps POISON_CONSUMED on CMP; MLS fills the
shadow plane; a K step takes a full shadow plane, whose bytes then are gone, and writes M rows of the accumulator; while no
plane is full it waits, and the clocks that pass are counted; while a save of its tile waits no step begins (R353). -/
def Obligations.EngineEventsComplete : Prop :=
  ∀ (s : State),
    let c := s.ev.core
    let k := s.coreOf c
    (∀ o w, k.ops.find? (fun o => o.id = s.ev.num) = some o → opMayEnd k o = true → o.writes = [w] → o.late = none →
      ∃ u, exec .engineOperationComplete s = .next u ∧
        (let k' := u.coreOf c
         k'.flags = k.flags ||| o.flags ∧ k'.ops = k.ops.filter (fun p => p.id ≠ o.id) ∧ u.m = s.m ∧
         (∀ n d, w = .vreg n d → ∀ x, k'.vreg x = if x = n then (d.zip (k.vreg n)).map fun e => e.1.getD e.2 else k.vreg x) ∧
         (∀ n m v, w = .kreg n m v → n ≠ 0 → k'.kreg n = (k.kreg n &&& ~~~m) ||| (v &&& m)) ∧
         (∀ n v, w = .pred n v → 0 < n → n < 48 → k'.preg n = v) ∧
         (∀ a r d, w = .acc a r d → r < 64 → k'.accRow a r = d) ∧
         (∀ v, w = .slice v → k'.mx.slice = v % 512) ∧
         (∀ n d, w = .maskTile n d → k'.amTile n = d) ∧
         (∀ q r d, w = .queue q r d → k'.queue q = (k.queue q).map fun e => if e.id = r then { e with data := some d } else e))) ∧
    (∀ p r, k.comp.pushes = p :: r → bundleDone k p.bundle = true →
      exec .tokenPushDeliver s = .next (s.updCore c fun k =>
        { k with comp := { k.comp with pushes := r } }.setTokens .cmp p.dst (k.tokens .cmp p.dst + p.n))) ∧
    (∀ t va, k.tile = some t → k.comp.lateVa = some va → k.cmp.run ≠ .trapped → k.trap.mode = false →
      t.nrec.entryHalf .ctl 3 ≠ 0 → k.ctl.remote = none →
      ∃ u, exec .lateFaultTrap s = .next u ∧ (u.coreOf c).trap.code = 0x21 ∧ (u.coreOf c).trap.seq = 2 ∧
        (u.coreOf c).trap.va = BitVec.ofNat 64 va ∧ (u.coreOf c).trap.mode = true ∧ (u.coreOf c).comp.lateVa = none) ∧
    (∀ x r, k.mx.load = x :: r → k.mx.shadowRun = .empty → x.started = false → x.sp = true → mlsPoison s k x = none →
      exec .mlsStart s = .next (s.updCore c fun k => { k with mx :=
        { k.mx with
          load := { x with started := true } :: r
          shadowRun := .loading
          shadow := planeOf x.scl (k.spRead x.addr (recordBytesOf x.scl)) } })) ∧
    (k.mx.shadowRun = .loading → exec .shadowFull s = .next (s.updCore c fun k =>
      { k with mx := { k.mx with shadowRun := .full, load := k.mx.load.drop 1 } })) ∧
    (∀ x r, k.mx.mmas = x :: r → (∀ p ∈ k.ops, p.compute = true → x.id ≤ p.id) → takesPlane x = true →
      (k.mx.shadowRun ≠ .full → exec .mmaKStep s = .next s ∧
        ∀ n, ((passClocks n s).coreOf c).mx.waitclk = (k.mx.waitclk + n) % 2 ^ 32) ∧
      (k.mx.shadowRun = .full → (∃ t, k.tile = some t ∧ t.saving.isSome = true) → exec .mmaKStep s = .next s) ∧
      (k.mx.shadowRun = .full → (∀ t, k.tile = some t → t.saving = none) → stepPoison k x = none → x.m ≤ 64 → ∃ u, exec .mmaKStep s = .next u ∧
        (let k' := u.coreOf c
         let first := x.done = 0 && x.copy.opt.getLsbD 1
         let a := x.copy.acc.toNat
         let r0 := x.copy.row.toNat
         k'.mx.active = k.mx.shadow ∧ k'.mx.shadow = {} ∧ k'.mx.shadowRun = .empty ∧ SMap.get 0 k'.mx.stepcnt a = x.done + 1 ∧
         k'.mx.mmas = (if x.done + 1 < x.steps then { x with done := x.done + 1 } :: r else r) ∧
         (∀ m < x.m, k'.accRow a (r0 + m) =
           (mmaRow k x k.mx.shadow (if first then List.replicate 128 0 else k.accRow a (r0 + m)) m).1) ∧
         ∀ n, n < r0 ∨ r0 + x.m ≤ n → n < 64 → k'.accRow a n = k.accRow a n)))

/-- R387–R389, R393, R396, R401, R402: MSEND.P takes an entry of a free window of its own device and then reads its source,
MSEND.H takes one of the inbox, or they wait; DISP enters a job for a ready gate set and waits for one that loads; CMB sends its rows; QWAIT answers what a
wave brought, −2 for a job that is not registered as it begins, −1 past its limit, and waits otherwise; QREAD brings the count asked for. -/
def Obligations.FabricCommandsComplete : Prop :=
  ∀ (o : Cmd) (s : State) (t : Tile), s.here.tile = some t →
    let k := s.here
    let a := o.a.toNat
    let r (n : Nat) : DWord := k.sreg (a + n)
    let cl := clusterOf s.core
    let job := o.imm.toNat % 2 ^ 12
    let waits (i : Instr) : Prop := ∃ u, exec i s = .next u ∧ (u.coreOf s.core).ctl.run = .stalled .object ∧
      (u.coreOf s.core).ctl.pc = k.ctl.pc
    (fieldsOk .ctl (.msendP o) = true → putReserved (r 0) = false → (o.f8.getLsbD 1 = true ∨ putSem (r 0) = 0) →
      let size := 64 * 2 ^ (o.f8.toNat / 4 % 8)
      let core := putCore (r 0)
      let win := putWin (r 0)
      (r 1).toNat % 64 = 0 → (r 1).toNat + size ≤ t.reg.spTile → (r 1).toNat + size ≤ Config.scratchBytes →
      putDev (r 0) = s.devId →
        (∀ l s' w, mqFree s t.reg.id core win = true →
          spLoad s.core (r 1).toNat size (s.updSeq s.core .ctl fun x => { x with grantSince := none, put := none, granted := none }) =
            .ok l s' → SMap.find (s'.coreOf core).windows win = some w →
          ∃ (u : State) (w' : Window), exec (.msendP o) s = .next (u.advance s.core .ctl 8) ∧
            SMap.find (u.coreOf core).windows win = some w' ∧ w'.mq.res = w.mq.res + 1 ∧
            w'.mq.msgs = w.mq.msgs ++ [{ s := w.mq.res, data := some (l.take w.mq.esz ++ bytesOf (w.mq.esz - l.length) 0)
                                         sem := if o.f8.getLsbD 1 then some (putSem (r 0)) else none, job := some job
                                         sent := some ⟨s'.devId, s.core, s'.fab.arrived⟩ }]) ∧
        (mqFree s t.reg.id core win = false → k.ctl.grantSince = none → waits (.msendP o))) ∧
    (fieldsOk .ctl (.msendH o) = true → (r 0).toNat < 2 ^ 24 → (r 0).toNat / 2 ^ 12 % 16 = 0 → (r 0).toNat / 2 ^ 6 % 4 = 0 →
      (r 0).toNat / 2 ^ 16 = s.devId →
      let home := (r 0).toNat / 2 ^ 8 % 16
      let full : Prop := 256 ≤ (s.fi home).inbox.length + (s.fi home).promised
      (¬full → ∃ u : State, exec (.msendH o) s = .next (u.advance s.core .ctl 8) ∧
        (u.fi home).inbox = (s.fi home).inbox ++
          [⟨(r 0).toNat % 2 ^ 6, [r 1, r 2, r 3, r 4], job, some ⟨s.devId, s.core, s.fab.arrived⟩⟩]) ∧
      (full → waits (.msendH o))) ∧
    (fieldsOk .ctl (.disp o) = true → dispReserved k a = false →
      let set_ := (r 1).toNat / 2 ^ 8 % 16
      let n := (r 1).toNat % 2 ^ 6 + 1
      let g := s.gate cl set_
      (g.run = 1 → waits (.disp o)) ∧
      (g.run = 0 ∨ g.run = 3 → exec (.disp o) s = settle s.core .ctl (.error (.trap .reservedField 0) s)) ∧
      (g.run = 2 → (r 0).toNat % 64 = 0 → (r 3).toNat % 64 = 0 →
        (r 0).toNat + n * g.h * gateZ g.fmt ≤ t.reg.spTile → (r 0).toNat + n * g.h * gateZ g.fmt ≤ Config.scratchBytes →
        ∃ u : State, exec (.disp o) s = .next (u.advance s.core .ctl 8) ∧ (u.fi cl).disps = (s.fi cl).disps ++
          [{ core := s.core, off := (r 0).toNat, n := n, set := set_, rstride := (r 1).toNat / 2 ^ 32 % 2 ^ 16
             seqId := (r 2).toNat / 2 ^ 32, first := (r 2).toNat % 2 ^ 32, handle := r 3, job := job
             pc := k.ctl.pc.toNat, tile := t.dispatched }])) ∧
    (fieldsOk .ctl (.cmb o) = true →
      let n := (r 1).toNat % 2 ^ 7
      let h := (r 1).toNat / 2 ^ 16 % 2 ^ 14
      let fy := o.f8.toNat % 16
      let out := (r 2).toNat
      (r 0).toNat / 2 ^ 48 % 2 ^ 6 = 0 → (r 1).toNat / 2 ^ 7 % 2 ^ 9 = 0 → (r 1).toNat < 2 ^ 30 → n ≤ 64 → combH h = true →
      out % 64 = 0 →
      (n = 0 ∨ out + (n - 1) * rowStride h fy + h * combZ fy ≤ t.reg.spTile ∧
        out + (n - 1) * rowStride h fy + h * combZ fy ≤ Config.scratchBytes) →
      ∀ rows s' s'', combRows s.core t ((r 0).toNat % 2 ^ 48 * 256) ((r 0).toNat / 2 ^ 54) out fy h n 0 s = .ok (rows, none) s' →
        each rows (sendComb cl) s' = .ok () s'' → exec (.cmb o) s = .next (s''.advance s.core .ctl 8)) ∧
    (fieldsOk .ctl (.qwait o) = true →
      let done (v : DWord) (p : Bool) : Host.Outcome State Fault Refusal :=
        .next (ctlDone s 8 fun k => (k.setS o.d.toNat v).setP (o.f8.toNat % 32) p)
      let late : Prop := (r 0).toNat ≠ 0 ∧ k.ctl.grantSince.getD s.cycle + (r 0).toNat ≤ s.cycle
      (∀ l, k.ctl.remote = some (.done l) →
        exec (.qwait o) s = done (BitVec.ofNat 64 (ofBytes (l.take 6))) (decide (ofBytes (l.drop 6) ≠ 0))) ∧
      (∀ c, k.ctl.remote = some (.failed c) → exec (.qwait o) s = done (0 - 1) false) ∧
      (k.ctl.remote = none → k.ctl.qwait = none → jobEntryOf s job = none → exec (.qwait o) s = done (0 - 2) false) ∧
      (k.ctl.remote = none → k.ctl.qwait ≠ none ∨ jobEntryOf s job ≠ none →
        (late → exec (.qwait o) s = done (0 - 1) false) ∧ (¬late → waits (.qwait o)))) ∧
    (fieldsOk .ctl (.qread o) = true →
      let read (v : Nat) : Host.Outcome State Fault Refusal := .next (ctlDone s 8 fun k => k.setS o.d.toNat (BitVec.ofNat 64 v))
      (jobEntryOf s job = none → exec (.qread o) s = read 0) ∧
      (∀ e, jobEntryOf s job = some e →
        let c := countsOf s e (o.imm.toNat / 2 ^ 16 % 32)
        let j := s.jobAt e
        let item := o.imm.toNat / 2 ^ 12 % 16
        (item = 0 → exec (.qread o) s = read c.inj) ∧ (item = 1 → exec (.qread o) s = read c.cons) ∧
        (item = 2 → exec (.qread o) s = read c.lost) ∧ (item = 4 → exec (.qread o) s = read j.i) ∧
        (item = 5 → exec (.qread o) s = read j.c) ∧ (item = 6 → exec (.qread o) s = read j.l) ∧
        (item = 3 → exec (.qread o) s =
          read (j.number % 2 ^ 48 + (if j.lossSeen then 2 ^ 62 else 0) + (if j.quiet then 2 ^ 63 else 0)))))

/-- R138, R388, R389, R396–R401, R496: an answered host atomic gives CTL its value or fault (the driver answers one that
stands in the mailbox once it has claimed it, R511), and one not claimed in time is withdrawn with the fault (R496); an inbox entry is granted while
there is room; a handler message whose nest is enqueued leaves the inbox, and one that finds the scheduler full waits; an
arrival that its home takes is counted as consumed; a wave that passes twice with equal sums is quiet; a QWAIT past its
limit is answered; clearing a job's counters leaves none. That an inbox entry is promised before its message comes, that a
wave's period counts from the start of the last wave, and that an event brings the other devices' sums, is log 41's choice. -/
def Obligations.FabricEventsComplete : Prop :=
  ∀ (s : State),
    let e := s.ev
    let c := e.core
    (∀ a, s.hostAtoms.filter (fun a => a.core = c && a.sq = .ctl) = [a] → a.live = true → e.sq = .ctl →
      let performs : Prop := a.fallback = false ∨ a.seq.isSome = true ∧ s.sv.claim = true
      (¬performs → exec .hostAtomicCompletion s = .next s) ∧
      (∀ v, e.reply = .value v → performs → ∃ u, exec .hostAtomicCompletion s = .next u ∧ hostAtomOf u c .ctl = none ∧
        (u.coreOf c).ctl.remote = some (.done (bytesOf a.size (v.toNat % 2 ^ (8 * a.size)))) ∧
        ∀ x, u.m.byte x = s.m.byte x) ∧
      (e.reply = .unsupported → a.fallback = true → performs → ∃ u, exec .hostAtomicCompletion s = .next u ∧ hostAtomOf u c .ctl = none ∧
        (u.coreOf c).ctl.remote = some (.failed .hostAtomicUnsupported)) ∧
      (a.fallback = true → a.since + max s.hl.hatom 1 ≤ s.cycle → s.sv.claim = false →
        ∃ u, exec .hostAtomicWithdraw s = .next u ∧ hostAtomOf u c .ctl = none ∧
          (u.coreOf c).ctl.remote = some (.failed .hostAtomicUnsupported))) ∧
    (e.flag = true → (s.fi e.idx).inbox.length + (s.fi e.idx).promised < 256 →
      exec .handlerInboxGrant s = .next (s.updFi e.idx fun x => { x with promised := x.promised + 1 })) ∧
    (∀ m r x u, (s.fi c).inbox = m :: r → enqueueHandler c m s = .ok x u →
      let out (i : Instr) : Prop :=
        (∀ nid, x = .ok nid → ∃ v, exec i s = .next v ∧ (v.fi c).inbox = r ∧ (v.fi c).inboxFull = false ∧
          v.fab.handlers = u.fab.handlers ++ [(nid, c, m.job)]) ∧
        (x = .error .full → exec i s = .next (u.updFi c fun x => { x with inboxFull := true }))
      ((s.fi c).inboxFull = false → m.sent.any (sentBefore s) = false → out .handlerMessage) ∧
      ((s.fi c).inboxFull = true → (freeSlot s).isSome = true → out .handlerEnqueueRetry)) ∧
    (∀ m u, s.fab.combs[e.idx]? = some m → firstOfSender s e.idx m = true → applyComb m s = .ok () u →
      let v := consumed m.job (clusterOf (handleCore m.handle))
        { u with fab := { u.fab with combs := u.fab.combs.eraseIdx u.ev.idx } }
      (m.row.isSome = true → exec .combineArrival s = .next v) ∧ (m.row = none → exec .dropNoticeArrival s = .next v)) ∧
    (let j := s.jobAt e.idx
     jobEntryOf s j.job = some e.idx → j.valid = true → j.period ≠ 0 → jobLeader j = some s.devId →
     (j.since + j.period ≤ s.cycle → (∀ w ∈ s.fab.waves, w.entry ≠ e.idx) → ∃ u, exec .waveStart s = .next u ∧
       u.fab.waves = s.fab.waves ++ [{ entry := e.idx, began := s.cycle }] ∧ (u.jobAt e.idx).since = s.cycle) ∧
     (∀ w, s.fab.waves.find? (fun w => w.entry = e.idx) = some w →
       let sums := passSums s e.idx e.nums
       (w.first = none → ∃ u, exec .wavePass s = .next u ∧
         { w with first := some sums, cut := w.cut || e.flag } ∈ u.fab.waves ∧ u.fab.jobs = s.fab.jobs) ∧
       (∀ f, w.first = some f → ∃ u, exec .wavePass s = .next u ∧ (∀ x ∈ u.fab.waves, x.entry ≠ e.idx) ∧
         (u.jobAt e.idx).number = (j.number + 1) % 2 ^ 48 ∧ (u.jobAt e.idx).i = sums.1 ∧
         ((u.jobAt e.idx).quiet = true ↔ w.cut = false ∧ e.flag = false ∧ f.1 = (f.2.1 + f.2.2) % 2 ^ 48 ∧
           sums.1 = (sums.2.1 + sums.2.2) % 2 ^ 48 ∧ f.1 = sums.1)))) ∧
    (∀ job limit, (s.coreOf c).ctl.qwait = some (job, limit) → (s.coreOf c).ctl.remote = none → limit ≠ 0 →
      (s.coreOf c).ctl.grantSince.getD s.cycle + limit ≤ s.cycle →
      exec .qwaitTimeout s = .next (s.updSeq c .ctl fun x => { x with remote := some (.failed .watchdog) })) ∧
    (∃ u, exec .jobCountersClear s = .next u ∧ (∀ ifc < 32, countsOf u e.idx ifc = {}) ∧
      (∀ i ≠ e.idx, ∀ ifc < 31, countsOf u i ifc = countsOf s i ifc) ∧ u.fab.jobs = s.fab.jobs)

/-- R391–R394: a request marks a gate set as loading; a set that no accepted DISP names loads where its descriptor and arrays
can be read and it fits, and is freed; a ready set reloads its biases; scoring a token passes to the next one, and after
the last the DISP is consumed. -/
def Obligations.GateSetsComplete : Prop :=
  ∀ (s : State),
    let e := s.ev
    let c := e.core
    let i := e.idx
    let ask (free : Bool) : GateAsk := { va := e.num, region := e.value.toNat, free := free }
    let asked (free : Bool) : Host.Outcome State Fault Refusal :=
      .next (s.updGate c i fun g => { g with run := 1, ask := some (ask free) })
    exec .gateSetLoadReq s = asked false ∧ exec .gateSetFreeReq s = asked true ∧
    (∀ a, (s.gate c i).ask = some a → (∀ d ∈ (s.fi c).disps, d.set ≠ i) →
      (a.free = true → ∃ u, exec .gateSetFree s = .next u ∧ u.gate c i = {} ∧ ∀ j, j ≠ i → u.gate c j = s.gate c j) ∧
      (let s' := s.updGate c i fun g => { g with off := 0, len := 0 }
       a.free = false → ∀ x u, unitTry (readGate ((effRegion s' a.region).ctx none) a.va) s' = .ok x u →
         (∀ g off, x = .ok (some g) → gatePlace (u.fi c) (gateBytes g.h g.e g.fmt) = some off →
           ∃ v, exec .gateSetLoad s = .next v ∧ v.gate c i =
             { g with run := 2, region := a.region, off := off, len := gateBytes g.h g.e g.fmt }) ∧
         (x = .ok none ∨ (∃ err, x = .error err) → ∃ v, exec .gateSetLoad s = .next v ∧ v.gate c i = { run := 3 }))) ∧
    (∀ b u, (s.gate c i).run = 2 →
      unitTry (do
        let l ← readSpan ((effRegion s e.value.toNat).ctx none) e.num 64
        readSpan ((effRegion s e.value.toNat).ctx none) (ofBytes ((l.drop 0x18).take 8)) (4 * (s.gate c i).e)) s = .ok (.ok b) u →
      exec .gateSetBiasReload s = .next (u.updGate c i fun g => { g with bias := b })) ∧
    (∀ d r x v u, (s.fi c).disps = d :: r → tokenVec c d s = .ok x v → scoreToken c d x v = .ok () u →
      (d.next + 1 < d.n → exec .tokenScore s = .next (u.updFi c fun x => { x with disps := { d with next := d.next + 1 } :: r })) ∧
      (d.n ≤ d.next + 1 → exec .tokenScore s =
        .next (consumed d.job c (u.updFi c fun x => { x with disps := x.disps.drop 1 }))))

/-- R381–R385, 02 R51, R66: a flit with a good CRC and the expected number is taken, any other asks for a resend; a resend counts
and at the limit resets the link; a reset that answers loses the messages not received and keeps everything else to be sent;
a whole packet for this device is delivered; a peer's read inside an open window is answered with the bytes, outside one
refused, and memory is unchanged; a peer's write or atomic on a pinned line waits, and is refused once the hold has passed;
an answer ends its request; a link changes its state. The layout and the statuses of a peer's request and answer are log
23's choice. -/
def Obligations.LinkEventsComplete : Prop :=
  ∀ (s : State),
    let e := s.ev
    let i := e.idx
    let x := s.link i
    let word := ofBytes ((e.bytes.drop 120).take 2)
    (x.run = 2 →
      (¬(flitGood e.bytes = true ∧ word % 2 ^ 12 = x.rxNext) →
        exec .shageanFlitReceive s = .next (s.updLink i fun x => { x with nak := some x.rxNext })) ∧
      (flitGood e.bytes = true → word % 2 ^ 12 = x.rxNext → ∃ u, exec .shageanFlitReceive s = .next u ∧
        (u.link i).rxNext = (x.rxNext + 1) % 2 ^ 12 ∧ (u.link i).nak = none ∧ u.m = s.m ∧ u.cores = s.cores) ∧
      (∀ f r, x.replay = f :: r → f.seq = e.num → ∃ u, exec .shageanGoBack s = .next u ∧
        (u.link i).retries = (x.retries + x.replay.length) % 2 ^ 32 ∧
        (u.link i).replay = x.replay.map (fun f => { f with resent := f.resent + 1 }) ∧
        ((u.link i).run = 1 ↔ ∃ f ∈ x.replay, max 1 s.fab.retryMax ≤ f.resent + 1)) ∧
      (x.replay ≠ [] → x.progress + s.fab.resetClk ≤ s.cycle → ∃ u, exec .linkAckTimeout s = .next u ∧ (u.link i).run = 1 ∧
        (u.link i).resets = (x.resets + 1) % 2 ^ 16 ∧ (u.link i).rx = [] ∧ (u.link i).resync = true) ∧
      (x.resync = true →
        let sent := x.out.filter fun p => p.last.isSome
        let rest := sent.drop e.num
        let gone := (rest.map fun p => packetOf p.bytes).filter Packet.isMessage
        (∃ u, exec .linkResync s = .next u ∧ (u.link i).rxNext = 0 ∧ (u.link i).resync = false) ∧
        ∃ w, (∀ u, postLosses (gone.map (·.job)) w = .ok () u → exec .linkResync s = .next u) ∧
          (w.link i).rxNext = 0 ∧ (w.link i).resync = false ∧ w.m = s.m ∧ w.cores = s.cores ∧
          ((w.link i).out.map (·.bytes)).Perm
            (((rest.filter fun p => !(packetOf p.bytes).isMessage) ++ x.out.filter fun p => p.last.isNone).map (·.bytes)) ∧
          ∀ job en, jobEntryOf s job = some en → (∃ p ∈ gone, p.job = job) →
            (SMap.get {} w.fab.counts (32 * en + linkIfc i)).lost =
              ((SMap.get {} s.fab.counts (32 * en + linkIfc i)).lost + (gone.filter fun p => p.job = job).length) % 2 ^ 48)) ∧
    (∀ p, x.pkts = [(e.num, p)] → (packetOf p).dst = s.devId → (packetOf p).isMessage = false →
      ∃ u, exec .shageanPacketReceive s = .next u ∧ (u.link i).pkts = [] ∧
        ((packetOf p).kind = 4 →
          u.fab.peerIn = s.fab.peerIn ++ [⟨(packetOf p).src, (packetOf p).tag, i, (packetOf p).bytes, none⟩]) ∧
        ((packetOf p).kind = 5 →
          u.fab.peerAnswers = s.fab.peerAnswers ++ [⟨(packetOf p).src, (packetOf p).tag, i, (packetOf p).bytes, none⟩])) ∧
    (∀ q, s.fab.peerIn[i]? = some q → firstOfPeer s.fab.peerIn i q = true → (∀ d ∈ s.fab.peerDone, ¬(d.1 = q.src ∧ d.2.1 = q.tag)) →
      let p := packetOf q.bytes
      let n := p.special / 2 ^ 16 % 2 ^ 32
      let pinned : Prop := ∃ l, p.target / 256 ≤ l ∧ l * 256 < p.target + n ∧ pinnedElsewhere s none (l * 256) = true
      let allowed : Prop := windowAllows s p.target n false = true ∧ p.target + n ≤ Config.memBytes
      let answers (status : Nat) (data : List Byte) : Prop := ∃ u, exec .peerRequest s = .next u ∧
        u.fab.peerIn = s.fab.peerIn.eraseIdx i ∧ u.m = s.m ∧
        u.fab.peerDone = s.fab.peerDone ++ [(q.src, q.tag, (answerPacket s q.src q.tag status data).bytes)]
      (p.special % 2 ^ 8 = 0 →
        (allowed → (∀ b, p.target / 128 ≤ b → b * 128 < p.target + n → b ∉ s.m.poison) → answers 0 (s.m.readN p.target n)) ∧
        (¬allowed → answers 1 [])) ∧
      (p.special % 2 ^ 8 ≠ 0 → windowAllows s p.target n true = true → pinned →
        let since := q.since.getD s.cycle
        (since + s.m.scopeHold ≤ s.cycle → answers 4 []) ∧
        (s.cycle < since + s.m.scopeHold → ∃ u, exec .peerRequest s = .next u ∧ u.m = s.m ∧
          u.fab.peerIn = s.fab.peerIn.set i { q with since := some since }))) ∧
    (∀ q a, s.fab.peerAnswers[i]? = some q → firstOfPeer s.fab.peerAnswers i q = true → s.peerAsks.find? (fun a => a.tag = q.tag && peerDev a.loc = q.src) = some a →
      a.kind = .read → (packetOf q.bytes).special = 0 →
      ∃ u, exec .peerResponse s = .next u ∧ u.peerAsks = s.peerAsks.filter (fun b => b ≠ a) ∧
        u.fab.peerAnswers = s.fab.peerAnswers.eraseIdx i ∧
        u.m.rdc.head? = some ⟨a.loc / 256 * 256, s.m.pubCount, (packetOf q.bytes).data⟩ ∧ ∀ b, u.m.byte b = s.m.byte b) ∧
    (e.num ≤ 2 →
      (e.link = .host → exec .linkStateChange s = .next { s with hl := { s.hl with link := e.num } }) ∧
      (∀ p < 2, e.link = .flash p →
        exec .linkStateChange s = .next { s with cd := { s.cd with link := SMap.put s.cd.link p e.num } }) ∧
      (∀ p < 4, e.link = .port p → exec .linkStateChange s = .next (s.updPort p fun x => { x with link := e.num })) ∧
      (∀ l, e.link = .shagean l → e.num ≠ 0 → s.fab.linken.testBit l = false → exec .linkStateChange s = .next s) ∧
      (∀ l, e.link = .shagean l → e.num = 0 ∨ s.fab.linken.testBit l = true →
        ∃ u, exec .linkStateChange s = .next u ∧ (u.link l).run = e.num))

/-- R434–R436: a command about a key without an entry, or whose layer is not loaded, answers −1; RLOOK answers the item
asked for; RPIN adds a pin and answers the copy's word, or with .W waits until the copy is resident; RUNPIN takes a pin
back and answers how many are left, −6 without one; RFETCH answers 0, 2 or 1 for a copy that is resident, on its way or
asked for now; REVICT evicts a resident copy and answers −5 for a pinned one. LASTUSE is the counter after its advance (log 32); that RFETCH and REVICT wait for a copy that is being
evicted, and that a waiting RPIN.W remembers its pin, is the model's choice (logs 43 and 44). -/
def Obligations.CaddyCommandsComplete : Prop :=
  ∀ (o : Cmd) (s : State) (t : Tile), s.here.tile = some t →
    let k := s.here
    let v := k.sreg o.a.toNat
    let key := v.toNat
    let sec := o.f8.getLsbD 0
    let answer (u : State) (n : DWord) : Host.Outcome State Fault Refusal := .next (ctlDone u 8 fun k => k.setS o.d.toNat n)
    let waits (i : Instr) : Prop := exec i s = .next (stallSeq s.core .ctl .object s)
    key < 2 ^ 34 →
    (∀ i ∈ [Instr.rlook o, .runpin o, .rfetch o, .revict o, .rpin o], fieldsOk .ctl i = true →
      (i = .rpin o → SMap.find k.ctl.pinned k.ctl.pc.toNat = none) → findTag s key = none ∨ layerOf s key = none → exec i s = answer s (0 - 1)) ∧
    (∀ i l, findTag s key = some i → layerOf s key = some l → outsideSubtree t.reg s l.region = false →
      let e := s.tag i
      let c := e.copyAt sec
      let lacks : Prop := c.run = 0 ∧ sourceOf s e (l.fmt sec) = none
      (fieldsOk .ctl (.rlook o) = true →
        (o.imm = 0 → exec (.rlook o) s = answer s (BitVec.ofNat 64 (copyItem l e false))) ∧
        (o.imm = 1 → exec (.rlook o) s = answer s (BitVec.ofNat 64 (copyItem l e true))) ∧
        (o.imm = 2 → exec (.rlook o) s = answer s (BitVec.ofNat 64 (e.lastUse + e.uses * 2 ^ 32))) ∧
        (o.imm = 3 → ∀ x u, saucerItem (bowlOf s i) s = .ok x u → exec (.rlook o) s = answer u (BitVec.ofNat 64 x)) ∧
        (o.imm = 4 → exec (.rlook o) s = answer s (BitVec.ofNat 64 (sourceItem e)))) ∧
      (¬(sec = true ∧ l.sp = 0xF) →
        (fieldsOk .ctl (.rpin o) = true → SMap.find k.ctl.pinned k.ctl.pc.toNat = none → c.pins < 4095 → c.run ≠ 3 → ¬lacks →
          (o.f8.getLsbD 1 = false ∨ c.run = 2 → ∃ u : State,
            exec (.rpin o) s = answer u (BitVec.ofNat 64 (copyItem l (u.tag i) sec)) ∧
            ((u.tag i).copyAt sec).pins = c.pins + 1 ∧ (u.tag i).lastUse = (s.cd.counter + 1) % 2 ^ 32 ∧
            (c.run = 0 → ((u.tag i).copyAt sec).run = 1) ∧ (c.run ≠ 0 → ((u.tag i).copyAt sec).run = c.run)) ∧
          (o.f8.getLsbD 1 = true → c.run ≠ 2 → ∃ u, exec (.rpin o) s = .next u ∧
            (u.here).ctl.run = .stalled .object ∧ SMap.find (u.here).ctl.pinned k.ctl.pc.toNat = some (i, sec) ∧ (u.here).ctl.pc = k.ctl.pc ∧
            ((u.tag i).copyAt sec).pins = c.pins + 1)) ∧
        (fieldsOk .ctl (.rpin o) = true → SMap.find k.ctl.pinned k.ctl.pc.toNat = some (i, sec) → e.key = key → c.run = 2 →
          exec (.rpin o) s = answer
            (s.updCore s.core fun k => k.updSeq .ctl fun x => { x with pinned := SMap.erase x.pinned x.pc.toNat })
            (BitVec.ofNat 64 (copyItem l e sec))) ∧
        (fieldsOk .ctl (.runpin o) = true →
          (c.pins = 0 → exec (.runpin o) s = answer s (0 - 6)) ∧
          (0 < c.pins → c.run ≠ 3 → (∀ x ∈ s.cd.tags, x.2.stuck = none) → exec (.runpin o) s =
            answer (s.updCopyOf i sec fun c => { c with pins := c.pins - 1 }) (BitVec.ofNat 64 (c.pins - 1)))) ∧
        (fieldsOk .ctl (.rfetch o) = true →
          (lacks → exec (.rfetch o) s = answer s (0 - 4)) ∧
          (c.run = 2 → exec (.rfetch o) s = answer s 0) ∧ (c.run = 1 → exec (.rfetch o) s = answer (demandFetch l i sec s) 2) ∧
          (c.run = 0 → ¬lacks → exec (.rfetch o) s = answer (askFetch l i sec false s) 1) ∧ (c.run = 3 → waits (.rfetch o))) ∧
        (fieldsOk .ctl (.revict o) = true →
          (0 < c.pins → exec (.revict o) s = answer s (0 - 5)) ∧
          (c.pins = 0 → c.run = 1 → exec (.revict o) s = answer s (0 - 6)) ∧
          (c.pins = 0 → c.run = 2 → exec (.revict o) s = answer (evict i sec s) 0) ∧
          (c.pins = 0 → c.run = 0 → exec (.revict o) s = answer s 0) ∧ (c.pins = 0 → c.run = 3 → waits (.revict o)))))

/-- R409, R410, R436: RPOL.LAYER checks a layer record, sets the layer and writes its headers and tags; RPOL.UNLAYER forgets a
layer that holds no slot and answers −1 for one not loaded; RPOL.CAT loads entries up to the first that fails and answers how
many and why; RPOL.UNCAT forgets an entry that nothing holds, once its copies are evicted. All four trap in a tile that is
not a supervisor. That RPOL.CAT reads its entries as loads of the issuing core, as R436 says of RPOL.LAYER, is log 44. -/
def Obligations.LayersAndCatalogue : Prop :=
  ∀ (o : Cmd) (s : State) (t : Tile), s.here.tile = some t →
    let k := s.here
    let a := (k.sreg o.a.toNat).toNat
    let n := (k.sreg (o.a.toNat + 1)).toNat
    let answer (u : State) (n : DWord) : Host.Outcome State Fault Refusal := .next (ctlDone u 8 fun k => k.setS o.d.toNat n)
    (t.reg.supv = false → ∀ i ∈ [Instr.rpolLayer o, .rpolUnlayer o, .rpolCat o, .rpolUncat o], fieldsOk .ctl i = true →
      exec i s = settle s.core .ctl (.error (.trap (if i = .rpolCat o ∧ (n = 0 ∨ 4096 < n) then .reservedField
        else if i = .rpolUnlayer o ∧ 2 ^ 22 ≤ a ∨ i = .rpolUncat o ∧ 2 ^ 34 ≤ a then .reservedField else .privilege) 0) s)) ∧
    (t.reg.supv = true →
      (fieldsOk .ctl (.rpolLayer o) = true → a % 128 = 0 → ∀ b u x v, loadRange s.core a 128 s = .ok b u → loadLayer b u = .ok x v →
        let key := layerKeyOf (ofBytes (b.take 4))
        (∀ f, x = .error f → exec (.rpolLayer o) s = answer v (0 - BitVec.ofNat 64 f)) ∧
        (∀ l w, x = .ok l →
          initLayer key l { v with cd := { v.cd with
              layers := SMap.put v.cd.layers key l
              tags := v.cd.tags.map fun e => if keyLayer e.2.key = key then (e.1, { e.2 with times := [], acted := none, stuck := none, lost := false }) else e } }
            = .ok () w → exec (.rpolLayer o) s = answer w 0)) ∧
      (fieldsOk .ctl (.rpolUnlayer o) = true → a < 2 ^ 22 →
        let key := layerKeyOf a
        (SMap.find s.cd.layers key = none → exec (.rpolUnlayer o) s = answer s (0 - 1)) ∧
        (∀ l b u, SMap.find s.cd.layers key = some l → layerBusy l s = .ok b u → exec (.rpolUnlayer o) s =
          if b then answer u (0 - 6) else answer { u with cd := { u.cd with layers := SMap.erase u.cd.layers key } } 0)) ∧
      (fieldsOk .ctl (.rpolCat o) = true → 0 < n → n ≤ 4096 → a % 64 = 0 → ∀ b u, loadRange s.core a (64 * n) s = .ok b u →
        let r := loadCats (pieces 64 n b) u
        (∀ e ∈ (pieces 64 n b).take r.1, ∀ i, findTag u (ofBytes (e.take 8)) = some i →
          fetching u i false = false ∧ fetching u i true = false) →
        exec (.rpolCat o) s = answer r.2.2 (BitVec.ofNat 64 (r.1 + r.2.1 * 2 ^ 32))) ∧
      (fieldsOk .ctl (.rpolUncat o) = true → a < 2 ^ 34 →
        (findTag s a = none ∨ layerOf s a = none → exec (.rpolUncat o) s = answer s (0 - 1)) ∧
        (∀ i l, findTag s a = some i → layerOf s a = some l → fetching s i false = false → fetching s i true = false →
          let e := s.tag i
          let free (u : State) : Prop :=
            (0 < e.prim.pins ∨ 0 < e.sec.pins → exec (.rpolUncat o) s = answer u (0 - 5)) ∧
            (e.prim.pins = 0 → e.sec.pins = 0 →
              (e.prim.run = 0 → e.sec.run = 0 →
                exec (.rpolUncat o) s = answer { u with cd := { u.cd with tags := SMap.erase u.cd.tags i } } 0) ∧
              (e.prim.run ≠ 0 ∨ e.sec.run ≠ 0 → ∃ v, exec (.rpolUncat o) s = .next v ∧ v.here.ctl.run = .stalled .object))
          (bowlOf s i = none → free s) ∧
          (∀ b h u, bowlOf s i = some b → b.read s = .ok h u →
            (h.next ≠ h.head → exec (.rpolUncat o) s = answer u (0 - 5)) ∧ (h.next = h.head → free u)))))

/-- R414–R424, R427, R431–R433: a copy that has come is taken; at its deadline a saucer's slots make a tile, and a tile's nest is
enqueued when there is room; a retired tile's slots are freed; the absence policy acts; a fetch from a flash record starts
where there is room, a Read's bytes land in the staging area, an error or a time-out makes the fetch fail, a valid image
becomes resident and a bad one does not, and a failed fetch marks its source and is asked for again; the steeper's scoring
starts a fetch ahead of time for a chosen key that is absent and fits, and ends. A key that has lost its source is handled
without the threshold (R427). That the record of a bad image has address 0 is log 12; that nothing is evicted unless the new
copy then fits, and that the image's pieces which have not landed do so at completion, is log 43. -/
def Obligations.CaddyEventsComplete : Prop :=
  ∀ (s : State),
    let e := s.ev
    let n := e.idx
    (∀ m x u, s.cd.arrivals[n]? = some m → (∀ y ∈ s.cd.arrivals.take n, ¬(y.srcDev = m.srcDev ∧ y.srcCluster = m.srcCluster)) →
      unitTry (arriveCopy m) s = .ok (.ok x) u →
      exec .saucerCopyArrive s = .next { u with cd := { u.cd with arrivals := u.cd.arrivals.eraseIdx n } }) ∧
    (∀ b c r u, bowlOf s e.num = some b → ownCopy s e.num = some c →
      waitedSlot s e.num (if b.l.flush = 0 then 18000 else b.l.flush) none = true →
      decideTile b e.num c.1 howOwn c.2 s = .ok r u → exec .flushDeadline s = .next u) ∧
    (∀ b u, bowlOf s e.num = some b → (s.tag e.num).prim.run ≠ 2 →
      (let lost := lostKey s b && !(s.tag e.num).lost
       waitedSlot s e.num (if lost then 0 else absThresh (effRegion s b.l.region)) (s.tag e.num).acted = true) →
      absencePolicy b (lostKey s b) s = .ok () u →
      exec .absenceThreshold s = .next u) ∧
    (∀ x u, s.cd.tiles[n]? = some x →
      let s' := { s with cd := { s.cd with tiles := s.cd.tiles.eraseIdx n } }
      (x.nid = none → x.gone = none → (freeSlot s).isSome = true → enqueueTile x s' = .ok () u →
        (∀ y ∈ u.cd.tags, y.2.stuck = none) → exec .expertEnqueueRetry s = .next u) ∧
      (∀ c, x.gone = some c → freeTile x c s' = .ok () u → (∀ y ∈ u.cd.tags, y.2.stuck = none) →
        exec .expertTileRetire s = .next u)) ∧
    (∀ layer x, s.cd.steep = some (layer, x) →
      let ends : Prop := exec .steeperScore s = .next { s with cd := { s.cd with steep := none } }
      ((∀ l, SMap.find s.cd.layers layer = some l → l.nxv = false) → ends) ∧
      (∀ from_ l, SMap.find s.cd.layers layer = some from_ → from_.nxv = true →
        let g := s.gate from_.nxCluster from_.nxSet
        let r := effRegion s l.region
        let key (y : Nat) : Nat := g.layer * 2 ^ 12 + g.expert y
        let ch := (gateChoice g x (Nat.min (if preKp r = 0 then g.k else preKp r) g.e)).1
        SMap.find s.cd.layers g.layer = some l → g.run = 2 →
        ((∀ y ∈ ch, ∀ i, findTag s (key y) = some i → (s.tag i).prim.run ≠ 0 ∨ sourceOf s (s.tag i) l.pp = none) → ends) ∧
        (∀ y i p, ch = [y] → g.expert y < 2 ^ 12 → findTag s (key y) = some i → (s.tag i).prim.run = 0 →
          sourceOf s (s.tag i) l.pp = some true → (∀ f ∈ s.cd.fetches, couldStart s f = false) →
          (s.cd.fetches.filter fun f => f.steeper && f.region = l.region).length < preOut r →
          aheadExtents s l.region + extentsOf (s.tag i) ≤ preXsb r → inFlightFetches s < 64 →
          placeFor s l (extentsOf (s.tag i)) = some p →
          ∃ u, exec .steeperScore s = .next u ∧ u.cd.steep = none ∧ u.m = s.m ∧
            (u.tag i).prim = { (s.tag i).prim with run := 1, region := l.region, slice := p.1, ext := p.2, n := extentsOf (s.tag i) } ∧
            u.cd.hints = (s.cd.hints + 1) % 2 ^ 32 ∧
            ∃ f, u.cd.fetches = s.cd.fetches ++ [f] ∧ f.tag = i ∧ f.sec = false ∧ f.steeper = true ∧ f.started = true))) ∧
    (∀ f, s.cd.fetches[n]? = some f →
      let g := s.tag f.tag
      (∀ l, f.started = false → f.steeper = false → inFlightFetches s < 64 → layerOf s g.key = some l →
        sourceOf s g f.fmt = some true →
        (∀ p, placeFor s l (extentsOf g) = some p → exec .fetchStart s = .next (beginFetch n f l true p s)) ∧
        (placeFor s l (extentsOf g) = none →
          (∀ v, roomFor s l (extentsOf g) = some v →
            exec .fetchStart s = .next (v.foldl (fun s x => evict x.1 x.2 s) s)) ∧
          (roomFor s l (extentsOf g) = none → exec .fetchStart s = .next s))) ∧
      (f.started = true → f.failed = false → f.cmds = [] → f.flash = true → e.flag = false →
        let stored := storedImage (flashCmp g) g.imgb ((f.data.map (·.2)).flatten)
        let piece (p : Nat) := (SMap.find f.landed p).getD ((stored.bytes.drop (4096 * p)).take 4096)
        let b := { stored with bytes := ((upto 0 ((stored.bytes.length + 4095) / 4096)).map piece).flatten }
        let a := (g.copyAt f.sec).addr
        let rest := (upto 0 ((b.bytes.length + 4095) / 4096)).filter fun p => (SMap.find f.landed p).isNone
        let u := countBlocks a b (landPieces n a b.bytes rest s)
        (b.bad = true ∨ imageValid g.key f.fmt g.imgb b.bytes = false →
          exec .fetchComplete s = .next (updFetch n (fun f => { f with failed := true }) u)) ∧
        (b.bad = false → imageValid g.key f.fmt g.imgb b.bytes = true → bowlOf s f.tag = none →
          ∃ v, exec .fetchComplete s = .next v ∧
            ((v.tag f.tag).copyAt f.sec).run = 2 ∧ v.cd.fetches = u.cd.fetches.eraseIdx n ∧ v.m = u.m)) ∧
      (f.started = true → f.failed = true → f.cmds = [] → ∀ u l b,
        postEvent f.region .expertImageBad 0 (dropFetch n ((toAbsent f.tag f.sec s).updTag f.tag fun e =>
          if f.flash then { e with badf := true } else { e with badd := true })) = .ok () u →
        layerOf u (u.tag f.tag).key = some l → sourceOf u (u.tag f.tag) f.fmt = some b →
        exec .fetchFail s = .next (askFetch l f.tag f.sec f.steeper u)) ∧
      (∀ c, f.cmds.find? (fun c => c.off = e.num) = some c →
        (e.flag = true → exec .nvmeCompletion s = .next (flashError (flashPort g)
          (updFetch n (fun f => { f with failed := true, cmds := f.cmds.filter (· ≠ c) }) s))) ∧
        (let a := stageAddr s (flashPort g) c.off
         e.flag = false → e.bytes.length = c.len → a + c.len ≤ Config.memBytes → ∃ u, exec .nvmeCompletion s = .next u ∧
          u.m.readN a c.len = e.bytes ∧ (∀ x, x < a ∨ a + c.len ≤ x → u.m.byte x = s.m.byte x))) ∧
      (let late := f.cmds.filter fun c => decide (c.since + 1800000 ≤ s.cycle)
       late ≠ [] → ∃ u, exec .nvmeTimeout s = .next u ∧ u.m = s.m ∧
         u.cd.fetches = (updFetch n (fun f => { f with failed := true, cmds := f.cmds.filter fun c => !late.contains c }) s).cd.fetches ∧
         SMap.get 0 u.cd.errors (flashPort g) = (SMap.get 0 s.cd.errors (flashPort g) + late.length) % 2 ^ 32))

/-- R446–R458, R462: what the commands of the sequence engine do to a context that their handle names, each on the memory that it
can read and write; every one counts itself, writes Sd and the predicate and goes on; a failure answers minus its number. That a
failing command counts itself too is log 45. -/
def Obligations.SequenceCommandsComplete : Prop :=
  ∀ (o : Cmd) (s : State) (t : Tile), s.here.tile = some t →
    let k := s.here
    let r (n : Nat) : DWord := k.sreg (o.a.toNat + n)
    let x := (r 1).toNat
    let done (u : State) (p : Nat) (v : DWord) (b : Bool) : Host.Outcome State Fault Refusal :=
      .next (ctlDone { u with eng := { u.eng with commands := (u.eng.commands + 1) % 2 ^ 32 } } 8
        fun k => (k.setS o.d.toNat v).setP p b)
    let num (n : Nat) : DWord := BitVec.ofNat 64 n
    let off := (r 2).toNat
    let inSp (n : Nat) : Prop := n = 0 ∨ off + n ≤ t.reg.spTile ∧ off + n ≤ Config.scratchBytes
    (fieldsOk .ctl (.sqopen o) = true → (r 0).toNat % 256 = 0 → ∀ b s' y u, loadRange s.core (r 0).toNat 256 s = .ok b s' →
      openCtx t.reg.id b s' = .ok y u →
      (∀ v, y = .ok v → exec (.sqopen o) s = done u 0 (num v.1) v.2) ∧ (∀ n, y = .error n → exec (.sqopen o) s = done u 0 (0 - num n) false)) ∧
    ((r 0).toNat < 2 ^ 16 →
      (∀ i ∈ [Instr.sqopenClose o, .sqcurRead o, .sqcurPlay o, .sqcurKv o, .sqtrunc o, .sqckpt o], fieldsOk .ctl i = true →
        (i ≠ .sqopenClose o → x < 2 ^ 24) → ∀ n, namedCtx s t (r 0).toNat = .error n → exec i s = done s 0 (0 - num n) false) ∧
      (∀ i, namedCtx s t (r 0).toNat = .ok i →
        let c := s.ctxAt i
        (fieldsOk .ctl (.sqopenClose o) = true → ∀ c' u, freePages c 0 s = .ok c' u →
          exec (.sqopenClose o) s = done (u.setCtx i { inc := c.inc }) 0 0 true) ∧
        (x < 2 ^ 24 →
          (fieldsOk .ctl (.sqcurRead o) = true → exec (.sqcurRead o) s = done s 0 (num (curItem c (o.imm.toNat % 8))) true) ∧
          (fieldsOk .ctl (.sqcurPlay o) = true →
            (x < c.p ∨ c.g < x → exec (.sqcurPlay o) s = done s 0 (0 - 7) false) ∧
            (c.p ≤ x → x ≤ c.g → exec (.sqcurPlay o) s = done (s.setCtx i { c with p := x }) 0 (num x) true)) ∧
          (fieldsOk .ctl (.sqcurKv o) = true →
            (x < c.kvend ∨ c.g < x → exec (.sqcurKv o) s = done s 0 (0 - 7) false) ∧
            (c.kvend ≤ x → x ≤ c.g → exec (.sqcurKv o) s = done (s.setCtx i { c with kvend := x }) 0 (num x) true)) ∧
          (fieldsOk .ctl (.sqtrunc o) = true →
            (x < c.p ∨ c.g < x → exec (.sqtrunc o) s = done s 0 (0 - 7) false) ∧
            (c.p ≤ x → x ≤ c.g → ∀ c' u, applyFrame c x [] s = .ok c' u →
              exec (.sqtrunc o) s = done (countFrame i c' false u) 0 (num c'.frameWord) true)) ∧
          (fieldsOk .ctl (.sqckpt o) = true →
            (c.rsb = 0 → exec (.sqckpt o) s = done s 0 (0 - 6) false) ∧
            (c.rsb ≠ 0 → x % 16 ≠ 0 ∨ x < 16 ∨ c.g < x ∨ off % 256 ≠ 0 → exec (.sqckpt o) s = done s 0 (0 - 7) false) ∧
            (c.rsb ≠ 0 → x % 16 = 0 → 16 ≤ x → x ≤ c.g → off % 256 = 0 →
              let e := x / 16 % c.nsnap
              ∀ s' u, sqCopy c.region off (c.snaps + e * c.rsb) c.rsb s = .ok () s' →
                sqWrite c.region (c.stags + 8 * e) (bytesOf 8 (2 ^ 63 + x)) s' = .ok () u →
                exec (.sqckpt o) s = done (u.setCtx i { c with tags := SMap.put c.tags e x }) 0 (num x) true)))) ∧
      (fieldsOk .ctl (.sqframe o) = true → x / 2 ^ 24 % 2 ^ 8 = 0 → x < 2 ^ 45 → off < 2 ^ 21 → off % 4 = 0 →
        let n := x / 2 ^ 32
        let p := o.f8.toNat % 32
        inSp (4 * n) → ∀ toks s' i, sqOperand s.core off (4 * n) s = .ok toks s' → namedCtx s' t (r 0).toNat = .ok i →
        (s'.coreOf s.core).tile = some t →
        let c := s'.ctxAt i
        let late := decide (x % 2 ^ 24 < c.p)
        let a := max (x % 2 ^ 24) c.p
        (late = true → (effRegion s' c.region).late = true →
          exec (.sqframe o) s = settle s.core .ctl (.error (.trap .lateFrame 0) s')) ∧
        (late = false ∨ (effRegion s' c.region).late = false →
          (4096 < n ∨ c.maxpos < min a c.g + n → exec (.sqframe o) s = done s' p (0 - 7) false) ∧
          (n ≤ 4096 → min a c.g + n ≤ c.maxpos → ∀ c' u, applyFrame c a toks s' = .ok c' u →
            exec (.sqframe o) s = done (countFrame i c' late u) p (num c'.frameWord) late))) ∧
      (fieldsOk .ctl (.sqspec o) = true → x < 2 ^ 7 → off < 2 ^ 21 → inSp x →
        ∀ l s' i, sqOperand s.core off x s = .ok l s' → namedCtx s' t (r 0).toNat = .ok i → (s'.coreOf s.core).tile = some t →
        let c := s'.ctxAt i
        let parents := l.map (·.toNat)
        (0 < c.w → c.m < x → exec (.sqspec o) s = settle s.core .ctl (.error (.trap .windowMargin 0) s')) ∧
        (c.w = 0 ∨ x ≤ c.m →
          (c.kvend ≠ c.g → exec (.sqspec o) s = done s' 0 (0 - 6) false) ∧
          (c.kvend = c.g → x ≤ 64 → c.g + x ≤ c.maxpos → parentsOk parents = true →
            let qs := (upto (c.g / 64) ((c.g + x + 63) / 64 - c.g / 64)).filter fun q => (SMap.find c.pages q).isNone
            ∀ need s1 free s2, pagesNeeded c qs s' = .ok need s1 → attemptUndo (sqNat c.region c.pool 4) s1 = .ok free s2 →
              ((∃ n, free = .ok n ∧ n < need) → exec (.sqspec o) s = done s2 0 (0 - 4) false) ∧
              ((∀ n, free = .ok n → need ≤ n) → ∀ s3 u, (each qs fun q => each c.full fun b => allocPage c q b) s2 = .ok () s3 →
                sqWrite c.region c.tree (treeArea parents) s3 = .ok () u →
                exec (.sqspec o) s = done (u.setCtx i { c with pages := qs.foldl (fun m q => SMap.put m q true) c.pages,
                                                               parents := parents, s := c.g + x, hw := max c.hw (c.g + x) })
                  0 (num (c.g + c.gen * 2 ^ 32)) true)))) ∧
      (fieldsOk .ctl (.sqcmit o) = true → x / 2 ^ 24 % 2 ^ 8 = 0 → x < 2 ^ 39 → off < 2 ^ 21 → off % 8 = 0 →
        let m := x / 2 ^ 32
        let p := o.f8.toNat % 32
        inSp (8 * m) → ∀ b s' i, sqOperand s.core off (8 * m) s = .ok b s' → namedCtx s' t (r 0).toNat = .ok i →
        (s'.coreOf s.core).tile = some t →
        let c := s'.ctxAt i
        let l := (pieces 8 m b).map pathEntry
        let nodes := l.map fun e => e.2.1
        let ok : Prop := 1 ≤ m ∧ m ≤ 64 ∧ m ≤ c.s - c.g ∧ pathOk c.parents nodes = true ∧ ∀ e ∈ l, e.2.2 = 0
        (x % 2 ^ 24 ≠ c.gen → exec (.sqcmit o) s =
          done { s' with eng := { s'.eng with stale := (s'.eng.stale + 1) % 2 ^ 16 } } p (0 - 8) false) ∧
        (x % 2 ^ 24 = c.gen → ¬ok → exec (.sqcmit o) s = done s' p (0 - 7) false) ∧
        (x % 2 ^ 24 = c.gen → ok → ∀ s1 u, relocate c nodes s' = .ok () s1 →
          sqWrite c.region (c.tokens + 4 * c.g) ((l.map fun e => bytesOf 4 e.1).flatten) s1 = .ok () u →
          let g := c.g + m
          exec (.sqcmit o) s =
            done (u.setCtx i { c with g := g, kvend := g, s := g, wbase := g - c.w, parents := [] }) p (num g) true))) ∧
    (let i := s.eng.sel
     let c := s.ctxAt i
     let v := s.ev.value.toNat % 2 ^ 24
     (c.isOpen = true → c.p ≤ v → v ≤ c.g → exec .sqCplayWrite s = .next (s.setCtx i { c with p := v })) ∧
     (¬(c.isOpen = true ∧ c.p ≤ v ∧ v ≤ c.g) → exec .sqCplayWrite s = .next s))

/-- R480, R481: PREL and PSTAT answer −1 in a region outside the port's chain, −2 for a port that is not enabled; PREL answers
−3 for more slots than are delivered, and otherwise empties the tags of the oldest, advances HEAD, advertises and answers
LIMIT; PSTAT answers the item asked for. -/
def Sys2Proof.Parts.PortCommands : Prop :=
  ∀ (o : Cmd) (s : State) (t : Tile), s.here.tile = some t →
    let i := o.imm.toNat % 4
    let p := s.port i
    let n := (s.here.sreg o.a.toNat).toNat
    let answer (u : State) (v : DWord) : Host.Outcome State Fault Refusal := .next (ctlDone u 8 fun k => k.setS o.d.toNat v)
    let mine : Prop := t.reg.id ∈ (effRegion s p.region).chain
    (∀ c ∈ [Instr.prel o, .pstat o], fieldsOk .ctl c = true → (c = .prel o → n < 2 ^ 11) →
      (¬mine → exec c s = answer s (0 - 1)) ∧ (mine → p.en = false → exec c s = answer s (0 - 2))) ∧
    (fieldsOk .ctl (.prel o) = true → n < 2 ^ 11 → mine → p.en = true →
      (p.used < n → exec (.prel o) s = answer s (0 - 3)) ∧
      (n ≤ p.used → ∀ u, (each (upto p.head n) fun h => writeTag p (h % 2 ^ 32 % p.n) 0 0) s = .ok () u →
        let w := u.updPort i fun p =>
          let p := { p with head := (p.head + n) % 2 ^ 32 }
          if n = 0 then p else { p with sent := p.sent ++ [advertFrame p] }
        exec (.prel o) s = answer w (BitVec.ofNat 64 (w.port i).limit))) ∧
    (fieldsOk .ctl (.pstat o) = true → mine → p.en = true → exec (.pstat o) s = answer s (BitVec.ofNat 64
      (match o.imm.toNat / 16 % 16 with
        | 0 => p.deliv | 1 => p.head | 2 => (p.lastSeq + 1 + p.free) % 2 ^ 32 | 3 => p.noslot | 4 => p.bad | _ => p.link + 4)))

/-- R465–R479: a frame with a wrong FCS, a bad header, an old number or too long an output line counts in BAD; a line without a
free slot counts in NOSLOT; any other fills the next slot with its header and the whisk's output, and its tag is written; an
advertisement is sent every period and when a port begins to accept; a write of PT_CFG enables a port that may be, and
disables one; PT_WLOAD loads cells that are legal. That a port which is enabled already starts anew, that the periodic
advertisements begin with the enable, and that a line is delivered in one step, is log 24; that the scheduler keeps the
block of a port's region from its enable on, log 57. -/
def Sys2Proof.Parts.PortEvents : Prop :=
  ∀ (s : State), s.ev.idx < 4 →
    let i := s.ev.idx
    let v := s.ev.value
    let p0 := s.port i
    (p0.en = true → p0.link = 2 → forPort p0 s.ev.bytes = true →
      let l := s.ev.bytes
      let u := startAccepting i s
      let p := u.port i
      let pay := (l.take (l.length - 4)).drop 14
      let bad : Prop := exec .lineFrameReceive s = .next (u.updPort i fun p => { p with bad := (p.bad + 1) % 2 ^ 32 })
      (frameSound l = false ∨ lineHeader pay = none → bad) ∧
      (∀ h, frameSound l = true → lineHeader pay = some h →
        (seqAfter h.seq p.lastSeq = false ∨ p.slotb < 64 + p.outBytes h → bad) ∧
        (seqAfter h.seq p.lastSeq = true → 64 + p.outBytes h ≤ p.slotb →
          (p.accepts u = false ∨ p.free = 0 → p.pend = true ∨ (effRegion u p.region).overrun = false →
            exec .lineFrameReceive s = .next (u.updPort i fun p => { p with noslot := (p.noslot + 1) % 2 ^ 32, pend := true })) ∧
          (p.accepts u = true → p.free ≠ 0 → (u.coreOf p.core).tile = none →
            let slot := p.deliv % p.n
            let a := p.rbase + slot * p.slotb
            let filled := (u.updCore p.core fun k =>
                (k.portWrite (a + 0x40) (p.output h (pay.drop 32))).portWrite a (p.slotHeader h u.cycle)).updPort i fun x =>
              { x with
                pend := false
                lastSeq := h.seq
                heldArv := if p.arven then (p.slotBits slot).foldl (fun y b => y ||| (1 : DWord) <<< b) x.heldArv else x.heldArv
                heldSem := if p.semen then x.heldSem + 1 else x.heldSem }
            ∀ w, writeTag p slot 2 (64 + p.outBytes h) filled = .ok () w →
              exec .lineFrameReceive s = .next (w.updPort i fun p => { p with deliv := (p.deliv + 1) % 2 ^ 32 }))))) ∧
    (p0.en = true → p0.advper ≠ 0 → p0.advSince + p0.advper * 1024 ≤ s.cycle →
      ∃ u, exec .advertisementTimer s = .next u ∧ (u.port i).sent = p0.sent ++ [advertFrame { p0 with
        advSince := p0.advSince + p0.advper * 1024 }] ∧ (u.port i).advSince = p0.advSince + p0.advper * 1024) ∧
    (∃ u, exec .portAcceptStart s = .next u ∧
      (p0.en = true → p0.owed = true → p0.accepts s = true → (u.port i).sent = p0.sent ++ [advertFrame { p0 with owed := false }]) ∧
      (p0.owed = false → u = s)) ∧
    (let kept : BitVec 64 := if p0.en then p0.cfg else v &&& 0x4FFF_FFFF_8000_000F
     let u := s.updPort i fun p => { p with cfg := kept }
     let w := s.updPort i fun p => { p with cfg := kept, heldSem := 0, heldArv := 0 }
     (v.getLsbD 63 = true →
       (accepted s 8 = false → exec .portEnable s = .next u) ∧
       (accepted s 8 = true →
         let p := w.port i
         let w := keepBlocks p.region w
         (mayEnable w i p = false → exec .portEnable s = .next (w.updPort i fun p => { p with cfgErr := true })) ∧
         (mayEnable w i p = true → ∀ x, (each (upto 0 p.n) fun t => writeTag p t 0 0) w = .ok () x →
           exec .portEnable s = .next (startAccepting i (watchRing p.core (x.updPort i fun p => { p.setEn true with
             deliv := 0, head := 0, lastSeq := (p.e0.toNat + 2 ^ 32 - 1) % 2 ^ 32, pend := false, owed := true
             advSince := x.cycle })))))) ∧
     (v.getLsbD 63 = false →
       (accepted s 8 = false → exec .portDisable s = .next u) ∧
       (accepted s 8 = true → exec .portDisable s = .next (w.updPort i fun p => p.setEn false)))) ∧
    (let va := v.toNat / 2 ^ 16 % 2 ^ 40 * 0x1_0000
     let x := (effRegion s p0.region).ctx none
     let legal (cells : List Cell) : Prop := ∀ n c, cells[n]? = some c → cellOk n c = true
     (p0.en = true → exec .whiskLoad s = .next s) ∧
     (p0.en = false → ∀ b u, readAs x va 256 s = .ok b u →
       (v.getLsbD 63 = false →
         (legal (cellsOf b) → exec .whiskLoad s = .next (u.updPort i fun p => { p with cells := some (cellsOf b) })) ∧
         (¬legal (cellsOf b) → exec .whiskLoad s = .next (u.updPort i fun p => { p with cfgErr := true }))) ∧
       (v.getLsbD 63 = true → legal (cellsOf b) → ∀ t0 u0 t1 u1, readAs x (va + 0x1_0000) 0x1_0000 u = .ok t0 u0 →
         readAs x (va + 0x2_0000) 0x1_0000 u0 = .ok t1 u1 →
         exec .whiskLoad s = .next (u1.updPort i fun p => { p with cells := some (cellsOf b), t0 := t0, t1 := t1 }))))

/-- R465–R481: PREL and PSTAT complete with their answers; a frame fills a slot or is counted as bad or without a slot;
advertisements are sent; ports are enabled and disabled and whisks loaded. -/
def Obligations.PortsComplete : Prop := Parts.PortCommands ∧ Parts.PortEvents

/-- R489–R495, R500: an entry that may not be performed completes with its status; a NEST is enqueued with the scheduler, a COPY
begins and lands sector by sector, a COPYIN too, whose key slot must be of the ring's region and whose counter must be
above the last; an ATTEST writes a report while leaves are left. A sector lands where its page may still be written (R39,
R491). The order TDISP, SKIP, BADENT, DENIED in which a refused entry takes its status, and that a destination which may no
longer be written ends the entry with FAULT, is log 27. -/
def Obligations.RingEntriesComplete : Prop :=
  ∀ (s : State),
    (∀ l, nextEntry s s.ev.idx = some l →
      let r := s.ev.idx
      let g := s.ring r
      let n := g.head
      let kind := entKind l
      let taken := s.updRing r fun g => { g with head := (g.head + 1) % 2 ^ 32, ops := g.ops ++ [{ n := n, entry := l }] }
      let reg := effRegion s g.region
      let completes (st res : Nat) (i : Instr) (u : State) : Prop := exec i s = .next (completeEntry r n st res u)
      let event : Instr := if kind = 2 then .ringEntryCopy else if kind = 3 then .ringEntryCopyin
        else if kind = 4 then .ringEntryAttest else .ringEntryNest
      let locked : Prop := s.hl.tdi = .locked ∨ s.hl.tdi = .error
      let skip : Prop := entChain l = true ∧ g.last ≠ 0
      let begins (data : List Byte) (tagOk : Bool) : Prop := ∀ x u, destPlaces reg (entB l) (entLen l) taken = .ok x u →
        (∀ va, x = .error va → completes 19 va event u) ∧
        (∀ places, x = .ok places → places ≠ [] → exec event s = .next (u.updRing r fun g => { g with
          ops := g.ops.map fun (x : RingOp) =>
            if x.n = n then { n := n, entry := l, data := data, tagOk := tagOk, places := places } else x }))
      (s.ev.flag = false ∨ (kind ≠ 2 ∧ kind ≠ 3) →
        (locked → completes 20 0 event taken) ∧
        (¬locked → skip → completes 22 0 event taken) ∧
        (¬locked → ¬skip → entryOk s l = false → completes 16 0 event taken) ∧
        (¬locked → ¬skip → entryOk s l = true →
          (semAllowed s g.region (entSem l) = false →
            completes 2 (if kind = 1 then (resultWord (.error .denied)).toNat else 0) event taken) ∧
          (semAllowed s g.region (entSem l) = true →
            (kind = 1 → reg.valid = true → entA l % 128 = 0 → ∀ b u x w, readAs (reg.ctx none) (entA l) 128 taken = .ok b u →
              enqueue (outsideSubtree reg) (some b) 0 u = .ok x w →
              (∀ nid v, x = .ok nid → entrySem reg.id 0 (entSem l) w = .ok () v → completes 0 nid .ringEntryNest v) ∧
              (∀ e, x = .error e → completes e.num (resultWord (.error e)).toNat .ringEntryNest w)) ∧
            (kind = 2 → begins (hostRead s (entA l) (entLen l)) true) ∧
            (kind = 3 →
              let k := SMap.get {} s.hl.keys (entKey l)
              (k.region ≠ g.region → completes 2 0 .ringEntryCopyin taken) ∧
              (k.region = g.region → k.full = false → completes 16 0 .ringEntryCopyin taken) ∧
              (k.region = g.region → k.full = true → entCtr l ≤ k.last → completes 18 0 .ringEntryCopyin taken) ∧
              (k.region = g.region → k.full = true → k.last < entCtr l →
                let x := gcmOpen (bigBytes 32 k.key.toNat) (bigBytes 4 k.salt.toNat ++ bigBytes 8 (entCtr l)) (part l 0x10 16)
                  (hostRead s (entA l) (entLen l)) (hostRead s (entA l + entLen l) 16)
                begins x.1 x.2)) ∧
            (kind = 4 →
              (32768 ≤ s.hl.q ∨ 1024 ≤ s.hl.reports → completes 21 0 .ringEntryAttest taken) ∧
              (s.hl.q < 32768 → s.hl.reports < 1024 → ∀ u,
                let w := hostWrite (entA l) (reportBytes taken (hostRead taken (entB l) 32)) taken
                entrySem g.region 0 (entSem l) { w with hl := { w.hl with reports := s.hl.reports + 1 } } = .ok () u →
                completes 0 s.hl.reports .ringEntryAttest u)))))) ∧
    (∀ r o i loc u, portTry (destPlace (effRegion s (s.ring r).region) (entB o.entry + 128 * i)) s = .ok (.ok (some loc)) u →
      i + 1 < o.places.length → o.landed = [] → ∃ t, landSector r o i s = .ok () t ∧
        (∀ x, t.m.byte x = (u.m.setBytes ({ o with places := o.places.set i loc }.sector i)).byte x) ∧
        (entKind o.entry = 3 → loc / 128 ∈ t.m.poison)) ∧
    (∀ r o i u, portTry (destPlace (effRegion s (s.ring r).region) (entB o.entry + 128 * i)) s = .ok (.ok none) u →
      landSector r o i s = .ok () (completeEntry r o.n 19 (entB o.entry + 128 * i) u)) ∧
    (∀ o u, s.ev.flag = true →
      let land (kind : Nat) (i : Instr) : Prop :=
        (s.ring s.ev.idx).ops.find? (fun o => o.n = s.ev.nums.headD 0 && o.result.isNone && entKind o.entry = kind) = some o →
        s.ev.num < o.places.length → s.ev.num ∉ o.landed → landSector s.ev.idx o s.ev.num s = .ok () u → exec i s = .next u
      land 2 .ringEntryCopy ∧ land 3 .ringEntryCopyin)

/-- R486–R490, R494, R497–R503: a cold reset and a loss of power leave the reset state but for the host's memory and the
fuses (that memory is then empty is the choice of logs 4 and 48); a sensor that reads at or above TRIP eight times running
trips at once, and a trip stops the device; TDISP locks, starts and stops the interface; a key is installed while the
firmware runs; the staging window takes bytes in state 0; GO verifies the image, and then starts its firmware or answers
the error (that GO in state 3 only begins again, and that verification takes one step, is log 28); features are accepted
once; rings are enabled where they may be; a doorbell is taken or counted as bad; the aperture reads and writes memory,
and an access that meets poison brings nothing (log 29). -/
def Obligations.HostEventsComplete : Prop :=
  ∀ (s : State),
    let e := s.ev
    let h := s.hl
    let v := e.value
    let hl (f : HostLink → HostLink) : Host.Outcome State Fault Refusal := .next { s with hl := f s.hl }
    let lost : State := { State.reset with
      agenda := s.agenda, drawn := s.drawn, fuseQ := s.fuseQ, m := { State.reset.m with remote := s.m.remote }
      hl := { State.reset.hl with q := s.fuseQ } }
    exec .coldReset s = .next lost ∧
    (e.flag = false → exec .powerLoss s = .next { lost with off := true }) ∧
    (let trips (i : Instr) (temp : Nat) : Prop := ∃ u, exec i s = .next u ∧ u.off = true ∧ u.hl.tripped = true ∧
        u.hl.thermtrip = true ∧ u.hl.temp = temp ∧ u.cores = [] ∧ u.m = { State.reset.m with remote := s.m.remote } ∧
        u.hl.irqs = if h.link = 2 then [0] else []
     (s.off = false → (∃ x ∈ h.hot, 8 ≤ x.2) → trips .thermalTrip h.temp) ∧
     (e.nums.length = 16 →
       let temp := (e.nums.foldl max 0) % 2 ^ 16
       let count (n x : Nat) : Nat := if max 340 (min h.trip 500) ≤ x then SMap.get 0 h.hot n + 1 else 0
       (s.off = false → (∃ n x, e.nums[n]? = some x ∧ 8 ≤ count n x) → trips .thermalSensorReading temp) ∧
       (s.off = true ∨ (∀ n x, e.nums[n]? = some x → count n x < 8) → ∃ u, exec .thermalSensorReading s = .next u ∧
         u.hl.temp = temp ∧ u.m = s.m ∧ u.cores = s.cores ∧ ∀ n x, e.nums[n]? = some x → SMap.get 0 u.hl.hot n = count n x))) ∧
    (h.tdi = .unlocked → exec .tdispLockInterface s = hl fun h => { h with tdi := .locked }) ∧
    (h.tdi = .locked → exec .tdispStartInterface s = hl fun h => { h with tdi := .run }) ∧
    (∃ u, exec .tdispStopInterface s = .next u ∧ u.hl.tdi = .unlocked ∧ u.hl.keys = [] ∧ ∀ r, (u.ring r).en = false) ∧
    (s.rv.on = false → exec .doeMailboxMessage s = .next s) ∧
    (∀ slot region key salt, e.doe = .copyInKey slot region key salt → s.rv.on = true → slot < 64 → exec .doeMailboxMessage s =
      hl fun h => { h with keys := SMap.put h.keys slot { full := true, key := key, salt := salt, region := region.toNat } }) ∧
    (barAllowed s e.flag = true →
      (h.bootState = 0 → e.num + e.bytes.length ≤ 0x10_0000 → ∃ u, exec .bootStagingWrite s = .next u ∧
        (∀ n b, e.bytes[n]? = some b → SMap.get 0 u.hl.staging (e.num + n) = b) ∧
        ∀ a, a < e.num ∨ e.num + e.bytes.length ≤ a → SMap.get 0 u.hl.staging a = SMap.get 0 h.staging a) ∧
      (v.getLsbD 63 = true →
        let len := v.toNat % 2 ^ 21
        (h.bootState = 3 → exec .bootGo s = hl fun h => { h with bootLen := len, bootState := 0, bootErr := 0 }) ∧
        (h.bootState ≠ 0 → h.bootState ≠ 3 → exec .bootGo s = hl fun h => { h with bootLen := len }) ∧
        (h.bootState = 0 →
          (∀ n, verifyImage (stagedImage s len) = .error n →
            exec .bootGo s = hl fun h => { h with bootLen := len, bootState := 3, bootErr := n, staging := [] }) ∧
          (∀ m, verifyImage (stagedImage s len) = .ok m → ∃ u, exec .bootGo s = .next u ∧ u.hl.bootState = 2 ∧ u.hl.bootErr = 0 ∧
            u.hl.svn = m.svn ∧ u.hl.digest = sha256 m.signed ∧ u.hl.irqs = h.irqs ++ [0] ∧ u.rv.on = true ∧
            u.rv.pc = BitVec.ofNat 64 m.entry ∧ (h.q < 32768 → u.fuseQ = h.q + 1)))) ∧
      (h.fixed = true → exec .featureAccept s = .next s) ∧
      (h.fixed = false → h.tdi = .unlocked → exec .featureAccept s =
        hl fun h => { h with facc0 := h.facc0 &&& BitVec.ofNat 64 offered, facc1 := 0, fixed := true }) ∧
      (v.getLsbD 63 = true → h.tdi = .unlocked →
        let r := s.ring h.rsel
        let logn := v.toNat / 2 ^ 32 % 2 ^ 5
        let new := { r with region := v.toNat / 2 ^ 48 % 2 ^ 12, logn := logn }
        let ok : Prop := accepted s 0 = true ∧ 4 ≤ logn ∧ logn ≤ 16
        (ok → exec .ringEnable s =
          .next (keepBlocks new.region (s.updRing h.rsel fun _ =>
            { new with en := true, head := 0, tail := 0, ops := [], last := 0 }))) ∧
        (¬ok → ∃ u, exec .ringEnable s = .next u ∧ u.ring h.rsel = { new with en := false } ∧ u.hl.cfgErr = true)) ∧
      (e.idx < 16 → (s.ring e.idx).en = true →
        let r := s.ring e.idx
        let new := v.toNat % 2 ^ 32
        (2 ^ r.logn < (new + 2 ^ 32 - r.head) % 2 ^ 32 →
          exec .ringDoorbell s = hl fun h => { h with badDb := (h.badDb + 1) % 2 ^ 32 }) ∧
        ((new + 2 ^ 32 - r.head) % 2 ^ 32 ≤ 2 ^ r.logn → ∃ u, exec .ringDoorbell s = .next u ∧
          u.ring e.idx = { r with tail := new } ∧ u.sv.ipend = s.sv.ipend ||| 2)) ∧
      (let a := h.ap * 2 ^ 32 + e.num
       (e.bytes ≠ [] → e.num + e.bytes.length ≤ 2 ^ 32 → ∃ u, exec .apertureAccess s = .next u ∧
         u.m.readN a e.bytes.length = e.bytes ∧ ∀ x, x < a ∨ a + e.bytes.length ≤ x → u.m.byte x = s.m.byte x) ∧
       (e.bytes = [] → e.num + e.idx ≤ 2 ^ 32 →
         ((∀ p ∈ s.m.poison, p < a / 128 ∨ (a + e.idx + 127) / 128 ≤ p) →
           exec .apertureAccess s = hl fun h => { h with answer := s.m.readN a e.idx }) ∧
         ((∃ p ∈ s.m.poison, a / 128 ≤ p ∧ p < (a + e.idx + 127) / 128) →
           exec .apertureAccess s = hl fun h => { h with answer := [] }))))

/-- R504–R507: the samovar takes a pending interrupt that is enabled and otherwise runs the instruction at its program counter:
register arithmetic writes rd and goes on, counted once it has executed; an address outside the instruction memory faults,
a word that is no instruction traps with it. In WFI it waits. The values of mtval, the vectored entry and fetching from the
instruction memory alone are log 30's (PRESUMED). -/
def Obligations.SamovarExecutes : Prop :=
  ∀ (s : State), s.rv.on = true → s.off = false →
    let r := s.rv
    let pending : Prop := meip s = true ∧ r.meie = true
    let runs (f : Riscv → Riscv) : Prop := exec .samovarInstruction s = .next { s with rv := f { r with waiting := false } }
    let traps (cause : Nat) (tval pc : DWord) : Prop := runs fun r =>
      { r with mepc := r.pc, mcause := BitVec.ofNat 64 cause, mtval := tval, mpie := r.mie, mie := false, pc := pc }
    let base := r.mtvec &&& ~~~3
    (r.waiting = true → ¬pending → exec .samovarInstruction s = .next s) ∧
    (pending → r.mie = true → traps (2 ^ 63 + 11) 0 (if r.mtvec.getLsbD 0 then base + 44 else base)) ∧
    (r.waiting = false ∨ pending → ¬(pending ∧ r.mie = true) →
      (∀ a, rvFetch s = .error a → traps 1 a base) ∧
      (∀ w n, rvFetch s = .ok (w, n) →
        let i := if n = 2 then decode16 w else decode32 w
        (i = none → traps 2 (BitVec.ofNat 64 w) base) ∧
        (∀ f rd rs1 rs2, i = some (.op f false rd rs1 rs2) → runs fun r => { r with
          minstret := if r.inhibit.getLsbD 2 then r.minstret else r.minstret + 1
          x := if rd = 0 then r.x else SMap.put r.x rd (alu64 f (r.reg rs1) (r.reg rs2))
          pc := r.pc + BitVec.ofNat 64 n })))
end

