-- ==== Sys2Proof/Laws/Map.lean ====
section
/-! SUPPORT. What the operations on maps do, for every list of entries, sorted or not. -/

namespace Sys2Proof.Laws


variable {α : Type}

theorem get_eq_find (d : α) (m : SMap α) (k : Nat) : SMap.get d m k = (SMap.find m k).getD d := by
  induction m with
  | nil => rfl
  | cons e r ih => obtain ⟨j, w⟩ := e; simp only [SMap.get, SMap.find]; split <;> simp_all

@[simp] theorem find_nil (k : Nat) : SMap.find ([] : SMap α) k = none := rfl
@[simp] theorem get_nil (d : α) (k : Nat) : SMap.get d ([] : SMap α) k = d := rfl

theorem find_put (m : SMap α) (k : Nat) (v : α) (n : Nat) : SMap.find (SMap.put m k v) n = if n = k then some v else SMap.find m n := by
  induction m with
  | nil => simp only [SMap.put, SMap.find, eq_comm]
  | cons e r ih =>
    obtain ⟨j, w⟩ := e
    simp only [SMap.put]
    split
    · simp only [SMap.find, eq_comm]
    · split
      · subst_vars; simp only [SMap.find]; split <;> simp_all [eq_comm]
      · simp only [SMap.find, ih]; split <;> simp_all [eq_comm]

@[simp] theorem find_put_same (m : SMap α) (k : Nat) (v : α) : SMap.find (SMap.put m k v) k = some v := by simp [find_put]
theorem find_put_other (m : SMap α) {k n : Nat} (v : α) (h : n ≠ k) : SMap.find (SMap.put m k v) n = SMap.find m n := by
  simp [find_put, h]

theorem get_put (d : α) (m : SMap α) (k : Nat) (v : α) (n : Nat) : SMap.get d (SMap.put m k v) n = if n = k then v else SMap.get d m n := by
  simp only [get_eq_find, find_put]; split <;> rfl
@[simp] theorem get_put_same (d : α) (m : SMap α) (k : Nat) (v : α) : SMap.get d (SMap.put m k v) k = v := by simp [get_put]
theorem get_put_other (d : α) (m : SMap α) {k n : Nat} (v : α) (h : n ≠ k) : SMap.get d (SMap.put m k v) n = SMap.get d m n := by
  simp [get_put, h]

@[simp] theorem put_put (m : SMap α) (k : Nat) (v w : α) : SMap.put (SMap.put m k v) k w = SMap.put m k w := by
  induction m with
  | nil => simp [SMap.put]
  | cons e r ih =>
    obtain ⟨j, x⟩ := e
    simp only [SMap.put]
    split
    · simp [SMap.put]
    · split
      · simp [SMap.put]
      · rename_i h1 h2
        simp [SMap.put, h1, h2, ih]

theorem find_erase (m : SMap α) (k n : Nat) : SMap.find (SMap.erase m k) n = if n = k then none else SMap.find m n := by
  induction m with
  | nil => simp [SMap.erase]
  | cons e r ih =>
    obtain ⟨j, w⟩ := e
    simp only [SMap.erase]
    split
    · subst_vars; rw [ih]; simp only [SMap.find]; split <;> simp_all [eq_comm]
    · simp only [SMap.find, ih]; split <;> simp_all [eq_comm]

theorem get_erase (d : α) (m : SMap α) (k n : Nat) : SMap.get d (SMap.erase m k) n = if n = k then d else SMap.get d m n := by
  simp only [get_eq_find, find_erase]; split <;> rfl

theorem get_upd (d : α) (m : SMap α) (k : Nat) (f : α → α) (n : Nat) :
    SMap.get d (SMap.upd d m k f) n = if n = k then f (SMap.get d m k) else SMap.get d m n := get_put d m k _ n

/-- A change of a key twice is one change. -/
theorem upd_upd (d : α) (m : SMap α) (k : Nat) (f g : α → α) : SMap.upd d (SMap.upd d m k f) k g = SMap.upd d m k fun x => g (f x) := by
  simp [SMap.upd]

theorem get_set [DecidableEq α] (d : α) (m : SMap α) (k : Nat) (v : α) (n : Nat) :
    SMap.get d (SMap.set d m k v) n = if n = k then v else SMap.get d m n := by
  unfold SMap.set
  split
  · subst_vars; simp [get_erase]
  · simp [get_put]

/-! The canonical form. -/

/-- Every key of a map lies above `k`. -/
def Above (k : Nat) (m : SMap α) : Prop := ∀ e ∈ m, k < e.1

theorem sorted_cons (k : Nat) (v : α) (m : SMap α) : SMap.sorted ((k, v) :: m) = true ↔ Above k m ∧ SMap.sorted m = true := by
  induction m generalizing k v with
  | nil => simp [SMap.sorted, Above]
  | cons e r ih =>
    obtain ⟨j, w⟩ := e
    simp only [SMap.sorted, Bool.and_eq_true, decide_eq_true_eq, ih]
    constructor
    · rintro ⟨h, ha, hs⟩
      exact ⟨fun x hx => by rcases List.mem_cons.1 hx with rfl | hx
                            · exact h
                            · exact Nat.lt_trans h (ha x hx), ha, hs⟩
    · rintro ⟨h, ha, hs⟩
      exact ⟨h (j, w) (List.mem_cons_self ..), ha, hs⟩

theorem above_put {k j : Nat} {v : α} {m : SMap α} (h : k < j) (hm : Above k m) : Above k (SMap.put m j v) := by
  induction m with
  | nil => simpa [SMap.put, Above] using h
  | cons e r ih =>
    obtain ⟨i, w⟩ := e
    have hr : Above k r := fun x hx => hm x (List.mem_cons_of_mem _ hx)
    have hi : k < i := hm (i, w) (List.mem_cons_self ..)
    simp only [SMap.put]
    split
    · intro x hx
      rcases List.mem_cons.1 hx with rfl | hx
      · exact h
      · exact hm x hx
    · split
      · intro x hx
        rcases List.mem_cons.1 hx with rfl | hx
        · exact h
        · exact hr x hx
      · intro x hx
        rcases List.mem_cons.1 hx with rfl | hx
        · exact hi
        · exact ih hr x hx

theorem sorted_put {m : SMap α} (k : Nat) (v : α) (h : SMap.sorted m = true) : SMap.sorted (SMap.put m k v) = true := by
  induction m with
  | nil => rfl
  | cons e r ih =>
    obtain ⟨j, w⟩ := e
    have hs := (sorted_cons j w r).1 h
    simp only [SMap.put]
    split
    · rename_i hk
      refine (sorted_cons k v _).2 ⟨?_, h⟩
      intro x hx
      rcases List.mem_cons.1 hx with rfl | hx
      · exact hk
      · exact Nat.lt_trans hk (hs.1 x hx)
    · split
      · subst_vars; exact (sorted_cons _ v r).2 hs
      · exact (sorted_cons j w _).2 ⟨above_put (by omega) hs.1, ih hs.2⟩

theorem mem_erase {m : SMap α} {k : Nat} {e : Nat × α} (h : e ∈ SMap.erase m k) : e ∈ m := by
  induction m with
  | nil => exact h
  | cons x r ih =>
    obtain ⟨j, w⟩ := x
    simp only [SMap.erase] at h
    split at h
    · exact List.mem_cons_of_mem _ (ih h)
    · rcases List.mem_cons.1 h with rfl | h
      · exact List.mem_cons_self ..
      · exact List.mem_cons_of_mem _ (ih h)

theorem sorted_erase {m : SMap α} (k : Nat) (h : SMap.sorted m = true) : SMap.sorted (SMap.erase m k) = true := by
  induction m with
  | nil => rfl
  | cons e r ih =>
    obtain ⟨j, w⟩ := e
    have hs := (sorted_cons j w r).1 h
    simp only [SMap.erase]
    split
    · exact ih hs.2
    · exact (sorted_cons j w _).2 ⟨fun x hx => hs.1 x (mem_erase hx), ih hs.2⟩

theorem mem_put {m : SMap α} {k : Nat} {v : α} {e : Nat × α} (h : e ∈ SMap.put m k v) : e = (k, v) ∨ e ∈ m := by
  induction m with
  | nil => simpa [SMap.put] using h
  | cons x r ih =>
    obtain ⟨j, w⟩ := x
    simp only [SMap.put] at h
    split at h
    · simpa using h
    · split at h
      · rcases List.mem_cons.1 h with rfl | h
        · exact .inl rfl
        · exact .inr (List.mem_cons_of_mem _ h)
      · rcases List.mem_cons.1 h with rfl | h
        · exact .inr (List.mem_cons_self ..)
        · exact (ih h).imp id (List.mem_cons_of_mem _)

theorem wf_iff [DecidableEq α] (d : α) (m : SMap α) : SMap.wf d m = true ↔ SMap.sorted m = true ∧ ∀ e ∈ m, e.2 ≠ d := by
  simp [SMap.wf]

/-- Setting a key keeps the canonical form. -/
theorem wf_set [DecidableEq α] (d : α) {m : SMap α} (k : Nat) (v : α) (h : SMap.wf d m = true) : SMap.wf d (SMap.set d m k v) = true := by
  rw [wf_iff] at h ⊢
  unfold SMap.set
  split
  · exact ⟨sorted_erase k h.1, fun e he => h.2 e (mem_erase he)⟩
  · refine ⟨sorted_put k v h.1, fun e he => ?_⟩
    rcases mem_put he with rfl | he
    · assumption
    · exact h.2 e he

/-- In a sorted map the entries are what `find` finds. -/
theorem mem_iff_find {m : SMap α} (h : SMap.sorted m = true) (e : Nat × α) : e ∈ m ↔ SMap.find m e.1 = some e.2 := by
  induction m with
  | nil => simp
  | cons x r ih =>
    obtain ⟨j, w⟩ := x
    have hs := (sorted_cons j w r).1 h
    simp only [List.mem_cons, SMap.find]
    split
    · rename_i hj
      constructor
      · rintro (rfl | he)
        · rfl
        · exact absurd (hs.1 e he) (by omega)
      · intro hw; left; cases hw; cases hj; rfl
    · rename_i hj
      rw [← ih hs.2]
      constructor
      · rintro (rfl | he)
        · exact absurd rfl hj
        · exact he
      · exact .inr

/-- Two maps in canonical form that read the same are the same. -/
theorem wf_ext [DecidableEq α] (d : α) {m n : SMap α} (hm : SMap.wf d m = true) (hn : SMap.wf d n = true)
    (h : ∀ k, SMap.get d m k = SMap.get d n k) : m = n := by
  rw [wf_iff] at hm hn
  induction m generalizing n with
  | nil =>
    cases n with
    | nil => rfl
    | cons e r =>
      obtain ⟨j, w⟩ := e
      have := h j
      simp only [SMap.get, if_true] at this
      exact absurd this.symm (hn.2 (j, w) (List.mem_cons_self ..))
  | cons e r ih =>
    obtain ⟨j, w⟩ := e
    have hs := (sorted_cons j w r).1 hm.1
    cases n with
    | nil =>
      have := h j
      simp only [SMap.get, if_true] at this
      exact absurd this (hm.2 (j, w) (List.mem_cons_self ..))
    | cons x t =>
      obtain ⟨i, v⟩ := x
      have ht := (sorted_cons i v t).1 hn.1
      have low : ∀ {a b : Nat} {u : SMap α}, Above b u → a < b → SMap.get d u a = d := by
        intro a b u hu hab
        induction u with
        | nil => rfl
        | cons y z ihz =>
          obtain ⟨c, q⟩ := y
          have hc : b < c := hu (c, q) (List.mem_cons_self ..)
          simp only [SMap.get]
          rw [if_neg (by omega)]
          exact ihz fun e he => hu e (List.mem_cons_of_mem _ he)
      have hij : i = j := by
        rcases Nat.lt_trichotomy i j with hlt | rfl | hlt
        · have := h i
          simp only [SMap.get, if_true] at this
          rw [if_neg (by omega), low hs.1 hlt] at this
          exact absurd this.symm (hn.2 (i, v) (List.mem_cons_self ..))
        · rfl
        · have := h j
          simp only [SMap.get, if_true] at this
          rw [if_neg (by omega), low ht.1 hlt] at this
          exact absurd this (hm.2 (j, w) (List.mem_cons_self ..))
      subst hij
      have hv : w = v := by simpa [SMap.get] using h i
      subst hv
      congr 1
      refine ih ⟨hs.2, fun e he => hm.2 e (List.mem_cons_of_mem _ he)⟩ ⟨ht.2, fun e he => hn.2 e (List.mem_cons_of_mem _ he)⟩ fun k => ?_
      have := h k
      simp only [SMap.get] at this
      by_cases hk : i = k
      · subst hk
        have self : ∀ {b : Nat} {u : SMap α}, Above b u → SMap.get d u b = d := by
          intro b u hu
          induction u with
          | nil => rfl
          | cons y z ihz =>
            obtain ⟨c, q⟩ := y
            have hc : b < c := hu (c, q) (List.mem_cons_self ..)
            simp only [SMap.get]
            rw [if_neg (by omega)]
            exact ihz fun e he => hu e (List.mem_cons_of_mem _ he)
        rw [self hs.1, self ht.1]
      · simpa [hk] using this

end Sys2Proof.Laws
end

