-- ==== Sys2Proof/Laws/Memory.lean ====
section
/-! SUPPORT. What the operations on memory do: single bytes, runs of bytes, commits; and that each keeps the canonical
form (02 R53–R60). -/

namespace Sys2Proof.Laws

open Sys2Proof.Machine

/-! Bytes. -/

theorem byte_setByte (m : Memory) (a : Nat) (b : Byte) (x : Nat) : (m.setByte a b).byte x = if x = a then b else m.byte x :=
  get_set memDefault m.mem a b x

theorem wf_setByte {m : Memory} (a : Nat) (b : Byte) (h : m.wf = true) : (m.setByte a b).wf = true := wf_set memDefault a b h

theorem wf_setBytes (l : List (Nat × Byte)) {m : Memory} (h : m.wf = true) : (m.setBytes l).wf = true := by
  induction l generalizing m with
  | nil => exact h
  | cons e r ih => exact ih (wf_setByte e.1 e.2 h)

/-- Writing bytes touches nothing of a memory but its bytes. -/
theorem setBytes_frame (l : List (Nat × Byte)) (m : Memory) : m.setBytes l = { m with mem := (m.setBytes l).mem } := by
  induction l generalizing m with
  | nil => rfl
  | cons e r ih => obtain ⟨a, b⟩ := e; simp only [Memory.setBytes]; rw [ih]; rfl

/-- A byte after writing bytes: the last one written there, or what it was. -/
theorem byte_setBytes (l : List (Nat × Byte)) (m : Memory) (x : Nat) :
    (m.setBytes l).byte x = ((l.reverse.find? fun e => e.1 = x).map (·.2)).getD (m.byte x) := by
  induction l generalizing m with
  | nil => rfl
  | cons e r ih =>
    obtain ⟨a, b⟩ := e
    simp only [Memory.setBytes, ih, byte_setByte, List.reverse_cons, List.find?_append]
    cases h : r.reverse.find? fun e => e.1 = x with
    | some e => simp
    | none => by_cases hx : x = a <;> simp [hx, eq_comm]

/-- A byte that no entry names stays. -/
theorem byte_setBytes_other {l : List (Nat × Byte)} {m : Memory} {x : Nat} (h : ∀ e ∈ l, e.1 ≠ x) :
    (m.setBytes l).byte x = m.byte x := by
  induction l generalizing m with
  | nil => rfl
  | cons e r ih =>
    obtain ⟨a, b⟩ := e
    simp only [Memory.setBytes]
    rw [ih fun e he => h e (List.mem_cons_of_mem _ he), byte_setByte, if_neg]
    exact fun hx => h (a, b) (List.mem_cons_self ..) hx.symm

/-- A byte written by a sorted map is what the map holds. -/
theorem byte_setBytes_sorted {l : SMap Byte} (hs : SMap.sorted l = true) (m : Memory) (x : Nat) :
    (m.setBytes l).byte x = (SMap.find l x).getD (m.byte x) := by
  induction l generalizing m with
  | nil => rfl
  | cons e r ih =>
    obtain ⟨a, b⟩ := e
    have hc := (sorted_cons a b r).1 hs
    simp only [Memory.setBytes, SMap.find]
    split
    · subst_vars
      rw [byte_setBytes_other fun e he => Nat.ne_of_gt (hc.1 e he), byte_setByte, if_pos rfl]; rfl
    · rw [ih hc.2, byte_setByte, if_neg (by omega)]

/-! Runs of bytes. -/

theorem mem_placed {a : Nat} {l : List Byte} {e : Nat × Byte} (h : e ∈ placed a l) : a ≤ e.1 ∧ e.1 < a + l.length := by
  induction l generalizing a with
  | nil => cases h
  | cons b r ih =>
    rcases List.mem_cons.1 h with rfl | h
    · simp
    · have := ih h; simp only [List.length_cons]; omega

theorem sorted_placed (a : Nat) (l : List Byte) : SMap.sorted (placed a l) = true := by
  induction l generalizing a with
  | nil => rfl
  | cons b r ih =>
    refine (sorted_cons a b _).2 ⟨fun e he => ?_, ih (a + 1)⟩
    have := mem_placed he; omega

theorem find_placed (a : Nat) (l : List Byte) (x : Nat) : SMap.find (placed a l) x = if a ≤ x then l[x - a]? else none := by
  induction l generalizing a with
  | nil => simp [placed]
  | cons b r ih =>
    simp only [placed, SMap.find]
    by_cases h : a = x
    · subst h; simp
    · rw [if_neg h, ih]
      by_cases h1 : a ≤ x
      · rw [if_pos (by omega), if_pos h1, show x - a = (x - (a + 1)) + 1 by omega, List.getElem?_cons_succ]
      · rw [if_neg (by omega), if_neg h1]

theorem byte_placed (m : Memory) (a : Nat) (l : List Byte) (x : Nat) :
    (m.setBytes (placed a l)).byte x = if a ≤ x ∧ x < a + l.length then (l[x - a]?).getD 0 else m.byte x := by
  rw [byte_setBytes_sorted (sorted_placed a l), find_placed]
  by_cases h : a ≤ x
  · by_cases h1 : x < a + l.length
    · rw [if_pos h, if_pos ⟨h, h1⟩, List.getElem?_eq_getElem (by omega)]; rfl
    · rw [if_pos h, if_neg (by omega), List.getElem?_eq_none (by omega)]; rfl
  · rw [if_neg h, if_neg (by omega)]; rfl

theorem upto_eq (lo n : Nat) : upto lo n = List.range' lo n := by
  induction n generalizing lo with
  | zero => rfl
  | succ n ih => simp [upto, ih, List.range'_succ]

@[simp] theorem upto_length (lo n : Nat) : (upto lo n).length = n := by simp [upto_eq]
theorem mem_upto {lo n x : Nat} : x ∈ upto lo n ↔ lo ≤ x ∧ x < lo + n := by simp [upto_eq]

/-- Reading the bytes just written. -/
theorem readN_placed (m : Memory) (a : Nat) (l : List Byte) : (m.setBytes (placed a l)).readN a l.length = l := by
  apply List.ext_getElem
  · simp [Memory.readN]
  · intro i h1 h2
    simp only [Memory.readN, List.getElem_map, upto_eq, List.getElem_range']
    rw [byte_placed, if_pos (by omega), List.getElem?_eq_getElem (by omega)]
    simp

/-! Numbers as bytes. -/

@[simp] theorem bytesOf_length (n v : Nat) : (bytesOf n v).length = n := by
  induction n generalizing v with
  | zero => rfl
  | succ n ih => simp [bytesOf, ih]

theorem ofBytes_bytesOf (n v : Nat) : ofBytes (bytesOf n v) = v % 256 ^ n := by
  induction n generalizing v with
  | zero => simp [bytesOf, ofBytes, Nat.mod_one]
  | succ n ih =>
    simp only [bytesOf, ofBytes, ih, BitVec.toNat_ofNat]
    rw [show 256 ^ (n + 1) = 256 * 256 ^ n from Nat.pow_succ', Nat.mod_mul]

/-! Commits. -/

@[simp] theorem pruneHistory_byte (s : State) (a : Nat) : (pruneHistory s).m.byte a = s.m.byte a := rfl
theorem pruneHistory_frame (s : State) : pruneHistory s = { s with m := (pruneHistory s).m } := rfl
@[simp] theorem pruneHistory_wf (s : State) : (pruneHistory s).m.wf = s.m.wf := rfl
@[simp] theorem pruneHistory_pubCount (s : State) : (pruneHistory s).m.pubCount = s.m.pubCount := rfl

@[simp] theorem setBytes_remote (l : List (Nat × Byte)) (m : Memory) : (m.setBytes l).remote = m.remote := by rw [setBytes_frame]
@[simp] theorem setBytes_xs (l : List (Nat × Byte)) (m : Memory) : (m.setBytes l).xs = m.xs := by rw [setBytes_frame]
@[simp] theorem setBytes_shadows (l : List (Nat × Byte)) (m : Memory) : (m.setBytes l).shadows = m.shadows := by rw [setBytes_frame]
@[simp] theorem setBytes_poison (l : List (Nat × Byte)) (m : Memory) : (m.setBytes l).poison = m.poison := by rw [setBytes_frame]
@[simp] theorem setBytes_pubCount (l : List (Nat × Byte)) (m : Memory) : (m.setBytes l).pubCount = m.pubCount := by rw [setBytes_frame]

@[simp] theorem putBytes_byte (m : Memory) (l : List (Nat × Byte)) (a : Nat) : (m.putBytes l).byte a = (m.setBytes l).byte a := rfl
@[simp] theorem putBytes_wf (m : Memory) (l : List (Nat × Byte)) : (m.putBytes l).wf = (m.setBytes l).wf := rfl
@[simp] theorem putBytes_pubCount (m : Memory) (l : List (Nat × Byte)) : (m.putBytes l).pubCount = m.pubCount := setBytes_pubCount l m
@[simp] theorem putBytes_remote (m : Memory) (l : List (Nat × Byte)) : (m.putBytes l).remote = m.remote := setBytes_remote l m
@[simp] theorem putBytes_writer (m : Memory) (l : List (Nat × Byte)) : (m.putBytes l).writer = m.writer := by
  simp only [Memory.putBytes]; rw [setBytes_frame]

/-- Charging a region writes nothing but the record of last writers. -/
theorem charge_frame (m : Memory) (r : Nat) (l : List (Nat × Byte)) : m.charge r l = { m with writer := (m.charge r l).writer } := rfl
@[simp] theorem charge_byte (m : Memory) (r : Nat) (l : List (Nat × Byte)) (a : Nat) : (m.charge r l).byte a = m.byte a := rfl
@[simp] theorem charge_wf (m : Memory) (r : Nat) (l : List (Nat × Byte)) : (m.charge r l).wf = m.wf := rfl
@[simp] theorem charge_pubCount (m : Memory) (r : Nat) (l : List (Nat × Byte)) : (m.charge r l).pubCount = m.pubCount := rfl

theorem commitAt_byte (n : Nat) (w : Option Nat) (l : List (Nat × Byte)) (s : State) (a : Nat) :
    (commitAt n w l s).m.byte a = (s.m.setBytes l).byte a := by cases w <;> rfl

theorem commitAt_frame (n : Nat) (w : Option Nat) (l : List (Nat × Byte)) (s : State) :
    commitAt n w l s = { s with m := (commitAt n w l s).m } := rfl

theorem commitAt_wf (n : Nat) (w : Option Nat) (l : List (Nat × Byte)) {s : State} (h : s.m.wf = true) :
    (commitAt n w l s).m.wf = true := by cases w <;> exact wf_setBytes l h

@[simp] theorem commitAt_pubCount (n : Nat) (w : Option Nat) (l : List (Nat × Byte)) (s : State) :
    (commitAt n w l s).m.pubCount = n := by cases w <;> rfl

theorem commitLocal_byte (w : Option Nat) (l : List (Nat × Byte)) (s : State) (a : Nat) :
    (commitLocal w l s).m.byte a = (s.m.setBytes l).byte a := commitAt_byte _ w l s a

theorem commitLocal_frame (w : Option Nat) (l : List (Nat × Byte)) (s : State) :
    commitLocal w l s = { s with m := (commitLocal w l s).m } := rfl

theorem commitLocal_wf (w : Option Nat) (l : List (Nat × Byte)) {s : State} (h : s.m.wf = true) :
    (commitLocal w l s).m.wf = true := commitAt_wf _ w l h

@[simp] theorem commitLocal_pubCount (w : Option Nat) (l : List (Nat × Byte)) (s : State) :
    (commitLocal w l s).m.pubCount = (s.m.pubCount + 1) % 2 ^ 48 := commitAt_pubCount _ w l s

theorem writeRemote_frame (l : List (Nat × Byte)) (m : Memory) : writeRemote l m =
    { m with unstamped := m.unstamped + 1, remote := (writeRemote l m).remote, rdc := (writeRemote l m).rdc } := rfl

/-- Charging several lines leaves the bytes and their form. -/
theorem foldl_charge_wf (l : List NearLine) (m : Memory) : (l.foldl (fun m x => m.charge x.region x.bytes) m).wf = m.wf := by
  induction l generalizing m with
  | nil => rfl
  | cons x r ih => rw [List.foldl_cons, ih, charge_wf]

theorem releaseLines_wf (n : Nat) (p : NearLine → Bool) {s : State} (h : s.m.wf = true) : (releaseLines n p s).m.wf = true := by
  simp only [releaseLines]
  split
  · exact h
  · rw [foldl_charge_wf]; exact commitLocal_wf _ _ h

theorem releaseLines_frame (n : Nat) (p : NearLine → Bool) (s : State) :
    releaseLines n p s = { s with m := (releaseLines n p s).m, clusters := (releaseLines n p s).clusters } := by
  simp only [releaseLines]; split <;> rfl

theorem exchangePage_wf (x : Exchange) (n : Nat) {s : State} (h : s.m.wf = true) : (exchangePage x n s).m.wf = true := by
  cases h1 : leaf64 s.m x.xroot (x.dst + n) with
  | none => simp only [exchangePage, h1]; exact h
  | some a =>
    cases h2 : leaf64 s.m x.xroot (x.shadow + n) with
    | none => simp only [exchangePage, h1, h2]; exact h
    | some b => simp only [exchangePage, h1, h2, Memory.wf]; exact wf_setBytes (exchangeLeaves a b) h

/-- An exchange of pages changes tables and translations only: no core, no scratchpad, no tile sees it directly. -/
theorem exchangePage_frame (x : Exchange) (n : Nat) (s : State) :
    exchangePage x n s = { s with m := (exchangePage x n s).m, clusters := (exchangePage x n s).clusters } := by
  simp only [exchangePage]; split <;> rfl

theorem settleShadow_wf (x : Exchange) (l : SMap Byte) {s : State} (h : s.m.wf = true) : (settleShadow x l s).m.wf = true :=
  wf_setBytes _ h

theorem foldl_wf {β : Type} (f : State → β → State) (hf : ∀ s b, s.m.wf = true → (f s b).m.wf = true) (l : List β) {s : State}
    (h : s.m.wf = true) : (l.foldl f s).m.wf = true := by
  induction l generalizing s with
  | nil => exact h
  | cons b r ih => exact ih (hf s b h)

theorem exchangeAll_wf (l : List Exchange) {s : State} (h : s.m.wf = true) : (exchangeAll l s).m.wf = true := by
  induction l generalizing s with
  | nil => exact h
  | cons x r ih => exact ih (foldl_wf _ (fun _ _ => exchangePage_wf _ _) _ (settleShadow_wf _ _ h))

/-! Writes without a stamp (02 R55, R57). -/

theorem writeUnstamped_wf (w : Option Nat) (l : List (Nat × Byte)) {s : State} (h : s.m.wf = true) :
    (writeUnstamped w l s).m.wf = true := by cases w <;> exact wf_setBytes l h
theorem writeUnstamped_byte (w : Option Nat) (l : List (Nat × Byte)) (s : State) (a : Nat) :
    (writeUnstamped w l s).m.byte a = (s.m.setBytes l).byte a := by cases w <;> rfl
@[simp] theorem writeUnstamped_pubCount (w : Option Nat) (l : List (Nat × Byte)) (s : State) :
    (writeUnstamped w l s).m.pubCount = s.m.pubCount := by cases w <;> exact setBytes_pubCount l s.m
theorem writeUnstamped_frame (w : Option Nat) (l : List (Nat × Byte)) (s : State) : writeUnstamped w l s =
    { s with cores := (writeUnstamped w l s).cores, ns := (writeUnstamped w l s).ns, m := (writeUnstamped w l s).m } := rfl

@[simp] theorem rdcFill_mem (n : Nat) (l : List Byte) (m : Memory) : (m.rdcFill n l).mem = m.mem := rfl
@[simp] theorem rdcFill_wf (n : Nat) (l : List Byte) (m : Memory) : (m.rdcFill n l).wf = m.wf := rfl
@[simp] theorem rdcFill_pubCount (n : Nat) (l : List Byte) (m : Memory) : (m.rdcFill n l).pubCount = m.pubCount := rfl

end Sys2Proof.Laws
end

