-- ==== Sys2Proof/Laws/State.lean ====
section
/-! SUPPORT. What each update of the state leaves as it was, one lemma per field per update, and what a reader of the
part that it changes then sees. -/

namespace Sys2Proof.Laws

open Sys2Proof.Machine

/-! setCore. -/

@[simp] theorem setCore_cycle (s : State) (c : Nat) (k : Core) : (s.setCore c k).cycle = s.cycle := rfl
@[simp] theorem setCore_core (s : State) (c : Nat) (k : Core) : (s.setCore c k).core = s.core := rfl
@[simp] theorem setCore_sq (s : State) (c : Nat) (k : Core) : (s.setCore c k).sq = s.sq := rfl
@[simp] theorem setCore_ev (s : State) (c : Nat) (k : Core) : (s.setCore c k).ev = s.ev := rfl
@[simp] theorem setCore_agenda (s : State) (c : Nat) (k : Core) : (s.setCore c k).agenda = s.agenda := rfl
@[simp] theorem setCore_drawn (s : State) (c : Nat) (k : Core) : (s.setCore c k).drawn = s.drawn := rfl
@[simp] theorem setCore_clusters (s : State) (c : Nat) (k : Core) : (s.setCore c k).clusters = s.clusters := rfl
@[simp] theorem setCore_m (s : State) (c : Nat) (k : Core) : (s.setCore c k).m = s.m := rfl
@[simp] theorem setCore_ns (s : State) (c : Nat) (k : Core) : (s.setCore c k).ns = s.ns := rfl
@[simp] theorem setCore_dbar (s : State) (c : Nat) (k : Core) : (s.setCore c k).dbar = s.dbar := rfl
@[simp] theorem setCore_devId (s : State) (c : Nat) (k : Core) : (s.setCore c k).devId = s.devId := rfl
@[simp] theorem setCore_sv (s : State) (c : Nat) (k : Core) : (s.setCore c k).sv = s.sv := rfl
@[simp] theorem setCore_hostAtoms (s : State) (c : Nat) (k : Core) : (s.setCore c k).hostAtoms = s.hostAtoms := rfl
@[simp] theorem setCore_peerAsks (s : State) (c : Nat) (k : Core) : (s.setCore c k).peerAsks = s.peerAsks := rfl
@[simp] theorem setCore_nextTag (s : State) (c : Nat) (k : Core) : (s.setCore c k).nextTag = s.nextTag := rfl
@[simp] theorem setCore_fab (s : State) (c : Nat) (k : Core) : (s.setCore c k).fab = s.fab := rfl
@[simp] theorem setCore_cd (s : State) (c : Nat) (k : Core) : (s.setCore c k).cd = s.cd := rfl
@[simp] theorem setCore_eng (s : State) (c : Nat) (k : Core) : (s.setCore c k).eng = s.eng := rfl
@[simp] theorem setCore_ports (s : State) (c : Nat) (k : Core) : (s.setCore c k).ports = s.ports := rfl
@[simp] theorem setCore_hl (s : State) (c : Nat) (k : Core) : (s.setCore c k).hl = s.hl := rfl
@[simp] theorem setCore_rv (s : State) (c : Nat) (k : Core) : (s.setCore c k).rv = s.rv := rfl
@[simp] theorem setCore_fuseQ (s : State) (c : Nat) (k : Core) : (s.setCore c k).fuseQ = s.fuseQ := rfl
@[simp] theorem setCore_off (s : State) (c : Nat) (k : Core) : (s.setCore c k).off = s.off := rfl
@[simp] theorem setCore_guard (s : State) (c : Nat) (k : Core) : (s.setCore c k).guard = s.guard := rfl

/-! updCore. -/

@[simp] theorem updCore_cycle (s : State) (c : Nat) (f : Core → Core) : (s.updCore c f).cycle = s.cycle := rfl
@[simp] theorem updCore_core (s : State) (c : Nat) (f : Core → Core) : (s.updCore c f).core = s.core := rfl
@[simp] theorem updCore_sq (s : State) (c : Nat) (f : Core → Core) : (s.updCore c f).sq = s.sq := rfl
@[simp] theorem updCore_ev (s : State) (c : Nat) (f : Core → Core) : (s.updCore c f).ev = s.ev := rfl
@[simp] theorem updCore_agenda (s : State) (c : Nat) (f : Core → Core) : (s.updCore c f).agenda = s.agenda := rfl
@[simp] theorem updCore_drawn (s : State) (c : Nat) (f : Core → Core) : (s.updCore c f).drawn = s.drawn := rfl
@[simp] theorem updCore_clusters (s : State) (c : Nat) (f : Core → Core) : (s.updCore c f).clusters = s.clusters := rfl
@[simp] theorem updCore_m (s : State) (c : Nat) (f : Core → Core) : (s.updCore c f).m = s.m := rfl
@[simp] theorem updCore_ns (s : State) (c : Nat) (f : Core → Core) : (s.updCore c f).ns = s.ns := rfl
@[simp] theorem updCore_dbar (s : State) (c : Nat) (f : Core → Core) : (s.updCore c f).dbar = s.dbar := rfl
@[simp] theorem updCore_devId (s : State) (c : Nat) (f : Core → Core) : (s.updCore c f).devId = s.devId := rfl
@[simp] theorem updCore_sv (s : State) (c : Nat) (f : Core → Core) : (s.updCore c f).sv = s.sv := rfl
@[simp] theorem updCore_hostAtoms (s : State) (c : Nat) (f : Core → Core) : (s.updCore c f).hostAtoms = s.hostAtoms := rfl
@[simp] theorem updCore_peerAsks (s : State) (c : Nat) (f : Core → Core) : (s.updCore c f).peerAsks = s.peerAsks := rfl
@[simp] theorem updCore_nextTag (s : State) (c : Nat) (f : Core → Core) : (s.updCore c f).nextTag = s.nextTag := rfl
@[simp] theorem updCore_fab (s : State) (c : Nat) (f : Core → Core) : (s.updCore c f).fab = s.fab := rfl
@[simp] theorem updCore_cd (s : State) (c : Nat) (f : Core → Core) : (s.updCore c f).cd = s.cd := rfl
@[simp] theorem updCore_eng (s : State) (c : Nat) (f : Core → Core) : (s.updCore c f).eng = s.eng := rfl
@[simp] theorem updCore_ports (s : State) (c : Nat) (f : Core → Core) : (s.updCore c f).ports = s.ports := rfl
@[simp] theorem updCore_hl (s : State) (c : Nat) (f : Core → Core) : (s.updCore c f).hl = s.hl := rfl
@[simp] theorem updCore_rv (s : State) (c : Nat) (f : Core → Core) : (s.updCore c f).rv = s.rv := rfl
@[simp] theorem updCore_fuseQ (s : State) (c : Nat) (f : Core → Core) : (s.updCore c f).fuseQ = s.fuseQ := rfl
@[simp] theorem updCore_off (s : State) (c : Nat) (f : Core → Core) : (s.updCore c f).off = s.off := rfl
@[simp] theorem updCore_guard (s : State) (c : Nat) (f : Core → Core) : (s.updCore c f).guard = s.guard := rfl

/-! updSeq. -/

@[simp] theorem updSeq_cycle (s : State) (c : Nat) (q : Seq) (f : SeqState → SeqState) : (s.updSeq c q f).cycle = s.cycle := rfl
@[simp] theorem updSeq_core (s : State) (c : Nat) (q : Seq) (f : SeqState → SeqState) : (s.updSeq c q f).core = s.core := rfl
@[simp] theorem updSeq_sq (s : State) (c : Nat) (q : Seq) (f : SeqState → SeqState) : (s.updSeq c q f).sq = s.sq := rfl
@[simp] theorem updSeq_ev (s : State) (c : Nat) (q : Seq) (f : SeqState → SeqState) : (s.updSeq c q f).ev = s.ev := rfl
@[simp] theorem updSeq_agenda (s : State) (c : Nat) (q : Seq) (f : SeqState → SeqState) : (s.updSeq c q f).agenda = s.agenda := rfl
@[simp] theorem updSeq_drawn (s : State) (c : Nat) (q : Seq) (f : SeqState → SeqState) : (s.updSeq c q f).drawn = s.drawn := rfl
@[simp] theorem updSeq_clusters (s : State) (c : Nat) (q : Seq) (f : SeqState → SeqState) : (s.updSeq c q f).clusters = s.clusters := rfl
@[simp] theorem updSeq_m (s : State) (c : Nat) (q : Seq) (f : SeqState → SeqState) : (s.updSeq c q f).m = s.m := rfl
@[simp] theorem updSeq_ns (s : State) (c : Nat) (q : Seq) (f : SeqState → SeqState) : (s.updSeq c q f).ns = s.ns := rfl
@[simp] theorem updSeq_dbar (s : State) (c : Nat) (q : Seq) (f : SeqState → SeqState) : (s.updSeq c q f).dbar = s.dbar := rfl
@[simp] theorem updSeq_devId (s : State) (c : Nat) (q : Seq) (f : SeqState → SeqState) : (s.updSeq c q f).devId = s.devId := rfl
@[simp] theorem updSeq_sv (s : State) (c : Nat) (q : Seq) (f : SeqState → SeqState) : (s.updSeq c q f).sv = s.sv := rfl
@[simp] theorem updSeq_hostAtoms (s : State) (c : Nat) (q : Seq) (f : SeqState → SeqState) : (s.updSeq c q f).hostAtoms = s.hostAtoms := rfl
@[simp] theorem updSeq_peerAsks (s : State) (c : Nat) (q : Seq) (f : SeqState → SeqState) : (s.updSeq c q f).peerAsks = s.peerAsks := rfl
@[simp] theorem updSeq_nextTag (s : State) (c : Nat) (q : Seq) (f : SeqState → SeqState) : (s.updSeq c q f).nextTag = s.nextTag := rfl
@[simp] theorem updSeq_fab (s : State) (c : Nat) (q : Seq) (f : SeqState → SeqState) : (s.updSeq c q f).fab = s.fab := rfl
@[simp] theorem updSeq_cd (s : State) (c : Nat) (q : Seq) (f : SeqState → SeqState) : (s.updSeq c q f).cd = s.cd := rfl
@[simp] theorem updSeq_eng (s : State) (c : Nat) (q : Seq) (f : SeqState → SeqState) : (s.updSeq c q f).eng = s.eng := rfl
@[simp] theorem updSeq_ports (s : State) (c : Nat) (q : Seq) (f : SeqState → SeqState) : (s.updSeq c q f).ports = s.ports := rfl
@[simp] theorem updSeq_hl (s : State) (c : Nat) (q : Seq) (f : SeqState → SeqState) : (s.updSeq c q f).hl = s.hl := rfl
@[simp] theorem updSeq_rv (s : State) (c : Nat) (q : Seq) (f : SeqState → SeqState) : (s.updSeq c q f).rv = s.rv := rfl
@[simp] theorem updSeq_fuseQ (s : State) (c : Nat) (q : Seq) (f : SeqState → SeqState) : (s.updSeq c q f).fuseQ = s.fuseQ := rfl
@[simp] theorem updSeq_off (s : State) (c : Nat) (q : Seq) (f : SeqState → SeqState) : (s.updSeq c q f).off = s.off := rfl
@[simp] theorem updSeq_guard (s : State) (c : Nat) (q : Seq) (f : SeqState → SeqState) : (s.updSeq c q f).guard = s.guard := rfl

/-! updCluster. -/

@[simp] theorem updCluster_cycle (s : State) (n : Nat) (f : Cluster → Cluster) : (s.updCluster n f).cycle = s.cycle := rfl
@[simp] theorem updCluster_core (s : State) (n : Nat) (f : Cluster → Cluster) : (s.updCluster n f).core = s.core := rfl
@[simp] theorem updCluster_sq (s : State) (n : Nat) (f : Cluster → Cluster) : (s.updCluster n f).sq = s.sq := rfl
@[simp] theorem updCluster_ev (s : State) (n : Nat) (f : Cluster → Cluster) : (s.updCluster n f).ev = s.ev := rfl
@[simp] theorem updCluster_agenda (s : State) (n : Nat) (f : Cluster → Cluster) : (s.updCluster n f).agenda = s.agenda := rfl
@[simp] theorem updCluster_drawn (s : State) (n : Nat) (f : Cluster → Cluster) : (s.updCluster n f).drawn = s.drawn := rfl
@[simp] theorem updCluster_cores (s : State) (n : Nat) (f : Cluster → Cluster) : (s.updCluster n f).cores = s.cores := rfl
@[simp] theorem updCluster_m (s : State) (n : Nat) (f : Cluster → Cluster) : (s.updCluster n f).m = s.m := rfl
@[simp] theorem updCluster_ns (s : State) (n : Nat) (f : Cluster → Cluster) : (s.updCluster n f).ns = s.ns := rfl
@[simp] theorem updCluster_dbar (s : State) (n : Nat) (f : Cluster → Cluster) : (s.updCluster n f).dbar = s.dbar := rfl
@[simp] theorem updCluster_devId (s : State) (n : Nat) (f : Cluster → Cluster) : (s.updCluster n f).devId = s.devId := rfl
@[simp] theorem updCluster_sv (s : State) (n : Nat) (f : Cluster → Cluster) : (s.updCluster n f).sv = s.sv := rfl
@[simp] theorem updCluster_hostAtoms (s : State) (n : Nat) (f : Cluster → Cluster) : (s.updCluster n f).hostAtoms = s.hostAtoms := rfl
@[simp] theorem updCluster_peerAsks (s : State) (n : Nat) (f : Cluster → Cluster) : (s.updCluster n f).peerAsks = s.peerAsks := rfl
@[simp] theorem updCluster_nextTag (s : State) (n : Nat) (f : Cluster → Cluster) : (s.updCluster n f).nextTag = s.nextTag := rfl
@[simp] theorem updCluster_fab (s : State) (n : Nat) (f : Cluster → Cluster) : (s.updCluster n f).fab = s.fab := rfl
@[simp] theorem updCluster_cd (s : State) (n : Nat) (f : Cluster → Cluster) : (s.updCluster n f).cd = s.cd := rfl
@[simp] theorem updCluster_eng (s : State) (n : Nat) (f : Cluster → Cluster) : (s.updCluster n f).eng = s.eng := rfl
@[simp] theorem updCluster_ports (s : State) (n : Nat) (f : Cluster → Cluster) : (s.updCluster n f).ports = s.ports := rfl
@[simp] theorem updCluster_hl (s : State) (n : Nat) (f : Cluster → Cluster) : (s.updCluster n f).hl = s.hl := rfl
@[simp] theorem updCluster_rv (s : State) (n : Nat) (f : Cluster → Cluster) : (s.updCluster n f).rv = s.rv := rfl
@[simp] theorem updCluster_fuseQ (s : State) (n : Nat) (f : Cluster → Cluster) : (s.updCluster n f).fuseQ = s.fuseQ := rfl
@[simp] theorem updCluster_off (s : State) (n : Nat) (f : Cluster → Cluster) : (s.updCluster n f).off = s.off := rfl
@[simp] theorem updCluster_guard (s : State) (n : Nat) (f : Cluster → Cluster) : (s.updCluster n f).guard = s.guard := rfl

/-! updFi. -/

@[simp] theorem updFi_cycle (s : State) (n : Nat) (f : Fi → Fi) : (s.updFi n f).cycle = s.cycle := rfl
@[simp] theorem updFi_core (s : State) (n : Nat) (f : Fi → Fi) : (s.updFi n f).core = s.core := rfl
@[simp] theorem updFi_sq (s : State) (n : Nat) (f : Fi → Fi) : (s.updFi n f).sq = s.sq := rfl
@[simp] theorem updFi_ev (s : State) (n : Nat) (f : Fi → Fi) : (s.updFi n f).ev = s.ev := rfl
@[simp] theorem updFi_agenda (s : State) (n : Nat) (f : Fi → Fi) : (s.updFi n f).agenda = s.agenda := rfl
@[simp] theorem updFi_drawn (s : State) (n : Nat) (f : Fi → Fi) : (s.updFi n f).drawn = s.drawn := rfl
@[simp] theorem updFi_cores (s : State) (n : Nat) (f : Fi → Fi) : (s.updFi n f).cores = s.cores := rfl
@[simp] theorem updFi_m (s : State) (n : Nat) (f : Fi → Fi) : (s.updFi n f).m = s.m := rfl
@[simp] theorem updFi_ns (s : State) (n : Nat) (f : Fi → Fi) : (s.updFi n f).ns = s.ns := rfl
@[simp] theorem updFi_dbar (s : State) (n : Nat) (f : Fi → Fi) : (s.updFi n f).dbar = s.dbar := rfl
@[simp] theorem updFi_devId (s : State) (n : Nat) (f : Fi → Fi) : (s.updFi n f).devId = s.devId := rfl
@[simp] theorem updFi_sv (s : State) (n : Nat) (f : Fi → Fi) : (s.updFi n f).sv = s.sv := rfl
@[simp] theorem updFi_hostAtoms (s : State) (n : Nat) (f : Fi → Fi) : (s.updFi n f).hostAtoms = s.hostAtoms := rfl
@[simp] theorem updFi_peerAsks (s : State) (n : Nat) (f : Fi → Fi) : (s.updFi n f).peerAsks = s.peerAsks := rfl
@[simp] theorem updFi_nextTag (s : State) (n : Nat) (f : Fi → Fi) : (s.updFi n f).nextTag = s.nextTag := rfl
@[simp] theorem updFi_fab (s : State) (n : Nat) (f : Fi → Fi) : (s.updFi n f).fab = s.fab := rfl
@[simp] theorem updFi_cd (s : State) (n : Nat) (f : Fi → Fi) : (s.updFi n f).cd = s.cd := rfl
@[simp] theorem updFi_eng (s : State) (n : Nat) (f : Fi → Fi) : (s.updFi n f).eng = s.eng := rfl
@[simp] theorem updFi_ports (s : State) (n : Nat) (f : Fi → Fi) : (s.updFi n f).ports = s.ports := rfl
@[simp] theorem updFi_hl (s : State) (n : Nat) (f : Fi → Fi) : (s.updFi n f).hl = s.hl := rfl
@[simp] theorem updFi_rv (s : State) (n : Nat) (f : Fi → Fi) : (s.updFi n f).rv = s.rv := rfl
@[simp] theorem updFi_fuseQ (s : State) (n : Nat) (f : Fi → Fi) : (s.updFi n f).fuseQ = s.fuseQ := rfl
@[simp] theorem updFi_off (s : State) (n : Nat) (f : Fi → Fi) : (s.updFi n f).off = s.off := rfl
@[simp] theorem updFi_guard (s : State) (n : Nat) (f : Fi → Fi) : (s.updFi n f).guard = s.guard := rfl

/-! updGate. -/

@[simp] theorem updGate_cycle (s : State) (n i : Nat) (f : GateSet → GateSet) : (s.updGate n i f).cycle = s.cycle := rfl
@[simp] theorem updGate_core (s : State) (n i : Nat) (f : GateSet → GateSet) : (s.updGate n i f).core = s.core := rfl
@[simp] theorem updGate_sq (s : State) (n i : Nat) (f : GateSet → GateSet) : (s.updGate n i f).sq = s.sq := rfl
@[simp] theorem updGate_ev (s : State) (n i : Nat) (f : GateSet → GateSet) : (s.updGate n i f).ev = s.ev := rfl
@[simp] theorem updGate_agenda (s : State) (n i : Nat) (f : GateSet → GateSet) : (s.updGate n i f).agenda = s.agenda := rfl
@[simp] theorem updGate_drawn (s : State) (n i : Nat) (f : GateSet → GateSet) : (s.updGate n i f).drawn = s.drawn := rfl
@[simp] theorem updGate_cores (s : State) (n i : Nat) (f : GateSet → GateSet) : (s.updGate n i f).cores = s.cores := rfl
@[simp] theorem updGate_m (s : State) (n i : Nat) (f : GateSet → GateSet) : (s.updGate n i f).m = s.m := rfl
@[simp] theorem updGate_ns (s : State) (n i : Nat) (f : GateSet → GateSet) : (s.updGate n i f).ns = s.ns := rfl
@[simp] theorem updGate_dbar (s : State) (n i : Nat) (f : GateSet → GateSet) : (s.updGate n i f).dbar = s.dbar := rfl
@[simp] theorem updGate_devId (s : State) (n i : Nat) (f : GateSet → GateSet) : (s.updGate n i f).devId = s.devId := rfl
@[simp] theorem updGate_sv (s : State) (n i : Nat) (f : GateSet → GateSet) : (s.updGate n i f).sv = s.sv := rfl
@[simp] theorem updGate_hostAtoms (s : State) (n i : Nat) (f : GateSet → GateSet) : (s.updGate n i f).hostAtoms = s.hostAtoms := rfl
@[simp] theorem updGate_peerAsks (s : State) (n i : Nat) (f : GateSet → GateSet) : (s.updGate n i f).peerAsks = s.peerAsks := rfl
@[simp] theorem updGate_nextTag (s : State) (n i : Nat) (f : GateSet → GateSet) : (s.updGate n i f).nextTag = s.nextTag := rfl
@[simp] theorem updGate_fab (s : State) (n i : Nat) (f : GateSet → GateSet) : (s.updGate n i f).fab = s.fab := rfl
@[simp] theorem updGate_cd (s : State) (n i : Nat) (f : GateSet → GateSet) : (s.updGate n i f).cd = s.cd := rfl
@[simp] theorem updGate_eng (s : State) (n i : Nat) (f : GateSet → GateSet) : (s.updGate n i f).eng = s.eng := rfl
@[simp] theorem updGate_ports (s : State) (n i : Nat) (f : GateSet → GateSet) : (s.updGate n i f).ports = s.ports := rfl
@[simp] theorem updGate_hl (s : State) (n i : Nat) (f : GateSet → GateSet) : (s.updGate n i f).hl = s.hl := rfl
@[simp] theorem updGate_rv (s : State) (n i : Nat) (f : GateSet → GateSet) : (s.updGate n i f).rv = s.rv := rfl
@[simp] theorem updGate_fuseQ (s : State) (n i : Nat) (f : GateSet → GateSet) : (s.updGate n i f).fuseQ = s.fuseQ := rfl
@[simp] theorem updGate_off (s : State) (n i : Nat) (f : GateSet → GateSet) : (s.updGate n i f).off = s.off := rfl
@[simp] theorem updGate_guard (s : State) (n i : Nat) (f : GateSet → GateSet) : (s.updGate n i f).guard = s.guard := rfl

/-! updSlot. -/

@[simp] theorem updSlot_cycle (s : State) (i : Nat) (f : NestSlot → NestSlot) : (s.updSlot i f).cycle = s.cycle := rfl
@[simp] theorem updSlot_core (s : State) (i : Nat) (f : NestSlot → NestSlot) : (s.updSlot i f).core = s.core := rfl
@[simp] theorem updSlot_sq (s : State) (i : Nat) (f : NestSlot → NestSlot) : (s.updSlot i f).sq = s.sq := rfl
@[simp] theorem updSlot_ev (s : State) (i : Nat) (f : NestSlot → NestSlot) : (s.updSlot i f).ev = s.ev := rfl
@[simp] theorem updSlot_agenda (s : State) (i : Nat) (f : NestSlot → NestSlot) : (s.updSlot i f).agenda = s.agenda := rfl
@[simp] theorem updSlot_drawn (s : State) (i : Nat) (f : NestSlot → NestSlot) : (s.updSlot i f).drawn = s.drawn := rfl
@[simp] theorem updSlot_cores (s : State) (i : Nat) (f : NestSlot → NestSlot) : (s.updSlot i f).cores = s.cores := rfl
@[simp] theorem updSlot_clusters (s : State) (i : Nat) (f : NestSlot → NestSlot) : (s.updSlot i f).clusters = s.clusters := rfl
@[simp] theorem updSlot_m (s : State) (i : Nat) (f : NestSlot → NestSlot) : (s.updSlot i f).m = s.m := rfl
@[simp] theorem updSlot_dbar (s : State) (i : Nat) (f : NestSlot → NestSlot) : (s.updSlot i f).dbar = s.dbar := rfl
@[simp] theorem updSlot_devId (s : State) (i : Nat) (f : NestSlot → NestSlot) : (s.updSlot i f).devId = s.devId := rfl
@[simp] theorem updSlot_sv (s : State) (i : Nat) (f : NestSlot → NestSlot) : (s.updSlot i f).sv = s.sv := rfl
@[simp] theorem updSlot_hostAtoms (s : State) (i : Nat) (f : NestSlot → NestSlot) : (s.updSlot i f).hostAtoms = s.hostAtoms := rfl
@[simp] theorem updSlot_peerAsks (s : State) (i : Nat) (f : NestSlot → NestSlot) : (s.updSlot i f).peerAsks = s.peerAsks := rfl
@[simp] theorem updSlot_nextTag (s : State) (i : Nat) (f : NestSlot → NestSlot) : (s.updSlot i f).nextTag = s.nextTag := rfl
@[simp] theorem updSlot_fab (s : State) (i : Nat) (f : NestSlot → NestSlot) : (s.updSlot i f).fab = s.fab := rfl
@[simp] theorem updSlot_cd (s : State) (i : Nat) (f : NestSlot → NestSlot) : (s.updSlot i f).cd = s.cd := rfl
@[simp] theorem updSlot_eng (s : State) (i : Nat) (f : NestSlot → NestSlot) : (s.updSlot i f).eng = s.eng := rfl
@[simp] theorem updSlot_ports (s : State) (i : Nat) (f : NestSlot → NestSlot) : (s.updSlot i f).ports = s.ports := rfl
@[simp] theorem updSlot_hl (s : State) (i : Nat) (f : NestSlot → NestSlot) : (s.updSlot i f).hl = s.hl := rfl
@[simp] theorem updSlot_rv (s : State) (i : Nat) (f : NestSlot → NestSlot) : (s.updSlot i f).rv = s.rv := rfl
@[simp] theorem updSlot_fuseQ (s : State) (i : Nat) (f : NestSlot → NestSlot) : (s.updSlot i f).fuseQ = s.fuseQ := rfl
@[simp] theorem updSlot_off (s : State) (i : Nat) (f : NestSlot → NestSlot) : (s.updSlot i f).off = s.off := rfl
@[simp] theorem updSlot_guard (s : State) (i : Nat) (f : NestSlot → NestSlot) : (s.updSlot i f).guard = s.guard := rfl

/-! updJob. -/

@[simp] theorem updJob_cycle (s : State) (i : Nat) (f : JobEntry → JobEntry) : (s.updJob i f).cycle = s.cycle := rfl
@[simp] theorem updJob_core (s : State) (i : Nat) (f : JobEntry → JobEntry) : (s.updJob i f).core = s.core := rfl
@[simp] theorem updJob_sq (s : State) (i : Nat) (f : JobEntry → JobEntry) : (s.updJob i f).sq = s.sq := rfl
@[simp] theorem updJob_ev (s : State) (i : Nat) (f : JobEntry → JobEntry) : (s.updJob i f).ev = s.ev := rfl
@[simp] theorem updJob_agenda (s : State) (i : Nat) (f : JobEntry → JobEntry) : (s.updJob i f).agenda = s.agenda := rfl
@[simp] theorem updJob_drawn (s : State) (i : Nat) (f : JobEntry → JobEntry) : (s.updJob i f).drawn = s.drawn := rfl
@[simp] theorem updJob_cores (s : State) (i : Nat) (f : JobEntry → JobEntry) : (s.updJob i f).cores = s.cores := rfl
@[simp] theorem updJob_clusters (s : State) (i : Nat) (f : JobEntry → JobEntry) : (s.updJob i f).clusters = s.clusters := rfl
@[simp] theorem updJob_m (s : State) (i : Nat) (f : JobEntry → JobEntry) : (s.updJob i f).m = s.m := rfl
@[simp] theorem updJob_ns (s : State) (i : Nat) (f : JobEntry → JobEntry) : (s.updJob i f).ns = s.ns := rfl
@[simp] theorem updJob_dbar (s : State) (i : Nat) (f : JobEntry → JobEntry) : (s.updJob i f).dbar = s.dbar := rfl
@[simp] theorem updJob_devId (s : State) (i : Nat) (f : JobEntry → JobEntry) : (s.updJob i f).devId = s.devId := rfl
@[simp] theorem updJob_sv (s : State) (i : Nat) (f : JobEntry → JobEntry) : (s.updJob i f).sv = s.sv := rfl
@[simp] theorem updJob_hostAtoms (s : State) (i : Nat) (f : JobEntry → JobEntry) : (s.updJob i f).hostAtoms = s.hostAtoms := rfl
@[simp] theorem updJob_peerAsks (s : State) (i : Nat) (f : JobEntry → JobEntry) : (s.updJob i f).peerAsks = s.peerAsks := rfl
@[simp] theorem updJob_nextTag (s : State) (i : Nat) (f : JobEntry → JobEntry) : (s.updJob i f).nextTag = s.nextTag := rfl
@[simp] theorem updJob_cd (s : State) (i : Nat) (f : JobEntry → JobEntry) : (s.updJob i f).cd = s.cd := rfl
@[simp] theorem updJob_eng (s : State) (i : Nat) (f : JobEntry → JobEntry) : (s.updJob i f).eng = s.eng := rfl
@[simp] theorem updJob_ports (s : State) (i : Nat) (f : JobEntry → JobEntry) : (s.updJob i f).ports = s.ports := rfl
@[simp] theorem updJob_hl (s : State) (i : Nat) (f : JobEntry → JobEntry) : (s.updJob i f).hl = s.hl := rfl
@[simp] theorem updJob_rv (s : State) (i : Nat) (f : JobEntry → JobEntry) : (s.updJob i f).rv = s.rv := rfl
@[simp] theorem updJob_fuseQ (s : State) (i : Nat) (f : JobEntry → JobEntry) : (s.updJob i f).fuseQ = s.fuseQ := rfl
@[simp] theorem updJob_off (s : State) (i : Nat) (f : JobEntry → JobEntry) : (s.updJob i f).off = s.off := rfl
@[simp] theorem updJob_guard (s : State) (i : Nat) (f : JobEntry → JobEntry) : (s.updJob i f).guard = s.guard := rfl

/-! updLink. -/

@[simp] theorem updLink_cycle (s : State) (i : Nat) (f : Link → Link) : (s.updLink i f).cycle = s.cycle := rfl
@[simp] theorem updLink_core (s : State) (i : Nat) (f : Link → Link) : (s.updLink i f).core = s.core := rfl
@[simp] theorem updLink_sq (s : State) (i : Nat) (f : Link → Link) : (s.updLink i f).sq = s.sq := rfl
@[simp] theorem updLink_ev (s : State) (i : Nat) (f : Link → Link) : (s.updLink i f).ev = s.ev := rfl
@[simp] theorem updLink_agenda (s : State) (i : Nat) (f : Link → Link) : (s.updLink i f).agenda = s.agenda := rfl
@[simp] theorem updLink_drawn (s : State) (i : Nat) (f : Link → Link) : (s.updLink i f).drawn = s.drawn := rfl
@[simp] theorem updLink_cores (s : State) (i : Nat) (f : Link → Link) : (s.updLink i f).cores = s.cores := rfl
@[simp] theorem updLink_clusters (s : State) (i : Nat) (f : Link → Link) : (s.updLink i f).clusters = s.clusters := rfl
@[simp] theorem updLink_m (s : State) (i : Nat) (f : Link → Link) : (s.updLink i f).m = s.m := rfl
@[simp] theorem updLink_ns (s : State) (i : Nat) (f : Link → Link) : (s.updLink i f).ns = s.ns := rfl
@[simp] theorem updLink_dbar (s : State) (i : Nat) (f : Link → Link) : (s.updLink i f).dbar = s.dbar := rfl
@[simp] theorem updLink_devId (s : State) (i : Nat) (f : Link → Link) : (s.updLink i f).devId = s.devId := rfl
@[simp] theorem updLink_sv (s : State) (i : Nat) (f : Link → Link) : (s.updLink i f).sv = s.sv := rfl
@[simp] theorem updLink_hostAtoms (s : State) (i : Nat) (f : Link → Link) : (s.updLink i f).hostAtoms = s.hostAtoms := rfl
@[simp] theorem updLink_peerAsks (s : State) (i : Nat) (f : Link → Link) : (s.updLink i f).peerAsks = s.peerAsks := rfl
@[simp] theorem updLink_nextTag (s : State) (i : Nat) (f : Link → Link) : (s.updLink i f).nextTag = s.nextTag := rfl
@[simp] theorem updLink_cd (s : State) (i : Nat) (f : Link → Link) : (s.updLink i f).cd = s.cd := rfl
@[simp] theorem updLink_eng (s : State) (i : Nat) (f : Link → Link) : (s.updLink i f).eng = s.eng := rfl
@[simp] theorem updLink_ports (s : State) (i : Nat) (f : Link → Link) : (s.updLink i f).ports = s.ports := rfl
@[simp] theorem updLink_hl (s : State) (i : Nat) (f : Link → Link) : (s.updLink i f).hl = s.hl := rfl
@[simp] theorem updLink_rv (s : State) (i : Nat) (f : Link → Link) : (s.updLink i f).rv = s.rv := rfl
@[simp] theorem updLink_fuseQ (s : State) (i : Nat) (f : Link → Link) : (s.updLink i f).fuseQ = s.fuseQ := rfl
@[simp] theorem updLink_off (s : State) (i : Nat) (f : Link → Link) : (s.updLink i f).off = s.off := rfl
@[simp] theorem updLink_guard (s : State) (i : Nat) (f : Link → Link) : (s.updLink i f).guard = s.guard := rfl

/-! updTag. -/

@[simp] theorem updTag_cycle (s : State) (i : Nat) (f : TagEnt → TagEnt) : (s.updTag i f).cycle = s.cycle := rfl
@[simp] theorem updTag_core (s : State) (i : Nat) (f : TagEnt → TagEnt) : (s.updTag i f).core = s.core := rfl
@[simp] theorem updTag_sq (s : State) (i : Nat) (f : TagEnt → TagEnt) : (s.updTag i f).sq = s.sq := rfl
@[simp] theorem updTag_ev (s : State) (i : Nat) (f : TagEnt → TagEnt) : (s.updTag i f).ev = s.ev := rfl
@[simp] theorem updTag_agenda (s : State) (i : Nat) (f : TagEnt → TagEnt) : (s.updTag i f).agenda = s.agenda := rfl
@[simp] theorem updTag_drawn (s : State) (i : Nat) (f : TagEnt → TagEnt) : (s.updTag i f).drawn = s.drawn := rfl
@[simp] theorem updTag_cores (s : State) (i : Nat) (f : TagEnt → TagEnt) : (s.updTag i f).cores = s.cores := rfl
@[simp] theorem updTag_clusters (s : State) (i : Nat) (f : TagEnt → TagEnt) : (s.updTag i f).clusters = s.clusters := rfl
@[simp] theorem updTag_m (s : State) (i : Nat) (f : TagEnt → TagEnt) : (s.updTag i f).m = s.m := rfl
@[simp] theorem updTag_ns (s : State) (i : Nat) (f : TagEnt → TagEnt) : (s.updTag i f).ns = s.ns := rfl
@[simp] theorem updTag_dbar (s : State) (i : Nat) (f : TagEnt → TagEnt) : (s.updTag i f).dbar = s.dbar := rfl
@[simp] theorem updTag_devId (s : State) (i : Nat) (f : TagEnt → TagEnt) : (s.updTag i f).devId = s.devId := rfl
@[simp] theorem updTag_sv (s : State) (i : Nat) (f : TagEnt → TagEnt) : (s.updTag i f).sv = s.sv := rfl
@[simp] theorem updTag_hostAtoms (s : State) (i : Nat) (f : TagEnt → TagEnt) : (s.updTag i f).hostAtoms = s.hostAtoms := rfl
@[simp] theorem updTag_peerAsks (s : State) (i : Nat) (f : TagEnt → TagEnt) : (s.updTag i f).peerAsks = s.peerAsks := rfl
@[simp] theorem updTag_nextTag (s : State) (i : Nat) (f : TagEnt → TagEnt) : (s.updTag i f).nextTag = s.nextTag := rfl
@[simp] theorem updTag_fab (s : State) (i : Nat) (f : TagEnt → TagEnt) : (s.updTag i f).fab = s.fab := rfl
@[simp] theorem updTag_eng (s : State) (i : Nat) (f : TagEnt → TagEnt) : (s.updTag i f).eng = s.eng := rfl
@[simp] theorem updTag_ports (s : State) (i : Nat) (f : TagEnt → TagEnt) : (s.updTag i f).ports = s.ports := rfl
@[simp] theorem updTag_hl (s : State) (i : Nat) (f : TagEnt → TagEnt) : (s.updTag i f).hl = s.hl := rfl
@[simp] theorem updTag_rv (s : State) (i : Nat) (f : TagEnt → TagEnt) : (s.updTag i f).rv = s.rv := rfl
@[simp] theorem updTag_fuseQ (s : State) (i : Nat) (f : TagEnt → TagEnt) : (s.updTag i f).fuseQ = s.fuseQ := rfl
@[simp] theorem updTag_off (s : State) (i : Nat) (f : TagEnt → TagEnt) : (s.updTag i f).off = s.off := rfl
@[simp] theorem updTag_guard (s : State) (i : Nat) (f : TagEnt → TagEnt) : (s.updTag i f).guard = s.guard := rfl

/-! updCopyOf. -/

@[simp] theorem updCopyOf_cycle (s : State) (i : Nat) (b : Bool) (f : ExpertCopy → ExpertCopy) : (s.updCopyOf i b f).cycle = s.cycle := rfl
@[simp] theorem updCopyOf_core (s : State) (i : Nat) (b : Bool) (f : ExpertCopy → ExpertCopy) : (s.updCopyOf i b f).core = s.core := rfl
@[simp] theorem updCopyOf_sq (s : State) (i : Nat) (b : Bool) (f : ExpertCopy → ExpertCopy) : (s.updCopyOf i b f).sq = s.sq := rfl
@[simp] theorem updCopyOf_ev (s : State) (i : Nat) (b : Bool) (f : ExpertCopy → ExpertCopy) : (s.updCopyOf i b f).ev = s.ev := rfl
@[simp] theorem updCopyOf_agenda (s : State) (i : Nat) (b : Bool) (f : ExpertCopy → ExpertCopy) : (s.updCopyOf i b f).agenda = s.agenda := rfl
@[simp] theorem updCopyOf_drawn (s : State) (i : Nat) (b : Bool) (f : ExpertCopy → ExpertCopy) : (s.updCopyOf i b f).drawn = s.drawn := rfl
@[simp] theorem updCopyOf_cores (s : State) (i : Nat) (b : Bool) (f : ExpertCopy → ExpertCopy) : (s.updCopyOf i b f).cores = s.cores := rfl
@[simp] theorem updCopyOf_clusters (s : State) (i : Nat) (b : Bool) (f : ExpertCopy → ExpertCopy) : (s.updCopyOf i b f).clusters = s.clusters := rfl
@[simp] theorem updCopyOf_m (s : State) (i : Nat) (b : Bool) (f : ExpertCopy → ExpertCopy) : (s.updCopyOf i b f).m = s.m := rfl
@[simp] theorem updCopyOf_ns (s : State) (i : Nat) (b : Bool) (f : ExpertCopy → ExpertCopy) : (s.updCopyOf i b f).ns = s.ns := rfl
@[simp] theorem updCopyOf_dbar (s : State) (i : Nat) (b : Bool) (f : ExpertCopy → ExpertCopy) : (s.updCopyOf i b f).dbar = s.dbar := rfl
@[simp] theorem updCopyOf_devId (s : State) (i : Nat) (b : Bool) (f : ExpertCopy → ExpertCopy) : (s.updCopyOf i b f).devId = s.devId := rfl
@[simp] theorem updCopyOf_sv (s : State) (i : Nat) (b : Bool) (f : ExpertCopy → ExpertCopy) : (s.updCopyOf i b f).sv = s.sv := rfl
@[simp] theorem updCopyOf_hostAtoms (s : State) (i : Nat) (b : Bool) (f : ExpertCopy → ExpertCopy) : (s.updCopyOf i b f).hostAtoms = s.hostAtoms := rfl
@[simp] theorem updCopyOf_peerAsks (s : State) (i : Nat) (b : Bool) (f : ExpertCopy → ExpertCopy) : (s.updCopyOf i b f).peerAsks = s.peerAsks := rfl
@[simp] theorem updCopyOf_nextTag (s : State) (i : Nat) (b : Bool) (f : ExpertCopy → ExpertCopy) : (s.updCopyOf i b f).nextTag = s.nextTag := rfl
@[simp] theorem updCopyOf_fab (s : State) (i : Nat) (b : Bool) (f : ExpertCopy → ExpertCopy) : (s.updCopyOf i b f).fab = s.fab := rfl
@[simp] theorem updCopyOf_eng (s : State) (i : Nat) (b : Bool) (f : ExpertCopy → ExpertCopy) : (s.updCopyOf i b f).eng = s.eng := rfl
@[simp] theorem updCopyOf_ports (s : State) (i : Nat) (b : Bool) (f : ExpertCopy → ExpertCopy) : (s.updCopyOf i b f).ports = s.ports := rfl
@[simp] theorem updCopyOf_hl (s : State) (i : Nat) (b : Bool) (f : ExpertCopy → ExpertCopy) : (s.updCopyOf i b f).hl = s.hl := rfl
@[simp] theorem updCopyOf_rv (s : State) (i : Nat) (b : Bool) (f : ExpertCopy → ExpertCopy) : (s.updCopyOf i b f).rv = s.rv := rfl
@[simp] theorem updCopyOf_fuseQ (s : State) (i : Nat) (b : Bool) (f : ExpertCopy → ExpertCopy) : (s.updCopyOf i b f).fuseQ = s.fuseQ := rfl
@[simp] theorem updCopyOf_off (s : State) (i : Nat) (b : Bool) (f : ExpertCopy → ExpertCopy) : (s.updCopyOf i b f).off = s.off := rfl
@[simp] theorem updCopyOf_guard (s : State) (i : Nat) (b : Bool) (f : ExpertCopy → ExpertCopy) : (s.updCopyOf i b f).guard = s.guard := rfl

/-! setCtx. -/

@[simp] theorem setCtx_cycle (s : State) (i : Nat) (c : SqCtx) : (s.setCtx i c).cycle = s.cycle := rfl
@[simp] theorem setCtx_core (s : State) (i : Nat) (c : SqCtx) : (s.setCtx i c).core = s.core := rfl
@[simp] theorem setCtx_sq (s : State) (i : Nat) (c : SqCtx) : (s.setCtx i c).sq = s.sq := rfl
@[simp] theorem setCtx_ev (s : State) (i : Nat) (c : SqCtx) : (s.setCtx i c).ev = s.ev := rfl
@[simp] theorem setCtx_agenda (s : State) (i : Nat) (c : SqCtx) : (s.setCtx i c).agenda = s.agenda := rfl
@[simp] theorem setCtx_drawn (s : State) (i : Nat) (c : SqCtx) : (s.setCtx i c).drawn = s.drawn := rfl
@[simp] theorem setCtx_cores (s : State) (i : Nat) (c : SqCtx) : (s.setCtx i c).cores = s.cores := rfl
@[simp] theorem setCtx_clusters (s : State) (i : Nat) (c : SqCtx) : (s.setCtx i c).clusters = s.clusters := rfl
@[simp] theorem setCtx_m (s : State) (i : Nat) (c : SqCtx) : (s.setCtx i c).m = s.m := rfl
@[simp] theorem setCtx_ns (s : State) (i : Nat) (c : SqCtx) : (s.setCtx i c).ns = s.ns := rfl
@[simp] theorem setCtx_dbar (s : State) (i : Nat) (c : SqCtx) : (s.setCtx i c).dbar = s.dbar := rfl
@[simp] theorem setCtx_devId (s : State) (i : Nat) (c : SqCtx) : (s.setCtx i c).devId = s.devId := rfl
@[simp] theorem setCtx_sv (s : State) (i : Nat) (c : SqCtx) : (s.setCtx i c).sv = s.sv := rfl
@[simp] theorem setCtx_hostAtoms (s : State) (i : Nat) (c : SqCtx) : (s.setCtx i c).hostAtoms = s.hostAtoms := rfl
@[simp] theorem setCtx_peerAsks (s : State) (i : Nat) (c : SqCtx) : (s.setCtx i c).peerAsks = s.peerAsks := rfl
@[simp] theorem setCtx_nextTag (s : State) (i : Nat) (c : SqCtx) : (s.setCtx i c).nextTag = s.nextTag := rfl
@[simp] theorem setCtx_fab (s : State) (i : Nat) (c : SqCtx) : (s.setCtx i c).fab = s.fab := rfl
@[simp] theorem setCtx_cd (s : State) (i : Nat) (c : SqCtx) : (s.setCtx i c).cd = s.cd := rfl
@[simp] theorem setCtx_ports (s : State) (i : Nat) (c : SqCtx) : (s.setCtx i c).ports = s.ports := rfl
@[simp] theorem setCtx_hl (s : State) (i : Nat) (c : SqCtx) : (s.setCtx i c).hl = s.hl := rfl
@[simp] theorem setCtx_rv (s : State) (i : Nat) (c : SqCtx) : (s.setCtx i c).rv = s.rv := rfl
@[simp] theorem setCtx_fuseQ (s : State) (i : Nat) (c : SqCtx) : (s.setCtx i c).fuseQ = s.fuseQ := rfl
@[simp] theorem setCtx_off (s : State) (i : Nat) (c : SqCtx) : (s.setCtx i c).off = s.off := rfl
@[simp] theorem setCtx_guard (s : State) (i : Nat) (c : SqCtx) : (s.setCtx i c).guard = s.guard := rfl

/-! updPort. -/

@[simp] theorem updPort_cycle (s : State) (i : Nat) (f : Port → Port) : (s.updPort i f).cycle = s.cycle := rfl
@[simp] theorem updPort_core (s : State) (i : Nat) (f : Port → Port) : (s.updPort i f).core = s.core := rfl
@[simp] theorem updPort_sq (s : State) (i : Nat) (f : Port → Port) : (s.updPort i f).sq = s.sq := rfl
@[simp] theorem updPort_ev (s : State) (i : Nat) (f : Port → Port) : (s.updPort i f).ev = s.ev := rfl
@[simp] theorem updPort_agenda (s : State) (i : Nat) (f : Port → Port) : (s.updPort i f).agenda = s.agenda := rfl
@[simp] theorem updPort_drawn (s : State) (i : Nat) (f : Port → Port) : (s.updPort i f).drawn = s.drawn := rfl
@[simp] theorem updPort_cores (s : State) (i : Nat) (f : Port → Port) : (s.updPort i f).cores = s.cores := rfl
@[simp] theorem updPort_clusters (s : State) (i : Nat) (f : Port → Port) : (s.updPort i f).clusters = s.clusters := rfl
@[simp] theorem updPort_m (s : State) (i : Nat) (f : Port → Port) : (s.updPort i f).m = s.m := rfl
@[simp] theorem updPort_ns (s : State) (i : Nat) (f : Port → Port) : (s.updPort i f).ns = s.ns := rfl
@[simp] theorem updPort_dbar (s : State) (i : Nat) (f : Port → Port) : (s.updPort i f).dbar = s.dbar := rfl
@[simp] theorem updPort_devId (s : State) (i : Nat) (f : Port → Port) : (s.updPort i f).devId = s.devId := rfl
@[simp] theorem updPort_sv (s : State) (i : Nat) (f : Port → Port) : (s.updPort i f).sv = s.sv := rfl
@[simp] theorem updPort_hostAtoms (s : State) (i : Nat) (f : Port → Port) : (s.updPort i f).hostAtoms = s.hostAtoms := rfl
@[simp] theorem updPort_peerAsks (s : State) (i : Nat) (f : Port → Port) : (s.updPort i f).peerAsks = s.peerAsks := rfl
@[simp] theorem updPort_nextTag (s : State) (i : Nat) (f : Port → Port) : (s.updPort i f).nextTag = s.nextTag := rfl
@[simp] theorem updPort_fab (s : State) (i : Nat) (f : Port → Port) : (s.updPort i f).fab = s.fab := rfl
@[simp] theorem updPort_cd (s : State) (i : Nat) (f : Port → Port) : (s.updPort i f).cd = s.cd := rfl
@[simp] theorem updPort_eng (s : State) (i : Nat) (f : Port → Port) : (s.updPort i f).eng = s.eng := rfl
@[simp] theorem updPort_hl (s : State) (i : Nat) (f : Port → Port) : (s.updPort i f).hl = s.hl := rfl
@[simp] theorem updPort_rv (s : State) (i : Nat) (f : Port → Port) : (s.updPort i f).rv = s.rv := rfl
@[simp] theorem updPort_fuseQ (s : State) (i : Nat) (f : Port → Port) : (s.updPort i f).fuseQ = s.fuseQ := rfl
@[simp] theorem updPort_off (s : State) (i : Nat) (f : Port → Port) : (s.updPort i f).off = s.off := rfl
@[simp] theorem updPort_guard (s : State) (i : Nat) (f : Port → Port) : (s.updPort i f).guard = s.guard := rfl

/-! updHl. -/

@[simp] theorem updHl_cycle (s : State) (f : HostLink → HostLink) : (s.updHl f).cycle = s.cycle := rfl
@[simp] theorem updHl_core (s : State) (f : HostLink → HostLink) : (s.updHl f).core = s.core := rfl
@[simp] theorem updHl_sq (s : State) (f : HostLink → HostLink) : (s.updHl f).sq = s.sq := rfl
@[simp] theorem updHl_ev (s : State) (f : HostLink → HostLink) : (s.updHl f).ev = s.ev := rfl
@[simp] theorem updHl_agenda (s : State) (f : HostLink → HostLink) : (s.updHl f).agenda = s.agenda := rfl
@[simp] theorem updHl_drawn (s : State) (f : HostLink → HostLink) : (s.updHl f).drawn = s.drawn := rfl
@[simp] theorem updHl_cores (s : State) (f : HostLink → HostLink) : (s.updHl f).cores = s.cores := rfl
@[simp] theorem updHl_clusters (s : State) (f : HostLink → HostLink) : (s.updHl f).clusters = s.clusters := rfl
@[simp] theorem updHl_m (s : State) (f : HostLink → HostLink) : (s.updHl f).m = s.m := rfl
@[simp] theorem updHl_ns (s : State) (f : HostLink → HostLink) : (s.updHl f).ns = s.ns := rfl
@[simp] theorem updHl_dbar (s : State) (f : HostLink → HostLink) : (s.updHl f).dbar = s.dbar := rfl
@[simp] theorem updHl_devId (s : State) (f : HostLink → HostLink) : (s.updHl f).devId = s.devId := rfl
@[simp] theorem updHl_sv (s : State) (f : HostLink → HostLink) : (s.updHl f).sv = s.sv := rfl
@[simp] theorem updHl_hostAtoms (s : State) (f : HostLink → HostLink) : (s.updHl f).hostAtoms = s.hostAtoms := rfl
@[simp] theorem updHl_peerAsks (s : State) (f : HostLink → HostLink) : (s.updHl f).peerAsks = s.peerAsks := rfl
@[simp] theorem updHl_nextTag (s : State) (f : HostLink → HostLink) : (s.updHl f).nextTag = s.nextTag := rfl
@[simp] theorem updHl_fab (s : State) (f : HostLink → HostLink) : (s.updHl f).fab = s.fab := rfl
@[simp] theorem updHl_cd (s : State) (f : HostLink → HostLink) : (s.updHl f).cd = s.cd := rfl
@[simp] theorem updHl_eng (s : State) (f : HostLink → HostLink) : (s.updHl f).eng = s.eng := rfl
@[simp] theorem updHl_ports (s : State) (f : HostLink → HostLink) : (s.updHl f).ports = s.ports := rfl
@[simp] theorem updHl_rv (s : State) (f : HostLink → HostLink) : (s.updHl f).rv = s.rv := rfl
@[simp] theorem updHl_fuseQ (s : State) (f : HostLink → HostLink) : (s.updHl f).fuseQ = s.fuseQ := rfl
@[simp] theorem updHl_off (s : State) (f : HostLink → HostLink) : (s.updHl f).off = s.off := rfl
@[simp] theorem updHl_guard (s : State) (f : HostLink → HostLink) : (s.updHl f).guard = s.guard := rfl

/-! updRing. -/

@[simp] theorem updRing_cycle (s : State) (r : Nat) (f : Ring → Ring) : (s.updRing r f).cycle = s.cycle := rfl
@[simp] theorem updRing_core (s : State) (r : Nat) (f : Ring → Ring) : (s.updRing r f).core = s.core := rfl
@[simp] theorem updRing_sq (s : State) (r : Nat) (f : Ring → Ring) : (s.updRing r f).sq = s.sq := rfl
@[simp] theorem updRing_ev (s : State) (r : Nat) (f : Ring → Ring) : (s.updRing r f).ev = s.ev := rfl
@[simp] theorem updRing_agenda (s : State) (r : Nat) (f : Ring → Ring) : (s.updRing r f).agenda = s.agenda := rfl
@[simp] theorem updRing_drawn (s : State) (r : Nat) (f : Ring → Ring) : (s.updRing r f).drawn = s.drawn := rfl
@[simp] theorem updRing_cores (s : State) (r : Nat) (f : Ring → Ring) : (s.updRing r f).cores = s.cores := rfl
@[simp] theorem updRing_clusters (s : State) (r : Nat) (f : Ring → Ring) : (s.updRing r f).clusters = s.clusters := rfl
@[simp] theorem updRing_m (s : State) (r : Nat) (f : Ring → Ring) : (s.updRing r f).m = s.m := rfl
@[simp] theorem updRing_ns (s : State) (r : Nat) (f : Ring → Ring) : (s.updRing r f).ns = s.ns := rfl
@[simp] theorem updRing_dbar (s : State) (r : Nat) (f : Ring → Ring) : (s.updRing r f).dbar = s.dbar := rfl
@[simp] theorem updRing_devId (s : State) (r : Nat) (f : Ring → Ring) : (s.updRing r f).devId = s.devId := rfl
@[simp] theorem updRing_sv (s : State) (r : Nat) (f : Ring → Ring) : (s.updRing r f).sv = s.sv := rfl
@[simp] theorem updRing_hostAtoms (s : State) (r : Nat) (f : Ring → Ring) : (s.updRing r f).hostAtoms = s.hostAtoms := rfl
@[simp] theorem updRing_peerAsks (s : State) (r : Nat) (f : Ring → Ring) : (s.updRing r f).peerAsks = s.peerAsks := rfl
@[simp] theorem updRing_nextTag (s : State) (r : Nat) (f : Ring → Ring) : (s.updRing r f).nextTag = s.nextTag := rfl
@[simp] theorem updRing_fab (s : State) (r : Nat) (f : Ring → Ring) : (s.updRing r f).fab = s.fab := rfl
@[simp] theorem updRing_cd (s : State) (r : Nat) (f : Ring → Ring) : (s.updRing r f).cd = s.cd := rfl
@[simp] theorem updRing_eng (s : State) (r : Nat) (f : Ring → Ring) : (s.updRing r f).eng = s.eng := rfl
@[simp] theorem updRing_ports (s : State) (r : Nat) (f : Ring → Ring) : (s.updRing r f).ports = s.ports := rfl
@[simp] theorem updRing_rv (s : State) (r : Nat) (f : Ring → Ring) : (s.updRing r f).rv = s.rv := rfl
@[simp] theorem updRing_fuseQ (s : State) (r : Nat) (f : Ring → Ring) : (s.updRing r f).fuseQ = s.fuseQ := rfl
@[simp] theorem updRing_off (s : State) (r : Nat) (f : Ring → Ring) : (s.updRing r f).off = s.off := rfl
@[simp] theorem updRing_guard (s : State) (r : Nat) (f : Ring → Ring) : (s.updRing r f).guard = s.guard := rfl

/-! updRv. -/

@[simp] theorem updRv_cycle (s : State) (f : Riscv → Riscv) : (s.updRv f).cycle = s.cycle := rfl
@[simp] theorem updRv_core (s : State) (f : Riscv → Riscv) : (s.updRv f).core = s.core := rfl
@[simp] theorem updRv_sq (s : State) (f : Riscv → Riscv) : (s.updRv f).sq = s.sq := rfl
@[simp] theorem updRv_ev (s : State) (f : Riscv → Riscv) : (s.updRv f).ev = s.ev := rfl
@[simp] theorem updRv_agenda (s : State) (f : Riscv → Riscv) : (s.updRv f).agenda = s.agenda := rfl
@[simp] theorem updRv_drawn (s : State) (f : Riscv → Riscv) : (s.updRv f).drawn = s.drawn := rfl
@[simp] theorem updRv_cores (s : State) (f : Riscv → Riscv) : (s.updRv f).cores = s.cores := rfl
@[simp] theorem updRv_clusters (s : State) (f : Riscv → Riscv) : (s.updRv f).clusters = s.clusters := rfl
@[simp] theorem updRv_m (s : State) (f : Riscv → Riscv) : (s.updRv f).m = s.m := rfl
@[simp] theorem updRv_ns (s : State) (f : Riscv → Riscv) : (s.updRv f).ns = s.ns := rfl
@[simp] theorem updRv_dbar (s : State) (f : Riscv → Riscv) : (s.updRv f).dbar = s.dbar := rfl
@[simp] theorem updRv_devId (s : State) (f : Riscv → Riscv) : (s.updRv f).devId = s.devId := rfl
@[simp] theorem updRv_sv (s : State) (f : Riscv → Riscv) : (s.updRv f).sv = s.sv := rfl
@[simp] theorem updRv_hostAtoms (s : State) (f : Riscv → Riscv) : (s.updRv f).hostAtoms = s.hostAtoms := rfl
@[simp] theorem updRv_peerAsks (s : State) (f : Riscv → Riscv) : (s.updRv f).peerAsks = s.peerAsks := rfl
@[simp] theorem updRv_nextTag (s : State) (f : Riscv → Riscv) : (s.updRv f).nextTag = s.nextTag := rfl
@[simp] theorem updRv_fab (s : State) (f : Riscv → Riscv) : (s.updRv f).fab = s.fab := rfl
@[simp] theorem updRv_cd (s : State) (f : Riscv → Riscv) : (s.updRv f).cd = s.cd := rfl
@[simp] theorem updRv_eng (s : State) (f : Riscv → Riscv) : (s.updRv f).eng = s.eng := rfl
@[simp] theorem updRv_ports (s : State) (f : Riscv → Riscv) : (s.updRv f).ports = s.ports := rfl
@[simp] theorem updRv_hl (s : State) (f : Riscv → Riscv) : (s.updRv f).hl = s.hl := rfl
@[simp] theorem updRv_fuseQ (s : State) (f : Riscv → Riscv) : (s.updRv f).fuseQ = s.fuseQ := rfl
@[simp] theorem updRv_off (s : State) (f : Riscv → Riscv) : (s.updRv f).off = s.off := rfl
@[simp] theorem updRv_guard (s : State) (f : Riscv → Riscv) : (s.updRv f).guard = s.guard := rfl

/-! setSem. -/

@[simp] theorem setSem_cycle (s : State) (c : Nat) (b : Bool) (n : Nat) (v : BitVec 48) : (s.setSem c b n v).cycle = s.cycle := by cases b <;> rfl
@[simp] theorem setSem_core (s : State) (c : Nat) (b : Bool) (n : Nat) (v : BitVec 48) : (s.setSem c b n v).core = s.core := by cases b <;> rfl
@[simp] theorem setSem_sq (s : State) (c : Nat) (b : Bool) (n : Nat) (v : BitVec 48) : (s.setSem c b n v).sq = s.sq := by cases b <;> rfl
@[simp] theorem setSem_ev (s : State) (c : Nat) (b : Bool) (n : Nat) (v : BitVec 48) : (s.setSem c b n v).ev = s.ev := by cases b <;> rfl
@[simp] theorem setSem_agenda (s : State) (c : Nat) (b : Bool) (n : Nat) (v : BitVec 48) : (s.setSem c b n v).agenda = s.agenda := by cases b <;> rfl
@[simp] theorem setSem_drawn (s : State) (c : Nat) (b : Bool) (n : Nat) (v : BitVec 48) : (s.setSem c b n v).drawn = s.drawn := by cases b <;> rfl
@[simp] theorem setSem_m (s : State) (c : Nat) (b : Bool) (n : Nat) (v : BitVec 48) : (s.setSem c b n v).m = s.m := by cases b <;> rfl
@[simp] theorem setSem_ns (s : State) (c : Nat) (b : Bool) (n : Nat) (v : BitVec 48) : (s.setSem c b n v).ns = s.ns := by cases b <;> rfl
@[simp] theorem setSem_dbar (s : State) (c : Nat) (b : Bool) (n : Nat) (v : BitVec 48) : (s.setSem c b n v).dbar = s.dbar := by cases b <;> rfl
@[simp] theorem setSem_devId (s : State) (c : Nat) (b : Bool) (n : Nat) (v : BitVec 48) : (s.setSem c b n v).devId = s.devId := by cases b <;> rfl
@[simp] theorem setSem_sv (s : State) (c : Nat) (b : Bool) (n : Nat) (v : BitVec 48) : (s.setSem c b n v).sv = s.sv := by cases b <;> rfl
@[simp] theorem setSem_hostAtoms (s : State) (c : Nat) (b : Bool) (n : Nat) (v : BitVec 48) : (s.setSem c b n v).hostAtoms = s.hostAtoms := by cases b <;> rfl
@[simp] theorem setSem_peerAsks (s : State) (c : Nat) (b : Bool) (n : Nat) (v : BitVec 48) : (s.setSem c b n v).peerAsks = s.peerAsks := by cases b <;> rfl
@[simp] theorem setSem_nextTag (s : State) (c : Nat) (b : Bool) (n : Nat) (v : BitVec 48) : (s.setSem c b n v).nextTag = s.nextTag := by cases b <;> rfl
@[simp] theorem setSem_fab (s : State) (c : Nat) (b : Bool) (n : Nat) (v : BitVec 48) : (s.setSem c b n v).fab = s.fab := by cases b <;> rfl
@[simp] theorem setSem_cd (s : State) (c : Nat) (b : Bool) (n : Nat) (v : BitVec 48) : (s.setSem c b n v).cd = s.cd := by cases b <;> rfl
@[simp] theorem setSem_eng (s : State) (c : Nat) (b : Bool) (n : Nat) (v : BitVec 48) : (s.setSem c b n v).eng = s.eng := by cases b <;> rfl
@[simp] theorem setSem_ports (s : State) (c : Nat) (b : Bool) (n : Nat) (v : BitVec 48) : (s.setSem c b n v).ports = s.ports := by cases b <;> rfl
@[simp] theorem setSem_hl (s : State) (c : Nat) (b : Bool) (n : Nat) (v : BitVec 48) : (s.setSem c b n v).hl = s.hl := by cases b <;> rfl
@[simp] theorem setSem_rv (s : State) (c : Nat) (b : Bool) (n : Nat) (v : BitVec 48) : (s.setSem c b n v).rv = s.rv := by cases b <;> rfl
@[simp] theorem setSem_fuseQ (s : State) (c : Nat) (b : Bool) (n : Nat) (v : BitVec 48) : (s.setSem c b n v).fuseQ = s.fuseQ := by cases b <;> rfl
@[simp] theorem setSem_off (s : State) (c : Nat) (b : Bool) (n : Nat) (v : BitVec 48) : (s.setSem c b n v).off = s.off := by cases b <;> rfl

/-! updBarrier. -/

@[simp] theorem updBarrier_cycle (s : State) (n : Nat) (d : Bool) (i : Nat) (f : Barrier → Barrier) : (s.updBarrier n d i f).cycle = s.cycle := by cases d <;> rfl
@[simp] theorem updBarrier_core (s : State) (n : Nat) (d : Bool) (i : Nat) (f : Barrier → Barrier) : (s.updBarrier n d i f).core = s.core := by cases d <;> rfl
@[simp] theorem updBarrier_sq (s : State) (n : Nat) (d : Bool) (i : Nat) (f : Barrier → Barrier) : (s.updBarrier n d i f).sq = s.sq := by cases d <;> rfl
@[simp] theorem updBarrier_ev (s : State) (n : Nat) (d : Bool) (i : Nat) (f : Barrier → Barrier) : (s.updBarrier n d i f).ev = s.ev := by cases d <;> rfl
@[simp] theorem updBarrier_agenda (s : State) (n : Nat) (d : Bool) (i : Nat) (f : Barrier → Barrier) : (s.updBarrier n d i f).agenda = s.agenda := by cases d <;> rfl
@[simp] theorem updBarrier_drawn (s : State) (n : Nat) (d : Bool) (i : Nat) (f : Barrier → Barrier) : (s.updBarrier n d i f).drawn = s.drawn := by cases d <;> rfl
@[simp] theorem updBarrier_cores (s : State) (n : Nat) (d : Bool) (i : Nat) (f : Barrier → Barrier) : (s.updBarrier n d i f).cores = s.cores := by cases d <;> rfl
@[simp] theorem updBarrier_m (s : State) (n : Nat) (d : Bool) (i : Nat) (f : Barrier → Barrier) : (s.updBarrier n d i f).m = s.m := by cases d <;> rfl
@[simp] theorem updBarrier_ns (s : State) (n : Nat) (d : Bool) (i : Nat) (f : Barrier → Barrier) : (s.updBarrier n d i f).ns = s.ns := by cases d <;> rfl
@[simp] theorem updBarrier_devId (s : State) (n : Nat) (d : Bool) (i : Nat) (f : Barrier → Barrier) : (s.updBarrier n d i f).devId = s.devId := by cases d <;> rfl
@[simp] theorem updBarrier_sv (s : State) (n : Nat) (d : Bool) (i : Nat) (f : Barrier → Barrier) : (s.updBarrier n d i f).sv = s.sv := by cases d <;> rfl
@[simp] theorem updBarrier_hostAtoms (s : State) (n : Nat) (d : Bool) (i : Nat) (f : Barrier → Barrier) : (s.updBarrier n d i f).hostAtoms = s.hostAtoms := by cases d <;> rfl
@[simp] theorem updBarrier_peerAsks (s : State) (n : Nat) (d : Bool) (i : Nat) (f : Barrier → Barrier) : (s.updBarrier n d i f).peerAsks = s.peerAsks := by cases d <;> rfl
@[simp] theorem updBarrier_nextTag (s : State) (n : Nat) (d : Bool) (i : Nat) (f : Barrier → Barrier) : (s.updBarrier n d i f).nextTag = s.nextTag := by cases d <;> rfl
@[simp] theorem updBarrier_fab (s : State) (n : Nat) (d : Bool) (i : Nat) (f : Barrier → Barrier) : (s.updBarrier n d i f).fab = s.fab := by cases d <;> rfl
@[simp] theorem updBarrier_cd (s : State) (n : Nat) (d : Bool) (i : Nat) (f : Barrier → Barrier) : (s.updBarrier n d i f).cd = s.cd := by cases d <;> rfl
@[simp] theorem updBarrier_eng (s : State) (n : Nat) (d : Bool) (i : Nat) (f : Barrier → Barrier) : (s.updBarrier n d i f).eng = s.eng := by cases d <;> rfl
@[simp] theorem updBarrier_ports (s : State) (n : Nat) (d : Bool) (i : Nat) (f : Barrier → Barrier) : (s.updBarrier n d i f).ports = s.ports := by cases d <;> rfl
@[simp] theorem updBarrier_hl (s : State) (n : Nat) (d : Bool) (i : Nat) (f : Barrier → Barrier) : (s.updBarrier n d i f).hl = s.hl := by cases d <;> rfl
@[simp] theorem updBarrier_rv (s : State) (n : Nat) (d : Bool) (i : Nat) (f : Barrier → Barrier) : (s.updBarrier n d i f).rv = s.rv := by cases d <;> rfl
@[simp] theorem updBarrier_fuseQ (s : State) (n : Nat) (d : Bool) (i : Nat) (f : Barrier → Barrier) : (s.updBarrier n d i f).fuseQ = s.fuseQ := by cases d <;> rfl
@[simp] theorem updBarrier_off (s : State) (n : Nat) (d : Bool) (i : Nat) (f : Barrier → Barrier) : (s.updBarrier n d i f).off = s.off := by cases d <;> rfl

/-! Readers of the changed part. -/

theorem coreOf_setCore (s : State) (c : Nat) (k : Core) (d : Nat) : (s.setCore c k).coreOf d = if d = c then k else s.coreOf d :=
  by simp only [State.coreOf, State.setCore, get_put]
@[simp] theorem coreOf_setCore_same (s : State) (c : Nat) (k : Core) : (s.setCore c k).coreOf c = k := by simp [coreOf_setCore]
theorem coreOf_updCore (s : State) (c : Nat) (f : Core → Core) (d : Nat) :
    (s.updCore c f).coreOf d = if d = c then f (s.coreOf c) else s.coreOf d := coreOf_setCore s c _ d
@[simp] theorem coreOf_updCore_same (s : State) (c : Nat) (f : Core → Core) : (s.updCore c f).coreOf c = f (s.coreOf c) := by
  simp [coreOf_updCore]
theorem coreOf_other {s t : State} (h : t.cores = s.cores) (c : Nat) : t.coreOf c = s.coreOf c := by
  simp only [State.coreOf, h]
@[simp] theorem setCore_setCore (s : State) (c : Nat) (k l : Core) : (s.setCore c k).setCore c l = s.setCore c l := by
  simp [State.setCore]
@[simp] theorem updCore_updCore (s : State) (c : Nat) (f g : Core → Core) :
    (s.updCore c f).updCore c g = s.updCore c fun k => g (f k) := by simp [State.updCore]
theorem clusterAt_updCluster (s : State) (n : Nat) (f : Cluster → Cluster) (d : Nat) :
    (s.updCluster n f).clusterAt d = if d = n then f (s.clusterAt n) else s.clusterAt d := by
  simp only [State.clusterAt, State.updCluster, get_put]
@[simp] theorem clusterAt_updCluster_same (s : State) (n : Nat) (f : Cluster → Cluster) :
    (s.updCluster n f).clusterAt n = f (s.clusterAt n) := by simp [clusterAt_updCluster]
@[simp] theorem updCluster_updCluster (s : State) (n : Nat) (f g : Cluster → Cluster) :
    (s.updCluster n f).updCluster n g = s.updCluster n fun k => g (f k) := by simp [State.updCluster, State.clusterAt]
@[simp] theorem coreOf_updCluster (s : State) (n : Nat) (f : Cluster → Cluster) (c : Nat) :
    (s.updCluster n f).coreOf c = s.coreOf c := rfl
@[simp] theorem clusterAt_updCore (s : State) (c : Nat) (f : Core → Core) (n : Nat) :
    (s.updCore c f).clusterAt n = s.clusterAt n := rfl
theorem fi_updFi (s : State) (n : Nat) (f : Fi → Fi) (d : Nat) : (s.updFi n f).fi d = if d = n then f (s.fi n) else s.fi d := by
  simp only [State.fi, State.updFi, clusterAt_updCluster]; split <;> rfl
theorem slot_updSlot (s : State) (i : Nat) (f : NestSlot → NestSlot) (j : Nat) :
    (s.updSlot i f).slot j = if j = i then f (s.slot i) else s.slot j := by
  simp only [State.slot, State.updSlot, get_put]
theorem jobAt_updJob (s : State) (i : Nat) (f : JobEntry → JobEntry) (j : Nat) :
    (s.updJob i f).jobAt j = if j = i then f (s.jobAt i) else s.jobAt j := by
  simp only [State.jobAt, State.updJob, get_put]
theorem link_updLink (s : State) (i : Nat) (f : Link → Link) (j : Nat) :
    (s.updLink i f).link j = if j = i then f (s.link i) else s.link j := by
  simp only [State.link, State.updLink, get_put]
theorem tag_updTag (s : State) (i : Nat) (f : TagEnt → TagEnt) (j : Nat) :
    (s.updTag i f).tag j = if j = i then f (s.tag i) else s.tag j := by
  simp only [State.tag, State.updTag, get_put]
theorem ctxAt_setCtx (s : State) (i : Nat) (c : SqCtx) (j : Nat) : (s.setCtx i c).ctxAt j = if j = i then c else s.ctxAt j := by
  simp only [State.ctxAt, State.setCtx, get_put]
theorem port_updPort (s : State) (i : Nat) (f : Port → Port) (j : Nat) :
    (s.updPort i f).port j = if j = i then f (s.port i) else s.port j := by
  simp only [State.port, State.updPort, get_upd]
theorem ring_updRing (s : State) (i : Nat) (f : Ring → Ring) (j : Nat) :
    (s.updRing i f).ring j = if j = i then f (s.ring i) else s.ring j := by
  simp only [State.ring, State.updRing, State.updHl, get_upd]
@[simp] theorem updHl_hl (s : State) (f : HostLink → HostLink) : (s.updHl f).hl = f s.hl := rfl
@[simp] theorem updRv_rv (s : State) (f : Riscv → Riscv) : (s.updRv f).rv = f s.rv := rfl
@[simp] theorem reset_coreOf (c : Nat) : State.reset.coreOf c = {} := rfl
@[simp] theorem reset_clusterAt (n : Nat) : State.reset.clusterAt n = {} := rfl

/-! Updates of a core. -/

@[simp] theorem setS_ctl (k : Core) (n : Nat) (v : DWord) : (k.setS n v).ctl = k.ctl := by unfold Core.setS; split <;> rfl
@[simp] theorem setS_ld (k : Core) (n : Nat) (v : DWord) : (k.setS n v).ld = k.ld := by unfold Core.setS; split <;> rfl
@[simp] theorem setS_cmp (k : Core) (n : Nat) (v : DWord) : (k.setS n v).cmp = k.cmp := by unfold Core.setS; split <;> rfl
@[simp] theorem setS_st (k : Core) (n : Nat) (v : DWord) : (k.setS n v).st = k.st := by unfold Core.setS; split <;> rfl
@[simp] theorem setS_p (k : Core) (n : Nat) (v : DWord) : (k.setS n v).p = k.p := by unfold Core.setS; split <;> rfl
@[simp] theorem setS_h (k : Core) (n : Nat) (v : DWord) : (k.setS n v).h = k.h := by unfold Core.setS; split <;> rfl
@[simp] theorem setS_sem (k : Core) (n : Nat) (v : DWord) : (k.setS n v).sem = k.sem := by unfold Core.setS; split <;> rfl
@[simp] theorem setS_arv (k : Core) (n : Nat) (v : DWord) : (k.setS n v).arv = k.arv := by unfold Core.setS; split <;> rfl
@[simp] theorem setS_tk (k : Core) (n : Nat) (v : DWord) : (k.setS n v).tk = k.tk := by unfold Core.setS; split <;> rfl
@[simp] theorem setS_trap (k : Core) (n : Nat) (v : DWord) : (k.setS n v).trap = k.trap := by unfold Core.setS; split <;> rfl
@[simp] theorem setS_barSel (k : Core) (n : Nat) (v : DWord) : (k.setS n v).barSel = k.barSel := by unfold Core.setS; split <;> rfl
@[simp] theorem setS_tile (k : Core) (n : Nat) (v : DWord) : (k.setS n v).tile = k.tile := by unfold Core.setS; split <;> rfl
@[simp] theorem setS_tmplKept (k : Core) (n : Nat) (v : DWord) : (k.setS n v).tmplKept = k.tmplKept := by unfold Core.setS; split <;> rfl
@[simp] theorem setS_lastNid (k : Core) (n : Nat) (v : DWord) : (k.setS n v).lastNid = k.lastNid := by unfold Core.setS; split <;> rfl
@[simp] theorem setS_sp (k : Core) (n : Nat) (v : DWord) : (k.setS n v).sp = k.sp := by unfold Core.setS; split <;> rfl
@[simp] theorem setS_spPoison (k : Core) (n : Nat) (v : DWord) : (k.setS n v).spPoison = k.spPoison := by unfold Core.setS; split <;> rfl
@[simp] theorem setS_chunks (k : Core) (n : Nat) (v : DWord) : (k.setS n v).chunks = k.chunks := by unfold Core.setS; split <;> rfl
@[simp] theorem setS_windows (k : Core) (n : Nat) (v : DWord) : (k.setS n v).windows = k.windows := by unfold Core.setS; split <;> rfl
@[simp] theorem setS_q (k : Core) (n : Nat) (v : DWord) : (k.setS n v).q = k.q := by unfold Core.setS; split <;> rfl
@[simp] theorem setS_lds (k : Core) (n : Nat) (v : DWord) : (k.setS n v).lds = k.lds := by unfold Core.setS; split <;> rfl
@[simp] theorem setS_sts (k : Core) (n : Nat) (v : DWord) : (k.setS n v).sts = k.sts := by unfold Core.setS; split <;> rfl
@[simp] theorem setS_shapeCache (k : Core) (n : Nat) (v : DWord) : (k.setS n v).shapeCache = k.shapeCache := by unfold Core.setS; split <;> rfl
@[simp] theorem setS_shMiss (k : Core) (n : Nat) (v : DWord) : (k.setS n v).shMiss = k.shMiss := by unfold Core.setS; split <;> rfl
@[simp] theorem setS_shHit (k : Core) (n : Nat) (v : DWord) : (k.setS n v).shHit = k.shHit := by unfold Core.setS; split <;> rfl
@[simp] theorem setS_mqBound (k : Core) (n : Nat) (v : DWord) : (k.setS n v).mqBound = k.mqBound := by unfold Core.setS; split <;> rfl
@[simp] theorem setS_mqWait (k : Core) (n : Nat) (v : DWord) : (k.setS n v).mqWait = k.mqWait := by unfold Core.setS; split <;> rfl
@[simp] theorem setS_mqGrants (k : Core) (n : Nat) (v : DWord) : (k.setS n v).mqGrants = k.mqGrants := by unfold Core.setS; split <;> rfl
@[simp] theorem setS_comp (k : Core) (n : Nat) (v : DWord) : (k.setS n v).comp = k.comp := by unfold Core.setS; split <;> rfl
@[simp] theorem setS_v (k : Core) (n : Nat) (v : DWord) : (k.setS n v).v = k.v := by unfold Core.setS; split <;> rfl
@[simp] theorem setS_k (k : Core) (n : Nat) (v : DWord) : (k.setS n v).k = k.k := by unfold Core.setS; split <;> rfl
@[simp] theorem setS_flags (k : Core) (n : Nat) (v : DWord) : (k.setS n v).flags = k.flags := by unfold Core.setS; split <;> rfl
@[simp] theorem setS_vuA (k : Core) (n : Nat) (v : DWord) : (k.setS n v).vuA = k.vuA := by unfold Core.setS; split <;> rfl
@[simp] theorem setS_vuB (k : Core) (n : Nat) (v : DWord) : (k.setS n v).vuB = k.vuB := by unfold Core.setS; split <;> rfl
@[simp] theorem setS_vuF (k : Core) (n : Nat) (v : DWord) : (k.setS n v).vuF = k.vuF := by unfold Core.setS; split <;> rfl
@[simp] theorem setS_ops (k : Core) (n : Nat) (v : DWord) : (k.setS n v).ops = k.ops := by unfold Core.setS; split <;> rfl
@[simp] theorem setS_mx (k : Core) (n : Nat) (v : DWord) : (k.setS n v).mx = k.mx := by unfold Core.setS; split <;> rfl
@[simp] theorem setS_copies (k : Core) (n : Nat) (v : DWord) : (k.setS n v).copies = k.copies := by unfold Core.setS; split <;> rfl
@[simp] theorem setS_nextId (k : Core) (n : Nat) (v : DWord) : (k.setS n v).nextId = k.nextId := by unfold Core.setS; split <;> rfl
@[simp] theorem setS_rdcFloor (k : Core) (n : Nat) (v : DWord) : (k.setS n v).rdcFloor = k.rdcFloor := by unfold Core.setS; split <;> rfl

@[simp] theorem setP_ctl (k : Core) (n : Nat) (b : Bool) : (k.setP n b).ctl = k.ctl := by unfold Core.setP; split <;> rfl
@[simp] theorem setP_ld (k : Core) (n : Nat) (b : Bool) : (k.setP n b).ld = k.ld := by unfold Core.setP; split <;> rfl
@[simp] theorem setP_cmp (k : Core) (n : Nat) (b : Bool) : (k.setP n b).cmp = k.cmp := by unfold Core.setP; split <;> rfl
@[simp] theorem setP_st (k : Core) (n : Nat) (b : Bool) : (k.setP n b).st = k.st := by unfold Core.setP; split <;> rfl
@[simp] theorem setP_s (k : Core) (n : Nat) (b : Bool) : (k.setP n b).s = k.s := by unfold Core.setP; split <;> rfl
@[simp] theorem setP_h (k : Core) (n : Nat) (b : Bool) : (k.setP n b).h = k.h := by unfold Core.setP; split <;> rfl
@[simp] theorem setP_sem (k : Core) (n : Nat) (b : Bool) : (k.setP n b).sem = k.sem := by unfold Core.setP; split <;> rfl
@[simp] theorem setP_arv (k : Core) (n : Nat) (b : Bool) : (k.setP n b).arv = k.arv := by unfold Core.setP; split <;> rfl
@[simp] theorem setP_tk (k : Core) (n : Nat) (b : Bool) : (k.setP n b).tk = k.tk := by unfold Core.setP; split <;> rfl
@[simp] theorem setP_trap (k : Core) (n : Nat) (b : Bool) : (k.setP n b).trap = k.trap := by unfold Core.setP; split <;> rfl
@[simp] theorem setP_barSel (k : Core) (n : Nat) (b : Bool) : (k.setP n b).barSel = k.barSel := by unfold Core.setP; split <;> rfl
@[simp] theorem setP_tile (k : Core) (n : Nat) (b : Bool) : (k.setP n b).tile = k.tile := by unfold Core.setP; split <;> rfl
@[simp] theorem setP_tmplKept (k : Core) (n : Nat) (b : Bool) : (k.setP n b).tmplKept = k.tmplKept := by unfold Core.setP; split <;> rfl
@[simp] theorem setP_lastNid (k : Core) (n : Nat) (b : Bool) : (k.setP n b).lastNid = k.lastNid := by unfold Core.setP; split <;> rfl
@[simp] theorem setP_sp (k : Core) (n : Nat) (b : Bool) : (k.setP n b).sp = k.sp := by unfold Core.setP; split <;> rfl
@[simp] theorem setP_spPoison (k : Core) (n : Nat) (b : Bool) : (k.setP n b).spPoison = k.spPoison := by unfold Core.setP; split <;> rfl
@[simp] theorem setP_chunks (k : Core) (n : Nat) (b : Bool) : (k.setP n b).chunks = k.chunks := by unfold Core.setP; split <;> rfl
@[simp] theorem setP_windows (k : Core) (n : Nat) (b : Bool) : (k.setP n b).windows = k.windows := by unfold Core.setP; split <;> rfl
@[simp] theorem setP_q (k : Core) (n : Nat) (b : Bool) : (k.setP n b).q = k.q := by unfold Core.setP; split <;> rfl
@[simp] theorem setP_lds (k : Core) (n : Nat) (b : Bool) : (k.setP n b).lds = k.lds := by unfold Core.setP; split <;> rfl
@[simp] theorem setP_sts (k : Core) (n : Nat) (b : Bool) : (k.setP n b).sts = k.sts := by unfold Core.setP; split <;> rfl
@[simp] theorem setP_shapeCache (k : Core) (n : Nat) (b : Bool) : (k.setP n b).shapeCache = k.shapeCache := by unfold Core.setP; split <;> rfl
@[simp] theorem setP_shMiss (k : Core) (n : Nat) (b : Bool) : (k.setP n b).shMiss = k.shMiss := by unfold Core.setP; split <;> rfl
@[simp] theorem setP_shHit (k : Core) (n : Nat) (b : Bool) : (k.setP n b).shHit = k.shHit := by unfold Core.setP; split <;> rfl
@[simp] theorem setP_mqBound (k : Core) (n : Nat) (b : Bool) : (k.setP n b).mqBound = k.mqBound := by unfold Core.setP; split <;> rfl
@[simp] theorem setP_mqWait (k : Core) (n : Nat) (b : Bool) : (k.setP n b).mqWait = k.mqWait := by unfold Core.setP; split <;> rfl
@[simp] theorem setP_mqGrants (k : Core) (n : Nat) (b : Bool) : (k.setP n b).mqGrants = k.mqGrants := by unfold Core.setP; split <;> rfl
@[simp] theorem setP_comp (k : Core) (n : Nat) (b : Bool) : (k.setP n b).comp = k.comp := by unfold Core.setP; split <;> rfl
@[simp] theorem setP_v (k : Core) (n : Nat) (b : Bool) : (k.setP n b).v = k.v := by unfold Core.setP; split <;> rfl
@[simp] theorem setP_k (k : Core) (n : Nat) (b : Bool) : (k.setP n b).k = k.k := by unfold Core.setP; split <;> rfl
@[simp] theorem setP_flags (k : Core) (n : Nat) (b : Bool) : (k.setP n b).flags = k.flags := by unfold Core.setP; split <;> rfl
@[simp] theorem setP_vuA (k : Core) (n : Nat) (b : Bool) : (k.setP n b).vuA = k.vuA := by unfold Core.setP; split <;> rfl
@[simp] theorem setP_vuB (k : Core) (n : Nat) (b : Bool) : (k.setP n b).vuB = k.vuB := by unfold Core.setP; split <;> rfl
@[simp] theorem setP_vuF (k : Core) (n : Nat) (b : Bool) : (k.setP n b).vuF = k.vuF := by unfold Core.setP; split <;> rfl
@[simp] theorem setP_ops (k : Core) (n : Nat) (b : Bool) : (k.setP n b).ops = k.ops := by unfold Core.setP; split <;> rfl
@[simp] theorem setP_mx (k : Core) (n : Nat) (b : Bool) : (k.setP n b).mx = k.mx := by unfold Core.setP; split <;> rfl
@[simp] theorem setP_copies (k : Core) (n : Nat) (b : Bool) : (k.setP n b).copies = k.copies := by unfold Core.setP; split <;> rfl
@[simp] theorem setP_nextId (k : Core) (n : Nat) (b : Bool) : (k.setP n b).nextId = k.nextId := by unfold Core.setP; split <;> rfl
@[simp] theorem setP_rdcFloor (k : Core) (n : Nat) (b : Bool) : (k.setP n b).rdcFloor = k.rdcFloor := by unfold Core.setP; split <;> rfl

@[simp] theorem updStreamer_ctl (k : Core) (q : Seq) (f : Streamer → Streamer) : (k.updStreamer q f).ctl = k.ctl := by cases q <;> rfl
@[simp] theorem updStreamer_ld (k : Core) (q : Seq) (f : Streamer → Streamer) : (k.updStreamer q f).ld = k.ld := by cases q <;> rfl
@[simp] theorem updStreamer_cmp (k : Core) (q : Seq) (f : Streamer → Streamer) : (k.updStreamer q f).cmp = k.cmp := by cases q <;> rfl
@[simp] theorem updStreamer_st (k : Core) (q : Seq) (f : Streamer → Streamer) : (k.updStreamer q f).st = k.st := by cases q <;> rfl
@[simp] theorem updStreamer_s (k : Core) (q : Seq) (f : Streamer → Streamer) : (k.updStreamer q f).s = k.s := by cases q <;> rfl
@[simp] theorem updStreamer_p (k : Core) (q : Seq) (f : Streamer → Streamer) : (k.updStreamer q f).p = k.p := by cases q <;> rfl
@[simp] theorem updStreamer_h (k : Core) (q : Seq) (f : Streamer → Streamer) : (k.updStreamer q f).h = k.h := by cases q <;> rfl
@[simp] theorem updStreamer_sem (k : Core) (q : Seq) (f : Streamer → Streamer) : (k.updStreamer q f).sem = k.sem := by cases q <;> rfl
@[simp] theorem updStreamer_arv (k : Core) (q : Seq) (f : Streamer → Streamer) : (k.updStreamer q f).arv = k.arv := by cases q <;> rfl
@[simp] theorem updStreamer_tk (k : Core) (q : Seq) (f : Streamer → Streamer) : (k.updStreamer q f).tk = k.tk := by cases q <;> rfl
@[simp] theorem updStreamer_trap (k : Core) (q : Seq) (f : Streamer → Streamer) : (k.updStreamer q f).trap = k.trap := by cases q <;> rfl
@[simp] theorem updStreamer_barSel (k : Core) (q : Seq) (f : Streamer → Streamer) : (k.updStreamer q f).barSel = k.barSel := by cases q <;> rfl
@[simp] theorem updStreamer_tile (k : Core) (q : Seq) (f : Streamer → Streamer) : (k.updStreamer q f).tile = k.tile := by cases q <;> rfl
@[simp] theorem updStreamer_tmplKept (k : Core) (q : Seq) (f : Streamer → Streamer) : (k.updStreamer q f).tmplKept = k.tmplKept := by cases q <;> rfl
@[simp] theorem updStreamer_lastNid (k : Core) (q : Seq) (f : Streamer → Streamer) : (k.updStreamer q f).lastNid = k.lastNid := by cases q <;> rfl
@[simp] theorem updStreamer_sp (k : Core) (q : Seq) (f : Streamer → Streamer) : (k.updStreamer q f).sp = k.sp := by cases q <;> rfl
@[simp] theorem updStreamer_spPoison (k : Core) (q : Seq) (f : Streamer → Streamer) : (k.updStreamer q f).spPoison = k.spPoison := by cases q <;> rfl
@[simp] theorem updStreamer_chunks (k : Core) (q : Seq) (f : Streamer → Streamer) : (k.updStreamer q f).chunks = k.chunks := by cases q <;> rfl
@[simp] theorem updStreamer_windows (k : Core) (q : Seq) (f : Streamer → Streamer) : (k.updStreamer q f).windows = k.windows := by cases q <;> rfl
@[simp] theorem updStreamer_q (k : Core) (q : Seq) (f : Streamer → Streamer) : (k.updStreamer q f).q = k.q := by cases q <;> rfl
@[simp] theorem updStreamer_shapeCache (k : Core) (q : Seq) (f : Streamer → Streamer) : (k.updStreamer q f).shapeCache = k.shapeCache := by cases q <;> rfl
@[simp] theorem updStreamer_shMiss (k : Core) (q : Seq) (f : Streamer → Streamer) : (k.updStreamer q f).shMiss = k.shMiss := by cases q <;> rfl
@[simp] theorem updStreamer_shHit (k : Core) (q : Seq) (f : Streamer → Streamer) : (k.updStreamer q f).shHit = k.shHit := by cases q <;> rfl
@[simp] theorem updStreamer_mqBound (k : Core) (q : Seq) (f : Streamer → Streamer) : (k.updStreamer q f).mqBound = k.mqBound := by cases q <;> rfl
@[simp] theorem updStreamer_mqWait (k : Core) (q : Seq) (f : Streamer → Streamer) : (k.updStreamer q f).mqWait = k.mqWait := by cases q <;> rfl
@[simp] theorem updStreamer_mqGrants (k : Core) (q : Seq) (f : Streamer → Streamer) : (k.updStreamer q f).mqGrants = k.mqGrants := by cases q <;> rfl
@[simp] theorem updStreamer_comp (k : Core) (q : Seq) (f : Streamer → Streamer) : (k.updStreamer q f).comp = k.comp := by cases q <;> rfl
@[simp] theorem updStreamer_v (k : Core) (q : Seq) (f : Streamer → Streamer) : (k.updStreamer q f).v = k.v := by cases q <;> rfl
@[simp] theorem updStreamer_k (k : Core) (q : Seq) (f : Streamer → Streamer) : (k.updStreamer q f).k = k.k := by cases q <;> rfl
@[simp] theorem updStreamer_flags (k : Core) (q : Seq) (f : Streamer → Streamer) : (k.updStreamer q f).flags = k.flags := by cases q <;> rfl
@[simp] theorem updStreamer_vuA (k : Core) (q : Seq) (f : Streamer → Streamer) : (k.updStreamer q f).vuA = k.vuA := by cases q <;> rfl
@[simp] theorem updStreamer_vuB (k : Core) (q : Seq) (f : Streamer → Streamer) : (k.updStreamer q f).vuB = k.vuB := by cases q <;> rfl
@[simp] theorem updStreamer_vuF (k : Core) (q : Seq) (f : Streamer → Streamer) : (k.updStreamer q f).vuF = k.vuF := by cases q <;> rfl
@[simp] theorem updStreamer_ops (k : Core) (q : Seq) (f : Streamer → Streamer) : (k.updStreamer q f).ops = k.ops := by cases q <;> rfl
@[simp] theorem updStreamer_mx (k : Core) (q : Seq) (f : Streamer → Streamer) : (k.updStreamer q f).mx = k.mx := by cases q <;> rfl
@[simp] theorem updStreamer_copies (k : Core) (q : Seq) (f : Streamer → Streamer) : (k.updStreamer q f).copies = k.copies := by cases q <;> rfl
@[simp] theorem updStreamer_nextId (k : Core) (q : Seq) (f : Streamer → Streamer) : (k.updStreamer q f).nextId = k.nextId := by cases q <;> rfl
@[simp] theorem updStreamer_rdcFloor (k : Core) (q : Seq) (f : Streamer → Streamer) : (k.updStreamer q f).rdcFloor = k.rdcFloor := by cases q <;> rfl

@[simp] theorem setN_ctl (k : Core) (q : Seq) (n : Nat) (v : DWord) : (k.setN q n v).ctl = k.ctl := by cases q <;> rfl
@[simp] theorem setN_ld (k : Core) (q : Seq) (n : Nat) (v : DWord) : (k.setN q n v).ld = k.ld := by cases q <;> rfl
@[simp] theorem setN_cmp (k : Core) (q : Seq) (n : Nat) (v : DWord) : (k.setN q n v).cmp = k.cmp := by cases q <;> rfl
@[simp] theorem setN_st (k : Core) (q : Seq) (n : Nat) (v : DWord) : (k.setN q n v).st = k.st := by cases q <;> rfl
@[simp] theorem setN_s (k : Core) (q : Seq) (n : Nat) (v : DWord) : (k.setN q n v).s = k.s := by cases q <;> rfl
@[simp] theorem setN_p (k : Core) (q : Seq) (n : Nat) (v : DWord) : (k.setN q n v).p = k.p := by cases q <;> rfl
@[simp] theorem setN_h (k : Core) (q : Seq) (n : Nat) (v : DWord) : (k.setN q n v).h = k.h := by cases q <;> rfl
@[simp] theorem setN_sem (k : Core) (q : Seq) (n : Nat) (v : DWord) : (k.setN q n v).sem = k.sem := by cases q <;> rfl
@[simp] theorem setN_arv (k : Core) (q : Seq) (n : Nat) (v : DWord) : (k.setN q n v).arv = k.arv := by cases q <;> rfl
@[simp] theorem setN_tk (k : Core) (q : Seq) (n : Nat) (v : DWord) : (k.setN q n v).tk = k.tk := by cases q <;> rfl
@[simp] theorem setN_trap (k : Core) (q : Seq) (n : Nat) (v : DWord) : (k.setN q n v).trap = k.trap := by cases q <;> rfl
@[simp] theorem setN_barSel (k : Core) (q : Seq) (n : Nat) (v : DWord) : (k.setN q n v).barSel = k.barSel := by cases q <;> rfl
@[simp] theorem setN_tile (k : Core) (q : Seq) (n : Nat) (v : DWord) : (k.setN q n v).tile = k.tile := by cases q <;> rfl
@[simp] theorem setN_tmplKept (k : Core) (q : Seq) (n : Nat) (v : DWord) : (k.setN q n v).tmplKept = k.tmplKept := by cases q <;> rfl
@[simp] theorem setN_lastNid (k : Core) (q : Seq) (n : Nat) (v : DWord) : (k.setN q n v).lastNid = k.lastNid := by cases q <;> rfl
@[simp] theorem setN_sp (k : Core) (q : Seq) (n : Nat) (v : DWord) : (k.setN q n v).sp = k.sp := by cases q <;> rfl
@[simp] theorem setN_spPoison (k : Core) (q : Seq) (n : Nat) (v : DWord) : (k.setN q n v).spPoison = k.spPoison := by cases q <;> rfl
@[simp] theorem setN_chunks (k : Core) (q : Seq) (n : Nat) (v : DWord) : (k.setN q n v).chunks = k.chunks := by cases q <;> rfl
@[simp] theorem setN_windows (k : Core) (q : Seq) (n : Nat) (v : DWord) : (k.setN q n v).windows = k.windows := by cases q <;> rfl
@[simp] theorem setN_q (k : Core) (q : Seq) (n : Nat) (v : DWord) : (k.setN q n v).q = k.q := by cases q <;> rfl
@[simp] theorem setN_shapeCache (k : Core) (q : Seq) (n : Nat) (v : DWord) : (k.setN q n v).shapeCache = k.shapeCache := by cases q <;> rfl
@[simp] theorem setN_shMiss (k : Core) (q : Seq) (n : Nat) (v : DWord) : (k.setN q n v).shMiss = k.shMiss := by cases q <;> rfl
@[simp] theorem setN_shHit (k : Core) (q : Seq) (n : Nat) (v : DWord) : (k.setN q n v).shHit = k.shHit := by cases q <;> rfl
@[simp] theorem setN_mqBound (k : Core) (q : Seq) (n : Nat) (v : DWord) : (k.setN q n v).mqBound = k.mqBound := by cases q <;> rfl
@[simp] theorem setN_mqWait (k : Core) (q : Seq) (n : Nat) (v : DWord) : (k.setN q n v).mqWait = k.mqWait := by cases q <;> rfl
@[simp] theorem setN_mqGrants (k : Core) (q : Seq) (n : Nat) (v : DWord) : (k.setN q n v).mqGrants = k.mqGrants := by cases q <;> rfl
@[simp] theorem setN_comp (k : Core) (q : Seq) (n : Nat) (v : DWord) : (k.setN q n v).comp = k.comp := by cases q <;> rfl
@[simp] theorem setN_v (k : Core) (q : Seq) (n : Nat) (v : DWord) : (k.setN q n v).v = k.v := by cases q <;> rfl
@[simp] theorem setN_k (k : Core) (q : Seq) (n : Nat) (v : DWord) : (k.setN q n v).k = k.k := by cases q <;> rfl
@[simp] theorem setN_flags (k : Core) (q : Seq) (n : Nat) (v : DWord) : (k.setN q n v).flags = k.flags := by cases q <;> rfl
@[simp] theorem setN_vuA (k : Core) (q : Seq) (n : Nat) (v : DWord) : (k.setN q n v).vuA = k.vuA := by cases q <;> rfl
@[simp] theorem setN_vuB (k : Core) (q : Seq) (n : Nat) (v : DWord) : (k.setN q n v).vuB = k.vuB := by cases q <;> rfl
@[simp] theorem setN_vuF (k : Core) (q : Seq) (n : Nat) (v : DWord) : (k.setN q n v).vuF = k.vuF := by cases q <;> rfl
@[simp] theorem setN_ops (k : Core) (q : Seq) (n : Nat) (v : DWord) : (k.setN q n v).ops = k.ops := by cases q <;> rfl
@[simp] theorem setN_mx (k : Core) (q : Seq) (n : Nat) (v : DWord) : (k.setN q n v).mx = k.mx := by cases q <;> rfl
@[simp] theorem setN_copies (k : Core) (q : Seq) (n : Nat) (v : DWord) : (k.setN q n v).copies = k.copies := by cases q <;> rfl
@[simp] theorem setN_nextId (k : Core) (q : Seq) (n : Nat) (v : DWord) : (k.setN q n v).nextId = k.nextId := by cases q <;> rfl
@[simp] theorem setN_rdcFloor (k : Core) (q : Seq) (n : Nat) (v : DWord) : (k.setN q n v).rdcFloor = k.rdcFloor := by cases q <;> rfl

@[simp] theorem setQueue_ctl (k : Core) (n : Nat) (l : List QEnt) : (k.setQueue n l).ctl = k.ctl := rfl
@[simp] theorem setQueue_ld (k : Core) (n : Nat) (l : List QEnt) : (k.setQueue n l).ld = k.ld := rfl
@[simp] theorem setQueue_cmp (k : Core) (n : Nat) (l : List QEnt) : (k.setQueue n l).cmp = k.cmp := rfl
@[simp] theorem setQueue_st (k : Core) (n : Nat) (l : List QEnt) : (k.setQueue n l).st = k.st := rfl
@[simp] theorem setQueue_s (k : Core) (n : Nat) (l : List QEnt) : (k.setQueue n l).s = k.s := rfl
@[simp] theorem setQueue_p (k : Core) (n : Nat) (l : List QEnt) : (k.setQueue n l).p = k.p := rfl
@[simp] theorem setQueue_h (k : Core) (n : Nat) (l : List QEnt) : (k.setQueue n l).h = k.h := rfl
@[simp] theorem setQueue_sem (k : Core) (n : Nat) (l : List QEnt) : (k.setQueue n l).sem = k.sem := rfl
@[simp] theorem setQueue_arv (k : Core) (n : Nat) (l : List QEnt) : (k.setQueue n l).arv = k.arv := rfl
@[simp] theorem setQueue_tk (k : Core) (n : Nat) (l : List QEnt) : (k.setQueue n l).tk = k.tk := rfl
@[simp] theorem setQueue_trap (k : Core) (n : Nat) (l : List QEnt) : (k.setQueue n l).trap = k.trap := rfl
@[simp] theorem setQueue_barSel (k : Core) (n : Nat) (l : List QEnt) : (k.setQueue n l).barSel = k.barSel := rfl
@[simp] theorem setQueue_tile (k : Core) (n : Nat) (l : List QEnt) : (k.setQueue n l).tile = k.tile := rfl
@[simp] theorem setQueue_tmplKept (k : Core) (n : Nat) (l : List QEnt) : (k.setQueue n l).tmplKept = k.tmplKept := rfl
@[simp] theorem setQueue_lastNid (k : Core) (n : Nat) (l : List QEnt) : (k.setQueue n l).lastNid = k.lastNid := rfl
@[simp] theorem setQueue_sp (k : Core) (n : Nat) (l : List QEnt) : (k.setQueue n l).sp = k.sp := rfl
@[simp] theorem setQueue_spPoison (k : Core) (n : Nat) (l : List QEnt) : (k.setQueue n l).spPoison = k.spPoison := rfl
@[simp] theorem setQueue_chunks (k : Core) (n : Nat) (l : List QEnt) : (k.setQueue n l).chunks = k.chunks := rfl
@[simp] theorem setQueue_windows (k : Core) (n : Nat) (l : List QEnt) : (k.setQueue n l).windows = k.windows := rfl
@[simp] theorem setQueue_lds (k : Core) (n : Nat) (l : List QEnt) : (k.setQueue n l).lds = k.lds := rfl
@[simp] theorem setQueue_sts (k : Core) (n : Nat) (l : List QEnt) : (k.setQueue n l).sts = k.sts := rfl
@[simp] theorem setQueue_shapeCache (k : Core) (n : Nat) (l : List QEnt) : (k.setQueue n l).shapeCache = k.shapeCache := rfl
@[simp] theorem setQueue_shMiss (k : Core) (n : Nat) (l : List QEnt) : (k.setQueue n l).shMiss = k.shMiss := rfl
@[simp] theorem setQueue_shHit (k : Core) (n : Nat) (l : List QEnt) : (k.setQueue n l).shHit = k.shHit := rfl
@[simp] theorem setQueue_mqBound (k : Core) (n : Nat) (l : List QEnt) : (k.setQueue n l).mqBound = k.mqBound := rfl
@[simp] theorem setQueue_mqWait (k : Core) (n : Nat) (l : List QEnt) : (k.setQueue n l).mqWait = k.mqWait := rfl
@[simp] theorem setQueue_mqGrants (k : Core) (n : Nat) (l : List QEnt) : (k.setQueue n l).mqGrants = k.mqGrants := rfl
@[simp] theorem setQueue_comp (k : Core) (n : Nat) (l : List QEnt) : (k.setQueue n l).comp = k.comp := rfl
@[simp] theorem setQueue_v (k : Core) (n : Nat) (l : List QEnt) : (k.setQueue n l).v = k.v := rfl
@[simp] theorem setQueue_k (k : Core) (n : Nat) (l : List QEnt) : (k.setQueue n l).k = k.k := rfl
@[simp] theorem setQueue_flags (k : Core) (n : Nat) (l : List QEnt) : (k.setQueue n l).flags = k.flags := rfl
@[simp] theorem setQueue_vuA (k : Core) (n : Nat) (l : List QEnt) : (k.setQueue n l).vuA = k.vuA := rfl
@[simp] theorem setQueue_vuB (k : Core) (n : Nat) (l : List QEnt) : (k.setQueue n l).vuB = k.vuB := rfl
@[simp] theorem setQueue_vuF (k : Core) (n : Nat) (l : List QEnt) : (k.setQueue n l).vuF = k.vuF := rfl
@[simp] theorem setQueue_ops (k : Core) (n : Nat) (l : List QEnt) : (k.setQueue n l).ops = k.ops := rfl
@[simp] theorem setQueue_mx (k : Core) (n : Nat) (l : List QEnt) : (k.setQueue n l).mx = k.mx := rfl
@[simp] theorem setQueue_copies (k : Core) (n : Nat) (l : List QEnt) : (k.setQueue n l).copies = k.copies := rfl
@[simp] theorem setQueue_nextId (k : Core) (n : Nat) (l : List QEnt) : (k.setQueue n l).nextId = k.nextId := rfl
@[simp] theorem setQueue_watch (k : Core) (n : Nat) (l : List QEnt) : (k.setQueue n l).watch = k.watch := rfl
@[simp] theorem setQueue_soiled (k : Core) (n : Nat) (l : List QEnt) : (k.setQueue n l).soiled = k.soiled := rfl
@[simp] theorem setQueue_rdcFloor (k : Core) (n : Nat) (l : List QEnt) : (k.setQueue n l).rdcFloor = k.rdcFloor := rfl

@[simp] theorem setTokens_ctl (k : Core) (i j : Seq) (n : Nat) : (k.setTokens i j n).ctl = k.ctl := rfl
@[simp] theorem setTokens_ld (k : Core) (i j : Seq) (n : Nat) : (k.setTokens i j n).ld = k.ld := rfl
@[simp] theorem setTokens_cmp (k : Core) (i j : Seq) (n : Nat) : (k.setTokens i j n).cmp = k.cmp := rfl
@[simp] theorem setTokens_st (k : Core) (i j : Seq) (n : Nat) : (k.setTokens i j n).st = k.st := rfl
@[simp] theorem setTokens_s (k : Core) (i j : Seq) (n : Nat) : (k.setTokens i j n).s = k.s := rfl
@[simp] theorem setTokens_p (k : Core) (i j : Seq) (n : Nat) : (k.setTokens i j n).p = k.p := rfl
@[simp] theorem setTokens_h (k : Core) (i j : Seq) (n : Nat) : (k.setTokens i j n).h = k.h := rfl
@[simp] theorem setTokens_sem (k : Core) (i j : Seq) (n : Nat) : (k.setTokens i j n).sem = k.sem := rfl
@[simp] theorem setTokens_arv (k : Core) (i j : Seq) (n : Nat) : (k.setTokens i j n).arv = k.arv := rfl
@[simp] theorem setTokens_trap (k : Core) (i j : Seq) (n : Nat) : (k.setTokens i j n).trap = k.trap := rfl
@[simp] theorem setTokens_barSel (k : Core) (i j : Seq) (n : Nat) : (k.setTokens i j n).barSel = k.barSel := rfl
@[simp] theorem setTokens_tile (k : Core) (i j : Seq) (n : Nat) : (k.setTokens i j n).tile = k.tile := rfl
@[simp] theorem setTokens_tmplKept (k : Core) (i j : Seq) (n : Nat) : (k.setTokens i j n).tmplKept = k.tmplKept := rfl
@[simp] theorem setTokens_lastNid (k : Core) (i j : Seq) (n : Nat) : (k.setTokens i j n).lastNid = k.lastNid := rfl
@[simp] theorem setTokens_sp (k : Core) (i j : Seq) (n : Nat) : (k.setTokens i j n).sp = k.sp := rfl
@[simp] theorem setTokens_spPoison (k : Core) (i j : Seq) (n : Nat) : (k.setTokens i j n).spPoison = k.spPoison := rfl
@[simp] theorem setTokens_chunks (k : Core) (i j : Seq) (n : Nat) : (k.setTokens i j n).chunks = k.chunks := rfl
@[simp] theorem setTokens_windows (k : Core) (i j : Seq) (n : Nat) : (k.setTokens i j n).windows = k.windows := rfl
@[simp] theorem setTokens_q (k : Core) (i j : Seq) (n : Nat) : (k.setTokens i j n).q = k.q := rfl
@[simp] theorem setTokens_lds (k : Core) (i j : Seq) (n : Nat) : (k.setTokens i j n).lds = k.lds := rfl
@[simp] theorem setTokens_sts (k : Core) (i j : Seq) (n : Nat) : (k.setTokens i j n).sts = k.sts := rfl
@[simp] theorem setTokens_shapeCache (k : Core) (i j : Seq) (n : Nat) : (k.setTokens i j n).shapeCache = k.shapeCache := rfl
@[simp] theorem setTokens_shMiss (k : Core) (i j : Seq) (n : Nat) : (k.setTokens i j n).shMiss = k.shMiss := rfl
@[simp] theorem setTokens_shHit (k : Core) (i j : Seq) (n : Nat) : (k.setTokens i j n).shHit = k.shHit := rfl
@[simp] theorem setTokens_mqBound (k : Core) (i j : Seq) (n : Nat) : (k.setTokens i j n).mqBound = k.mqBound := rfl
@[simp] theorem setTokens_mqWait (k : Core) (i j : Seq) (n : Nat) : (k.setTokens i j n).mqWait = k.mqWait := rfl
@[simp] theorem setTokens_mqGrants (k : Core) (i j : Seq) (n : Nat) : (k.setTokens i j n).mqGrants = k.mqGrants := rfl
@[simp] theorem setTokens_comp (k : Core) (i j : Seq) (n : Nat) : (k.setTokens i j n).comp = k.comp := rfl
@[simp] theorem setTokens_v (k : Core) (i j : Seq) (n : Nat) : (k.setTokens i j n).v = k.v := rfl
@[simp] theorem setTokens_k (k : Core) (i j : Seq) (n : Nat) : (k.setTokens i j n).k = k.k := rfl
@[simp] theorem setTokens_flags (k : Core) (i j : Seq) (n : Nat) : (k.setTokens i j n).flags = k.flags := rfl
@[simp] theorem setTokens_vuA (k : Core) (i j : Seq) (n : Nat) : (k.setTokens i j n).vuA = k.vuA := rfl
@[simp] theorem setTokens_vuB (k : Core) (i j : Seq) (n : Nat) : (k.setTokens i j n).vuB = k.vuB := rfl
@[simp] theorem setTokens_vuF (k : Core) (i j : Seq) (n : Nat) : (k.setTokens i j n).vuF = k.vuF := rfl
@[simp] theorem setTokens_ops (k : Core) (i j : Seq) (n : Nat) : (k.setTokens i j n).ops = k.ops := rfl
@[simp] theorem setTokens_mx (k : Core) (i j : Seq) (n : Nat) : (k.setTokens i j n).mx = k.mx := rfl
@[simp] theorem setTokens_copies (k : Core) (i j : Seq) (n : Nat) : (k.setTokens i j n).copies = k.copies := rfl
@[simp] theorem setTokens_nextId (k : Core) (i j : Seq) (n : Nat) : (k.setTokens i j n).nextId = k.nextId := rfl
@[simp] theorem setTokens_watch (k : Core) (i j : Seq) (n : Nat) : (k.setTokens i j n).watch = k.watch := rfl
@[simp] theorem setTokens_soiled (k : Core) (i j : Seq) (n : Nat) : (k.setTokens i j n).soiled = k.soiled := rfl
@[simp] theorem setTokens_rdcFloor (k : Core) (i j : Seq) (n : Nat) : (k.setTokens i j n).rdcFloor = k.rdcFloor := rfl

@[simp] theorem updChunk_ctl (k : Core) (n : Nat) (f : Chunk → Chunk) : (k.updChunk n f).ctl = k.ctl := rfl
@[simp] theorem updChunk_ld (k : Core) (n : Nat) (f : Chunk → Chunk) : (k.updChunk n f).ld = k.ld := rfl
@[simp] theorem updChunk_cmp (k : Core) (n : Nat) (f : Chunk → Chunk) : (k.updChunk n f).cmp = k.cmp := rfl
@[simp] theorem updChunk_st (k : Core) (n : Nat) (f : Chunk → Chunk) : (k.updChunk n f).st = k.st := rfl
@[simp] theorem updChunk_s (k : Core) (n : Nat) (f : Chunk → Chunk) : (k.updChunk n f).s = k.s := rfl
@[simp] theorem updChunk_p (k : Core) (n : Nat) (f : Chunk → Chunk) : (k.updChunk n f).p = k.p := rfl
@[simp] theorem updChunk_h (k : Core) (n : Nat) (f : Chunk → Chunk) : (k.updChunk n f).h = k.h := rfl
@[simp] theorem updChunk_sem (k : Core) (n : Nat) (f : Chunk → Chunk) : (k.updChunk n f).sem = k.sem := rfl
@[simp] theorem updChunk_arv (k : Core) (n : Nat) (f : Chunk → Chunk) : (k.updChunk n f).arv = k.arv := rfl
@[simp] theorem updChunk_tk (k : Core) (n : Nat) (f : Chunk → Chunk) : (k.updChunk n f).tk = k.tk := rfl
@[simp] theorem updChunk_trap (k : Core) (n : Nat) (f : Chunk → Chunk) : (k.updChunk n f).trap = k.trap := rfl
@[simp] theorem updChunk_barSel (k : Core) (n : Nat) (f : Chunk → Chunk) : (k.updChunk n f).barSel = k.barSel := rfl
@[simp] theorem updChunk_tile (k : Core) (n : Nat) (f : Chunk → Chunk) : (k.updChunk n f).tile = k.tile := rfl
@[simp] theorem updChunk_tmplKept (k : Core) (n : Nat) (f : Chunk → Chunk) : (k.updChunk n f).tmplKept = k.tmplKept := rfl
@[simp] theorem updChunk_lastNid (k : Core) (n : Nat) (f : Chunk → Chunk) : (k.updChunk n f).lastNid = k.lastNid := rfl
@[simp] theorem updChunk_sp (k : Core) (n : Nat) (f : Chunk → Chunk) : (k.updChunk n f).sp = k.sp := rfl
@[simp] theorem updChunk_spPoison (k : Core) (n : Nat) (f : Chunk → Chunk) : (k.updChunk n f).spPoison = k.spPoison := rfl
@[simp] theorem updChunk_windows (k : Core) (n : Nat) (f : Chunk → Chunk) : (k.updChunk n f).windows = k.windows := rfl
@[simp] theorem updChunk_q (k : Core) (n : Nat) (f : Chunk → Chunk) : (k.updChunk n f).q = k.q := rfl
@[simp] theorem updChunk_lds (k : Core) (n : Nat) (f : Chunk → Chunk) : (k.updChunk n f).lds = k.lds := rfl
@[simp] theorem updChunk_sts (k : Core) (n : Nat) (f : Chunk → Chunk) : (k.updChunk n f).sts = k.sts := rfl
@[simp] theorem updChunk_shapeCache (k : Core) (n : Nat) (f : Chunk → Chunk) : (k.updChunk n f).shapeCache = k.shapeCache := rfl
@[simp] theorem updChunk_shMiss (k : Core) (n : Nat) (f : Chunk → Chunk) : (k.updChunk n f).shMiss = k.shMiss := rfl
@[simp] theorem updChunk_shHit (k : Core) (n : Nat) (f : Chunk → Chunk) : (k.updChunk n f).shHit = k.shHit := rfl
@[simp] theorem updChunk_mqBound (k : Core) (n : Nat) (f : Chunk → Chunk) : (k.updChunk n f).mqBound = k.mqBound := rfl
@[simp] theorem updChunk_mqWait (k : Core) (n : Nat) (f : Chunk → Chunk) : (k.updChunk n f).mqWait = k.mqWait := rfl
@[simp] theorem updChunk_mqGrants (k : Core) (n : Nat) (f : Chunk → Chunk) : (k.updChunk n f).mqGrants = k.mqGrants := rfl
@[simp] theorem updChunk_comp (k : Core) (n : Nat) (f : Chunk → Chunk) : (k.updChunk n f).comp = k.comp := rfl
@[simp] theorem updChunk_v (k : Core) (n : Nat) (f : Chunk → Chunk) : (k.updChunk n f).v = k.v := rfl
@[simp] theorem updChunk_k (k : Core) (n : Nat) (f : Chunk → Chunk) : (k.updChunk n f).k = k.k := rfl
@[simp] theorem updChunk_flags (k : Core) (n : Nat) (f : Chunk → Chunk) : (k.updChunk n f).flags = k.flags := rfl
@[simp] theorem updChunk_vuA (k : Core) (n : Nat) (f : Chunk → Chunk) : (k.updChunk n f).vuA = k.vuA := rfl
@[simp] theorem updChunk_vuB (k : Core) (n : Nat) (f : Chunk → Chunk) : (k.updChunk n f).vuB = k.vuB := rfl
@[simp] theorem updChunk_vuF (k : Core) (n : Nat) (f : Chunk → Chunk) : (k.updChunk n f).vuF = k.vuF := rfl
@[simp] theorem updChunk_ops (k : Core) (n : Nat) (f : Chunk → Chunk) : (k.updChunk n f).ops = k.ops := rfl
@[simp] theorem updChunk_mx (k : Core) (n : Nat) (f : Chunk → Chunk) : (k.updChunk n f).mx = k.mx := rfl
@[simp] theorem updChunk_copies (k : Core) (n : Nat) (f : Chunk → Chunk) : (k.updChunk n f).copies = k.copies := rfl
@[simp] theorem updChunk_nextId (k : Core) (n : Nat) (f : Chunk → Chunk) : (k.updChunk n f).nextId = k.nextId := rfl
@[simp] theorem updChunk_watch (k : Core) (n : Nat) (f : Chunk → Chunk) : (k.updChunk n f).watch = k.watch := rfl
@[simp] theorem updChunk_soiled (k : Core) (n : Nat) (f : Chunk → Chunk) : (k.updChunk n f).soiled = k.soiled := rfl
@[simp] theorem updChunk_rdcFloor (k : Core) (n : Nat) (f : Chunk → Chunk) : (k.updChunk n f).rdcFloor = k.rdcFloor := rfl

@[simp] theorem spWrite_ctl (k : Core) (a : Nat) (l : List Byte) : (k.spWrite a l).ctl = k.ctl := rfl
@[simp] theorem spWrite_ld (k : Core) (a : Nat) (l : List Byte) : (k.spWrite a l).ld = k.ld := rfl
@[simp] theorem spWrite_cmp (k : Core) (a : Nat) (l : List Byte) : (k.spWrite a l).cmp = k.cmp := rfl
@[simp] theorem spWrite_st (k : Core) (a : Nat) (l : List Byte) : (k.spWrite a l).st = k.st := rfl
@[simp] theorem spWrite_s (k : Core) (a : Nat) (l : List Byte) : (k.spWrite a l).s = k.s := rfl
@[simp] theorem spWrite_p (k : Core) (a : Nat) (l : List Byte) : (k.spWrite a l).p = k.p := rfl
@[simp] theorem spWrite_h (k : Core) (a : Nat) (l : List Byte) : (k.spWrite a l).h = k.h := rfl
@[simp] theorem spWrite_sem (k : Core) (a : Nat) (l : List Byte) : (k.spWrite a l).sem = k.sem := rfl
@[simp] theorem spWrite_arv (k : Core) (a : Nat) (l : List Byte) : (k.spWrite a l).arv = k.arv := rfl
@[simp] theorem spWrite_tk (k : Core) (a : Nat) (l : List Byte) : (k.spWrite a l).tk = k.tk := rfl
@[simp] theorem spWrite_trap (k : Core) (a : Nat) (l : List Byte) : (k.spWrite a l).trap = k.trap := rfl
@[simp] theorem spWrite_barSel (k : Core) (a : Nat) (l : List Byte) : (k.spWrite a l).barSel = k.barSel := rfl
@[simp] theorem spWrite_tile (k : Core) (a : Nat) (l : List Byte) : (k.spWrite a l).tile = k.tile := rfl
@[simp] theorem spWrite_tmplKept (k : Core) (a : Nat) (l : List Byte) : (k.spWrite a l).tmplKept = k.tmplKept := rfl
@[simp] theorem spWrite_lastNid (k : Core) (a : Nat) (l : List Byte) : (k.spWrite a l).lastNid = k.lastNid := rfl
@[simp] theorem spWrite_chunks (k : Core) (a : Nat) (l : List Byte) : (k.spWrite a l).chunks = k.chunks := rfl
@[simp] theorem spWrite_windows (k : Core) (a : Nat) (l : List Byte) : (k.spWrite a l).windows = k.windows := rfl
@[simp] theorem spWrite_q (k : Core) (a : Nat) (l : List Byte) : (k.spWrite a l).q = k.q := rfl
@[simp] theorem spWrite_lds (k : Core) (a : Nat) (l : List Byte) : (k.spWrite a l).lds = k.lds := rfl
@[simp] theorem spWrite_sts (k : Core) (a : Nat) (l : List Byte) : (k.spWrite a l).sts = k.sts := rfl
@[simp] theorem spWrite_shapeCache (k : Core) (a : Nat) (l : List Byte) : (k.spWrite a l).shapeCache = k.shapeCache := rfl
@[simp] theorem spWrite_shMiss (k : Core) (a : Nat) (l : List Byte) : (k.spWrite a l).shMiss = k.shMiss := rfl
@[simp] theorem spWrite_shHit (k : Core) (a : Nat) (l : List Byte) : (k.spWrite a l).shHit = k.shHit := rfl
@[simp] theorem spWrite_mqBound (k : Core) (a : Nat) (l : List Byte) : (k.spWrite a l).mqBound = k.mqBound := rfl
@[simp] theorem spWrite_mqWait (k : Core) (a : Nat) (l : List Byte) : (k.spWrite a l).mqWait = k.mqWait := rfl
@[simp] theorem spWrite_mqGrants (k : Core) (a : Nat) (l : List Byte) : (k.spWrite a l).mqGrants = k.mqGrants := rfl
@[simp] theorem spWrite_comp (k : Core) (a : Nat) (l : List Byte) : (k.spWrite a l).comp = k.comp := rfl
@[simp] theorem spWrite_v (k : Core) (a : Nat) (l : List Byte) : (k.spWrite a l).v = k.v := rfl
@[simp] theorem spWrite_k (k : Core) (a : Nat) (l : List Byte) : (k.spWrite a l).k = k.k := rfl
@[simp] theorem spWrite_flags (k : Core) (a : Nat) (l : List Byte) : (k.spWrite a l).flags = k.flags := rfl
@[simp] theorem spWrite_vuA (k : Core) (a : Nat) (l : List Byte) : (k.spWrite a l).vuA = k.vuA := rfl
@[simp] theorem spWrite_vuB (k : Core) (a : Nat) (l : List Byte) : (k.spWrite a l).vuB = k.vuB := rfl
@[simp] theorem spWrite_vuF (k : Core) (a : Nat) (l : List Byte) : (k.spWrite a l).vuF = k.vuF := rfl
@[simp] theorem spWrite_ops (k : Core) (a : Nat) (l : List Byte) : (k.spWrite a l).ops = k.ops := rfl
@[simp] theorem spWrite_mx (k : Core) (a : Nat) (l : List Byte) : (k.spWrite a l).mx = k.mx := rfl
@[simp] theorem spWrite_copies (k : Core) (a : Nat) (l : List Byte) : (k.spWrite a l).copies = k.copies := rfl
@[simp] theorem spWrite_nextId (k : Core) (a : Nat) (l : List Byte) : (k.spWrite a l).nextId = k.nextId := rfl
@[simp] theorem spWrite_watch (k : Core) (a : Nat) (l : List Byte) : (k.spWrite a l).watch = k.watch := rfl
@[simp] theorem spWrite_rdcFloor (k : Core) (a : Nat) (l : List Byte) : (k.spWrite a l).rdcFloor = k.rdcFloor := rfl

@[simp] theorem setSeq_s (k : Core) (q : Seq) (x : SeqState) : (k.setSeq q x).s = k.s := by cases q <;> rfl
@[simp] theorem setSeq_p (k : Core) (q : Seq) (x : SeqState) : (k.setSeq q x).p = k.p := by cases q <;> rfl
@[simp] theorem setSeq_h (k : Core) (q : Seq) (x : SeqState) : (k.setSeq q x).h = k.h := by cases q <;> rfl
@[simp] theorem setSeq_sem (k : Core) (q : Seq) (x : SeqState) : (k.setSeq q x).sem = k.sem := by cases q <;> rfl
@[simp] theorem setSeq_arv (k : Core) (q : Seq) (x : SeqState) : (k.setSeq q x).arv = k.arv := by cases q <;> rfl
@[simp] theorem setSeq_tk (k : Core) (q : Seq) (x : SeqState) : (k.setSeq q x).tk = k.tk := by cases q <;> rfl
@[simp] theorem setSeq_trap (k : Core) (q : Seq) (x : SeqState) : (k.setSeq q x).trap = k.trap := by cases q <;> rfl
@[simp] theorem setSeq_barSel (k : Core) (q : Seq) (x : SeqState) : (k.setSeq q x).barSel = k.barSel := by cases q <;> rfl
@[simp] theorem setSeq_tile (k : Core) (q : Seq) (x : SeqState) : (k.setSeq q x).tile = k.tile := by cases q <;> rfl
@[simp] theorem setSeq_tmplKept (k : Core) (q : Seq) (x : SeqState) : (k.setSeq q x).tmplKept = k.tmplKept := by cases q <;> rfl
@[simp] theorem setSeq_lastNid (k : Core) (q : Seq) (x : SeqState) : (k.setSeq q x).lastNid = k.lastNid := by cases q <;> rfl
@[simp] theorem setSeq_sp (k : Core) (q : Seq) (x : SeqState) : (k.setSeq q x).sp = k.sp := by cases q <;> rfl
@[simp] theorem setSeq_spPoison (k : Core) (q : Seq) (x : SeqState) : (k.setSeq q x).spPoison = k.spPoison := by cases q <;> rfl
@[simp] theorem setSeq_chunks (k : Core) (q : Seq) (x : SeqState) : (k.setSeq q x).chunks = k.chunks := by cases q <;> rfl
@[simp] theorem setSeq_windows (k : Core) (q : Seq) (x : SeqState) : (k.setSeq q x).windows = k.windows := by cases q <;> rfl
@[simp] theorem setSeq_q (k : Core) (q : Seq) (x : SeqState) : (k.setSeq q x).q = k.q := by cases q <;> rfl
@[simp] theorem setSeq_lds (k : Core) (q : Seq) (x : SeqState) : (k.setSeq q x).lds = k.lds := by cases q <;> rfl
@[simp] theorem setSeq_sts (k : Core) (q : Seq) (x : SeqState) : (k.setSeq q x).sts = k.sts := by cases q <;> rfl
@[simp] theorem setSeq_shapeCache (k : Core) (q : Seq) (x : SeqState) : (k.setSeq q x).shapeCache = k.shapeCache := by cases q <;> rfl
@[simp] theorem setSeq_shMiss (k : Core) (q : Seq) (x : SeqState) : (k.setSeq q x).shMiss = k.shMiss := by cases q <;> rfl
@[simp] theorem setSeq_shHit (k : Core) (q : Seq) (x : SeqState) : (k.setSeq q x).shHit = k.shHit := by cases q <;> rfl
@[simp] theorem setSeq_mqBound (k : Core) (q : Seq) (x : SeqState) : (k.setSeq q x).mqBound = k.mqBound := by cases q <;> rfl
@[simp] theorem setSeq_mqWait (k : Core) (q : Seq) (x : SeqState) : (k.setSeq q x).mqWait = k.mqWait := by cases q <;> rfl
@[simp] theorem setSeq_mqGrants (k : Core) (q : Seq) (x : SeqState) : (k.setSeq q x).mqGrants = k.mqGrants := by cases q <;> rfl
@[simp] theorem setSeq_comp (k : Core) (q : Seq) (x : SeqState) : (k.setSeq q x).comp = k.comp := by cases q <;> rfl
@[simp] theorem setSeq_v (k : Core) (q : Seq) (x : SeqState) : (k.setSeq q x).v = k.v := by cases q <;> rfl
@[simp] theorem setSeq_k (k : Core) (q : Seq) (x : SeqState) : (k.setSeq q x).k = k.k := by cases q <;> rfl
@[simp] theorem setSeq_flags (k : Core) (q : Seq) (x : SeqState) : (k.setSeq q x).flags = k.flags := by cases q <;> rfl
@[simp] theorem setSeq_vuA (k : Core) (q : Seq) (x : SeqState) : (k.setSeq q x).vuA = k.vuA := by cases q <;> rfl
@[simp] theorem setSeq_vuB (k : Core) (q : Seq) (x : SeqState) : (k.setSeq q x).vuB = k.vuB := by cases q <;> rfl
@[simp] theorem setSeq_vuF (k : Core) (q : Seq) (x : SeqState) : (k.setSeq q x).vuF = k.vuF := by cases q <;> rfl
@[simp] theorem setSeq_ops (k : Core) (q : Seq) (x : SeqState) : (k.setSeq q x).ops = k.ops := by cases q <;> rfl
@[simp] theorem setSeq_mx (k : Core) (q : Seq) (x : SeqState) : (k.setSeq q x).mx = k.mx := by cases q <;> rfl
@[simp] theorem setSeq_copies (k : Core) (q : Seq) (x : SeqState) : (k.setSeq q x).copies = k.copies := by cases q <;> rfl
@[simp] theorem setSeq_nextId (k : Core) (q : Seq) (x : SeqState) : (k.setSeq q x).nextId = k.nextId := by cases q <;> rfl
@[simp] theorem setSeq_rdcFloor (k : Core) (q : Seq) (x : SeqState) : (k.setSeq q x).rdcFloor = k.rdcFloor := by cases q <;> rfl

theorem sreg_setS (k : Core) (n : Nat) (v : DWord) (m : Nat) :
    (k.setS n v).sreg m = if m = n ∧ n ≠ 0 then v else k.sreg m := by
  unfold Core.setS Core.sreg
  by_cases h : n = 0
  · simp [h]
  · by_cases hm : m = 0
    · subst hm; simp [h, Ne.symm h]
    · simp [h, hm, get_put]
@[simp] theorem sreg_zero (k : Core) : k.sreg 0 = 0 := rfl
@[simp] theorem setS_zero (k : Core) (v : DWord) : k.setS 0 v = k := rfl
@[simp] theorem preg_zero (k : Core) : k.preg 0 = true := rfl
@[simp] theorem setP_zero (k : Core) (b : Bool) : k.setP 0 b = k := rfl

theorem oneBit (n m : Nat) : ((1 : BitVec 48) <<< n).getLsbD m = (decide (m < 48) && decide (n = m)) := by
  have : ((1 : BitVec 48) <<< n) = BitVec.ofNat 48 (1 <<< n) := by
    apply BitVec.eq_of_toNat_eq; simp [BitVec.toNat_shiftLeft]
  rw [this, BitVec.getLsbD_ofNat, Nat.one_shiftLeft, Nat.testBit_two_pow]

/-- A predicate after a write of one: P0 is true, and a number of 48 or above names none. -/
theorem preg_setP (k : Core) {n : Nat} (hn : n < 48) (b : Bool) (m : Nat) :
    (k.setP n b).preg m = if m = n ∧ n ≠ 0 then b else k.preg m := by
  unfold Core.setP Core.preg
  by_cases h : n = 0
  · simp [h]
  · by_cases hm : m = 0
    · subst hm; simp [Ne.symm h]
    · have h48 : k.p.getLsbD m = (decide (m < 48) && k.p.getLsbD m) := by
        by_cases hl : m < 48
        · simp [hl]
        · rw [BitVec.getLsbD_of_ge k.p m (by omega)]; simp
      simp only [h, hm, if_false, ne_eq, not_false_eq_true, and_true]
      by_cases e : m = n
      · subst e
        cases b
        · simp only [Bool.false_eq_true, if_false, BitVec.getLsbD_and, BitVec.getLsbD_not, oneBit]; simp [hn]
        · simp only [if_true, BitVec.getLsbD_or, oneBit]; simp [hn]
      · cases b
        · simp only [Bool.false_eq_true, if_false, BitVec.getLsbD_and, BitVec.getLsbD_not, oneBit, e]
          rw [h48]; simp [Ne.symm e]; exact fun h _ => h
        · simp only [if_true, BitVec.getLsbD_or, oneBit, e, if_false]; simp [Ne.symm e]

theorem nreg_setN (k : Core) {q : Seq} (n : Nat) (v : DWord) (m : Nat) :
    (k.setN q n v).nreg q m = if m = n then v else k.nreg q m := by
  cases q <;> exact get_put 0 _ n v m

@[simp] theorem seq_setSeq_same (k : Core) (q : Seq) (x : SeqState) : (k.setSeq q x).seq q = x := by cases q <;> rfl
theorem seq_setSeq_other (k : Core) {q r : Seq} (x : SeqState) (h : r ≠ q) : (k.setSeq q x).seq r = k.seq r := by
  cases q <;> cases r <;> first | rfl | exact absurd rfl h
theorem queue_setQueue (k : Core) (n : Nat) (l : List QEnt) (m : Nat) :
    (k.setQueue n l).queue m = if m = n then l else k.queue m := get_put [] k.q n l m
theorem chunk_updChunk (k : Core) (n : Nat) (f : Chunk → Chunk) (m : Nat) :
    (k.updChunk n f).chunk m = if m = n then f (k.chunk n) else k.chunk m := by
  simp only [Core.chunk, Core.updChunk, get_put]

/-! Core.noteWait and Core.keepSeen. -/

@[simp] theorem noteWait_ctl (n : Nat) (k : Core) : (k.noteWait n).ctl = k.ctl := rfl
@[simp] theorem noteWait_ld (n : Nat) (k : Core) : (k.noteWait n).ld = k.ld := rfl
@[simp] theorem noteWait_cmp (n : Nat) (k : Core) : (k.noteWait n).cmp = k.cmp := rfl
@[simp] theorem noteWait_st (n : Nat) (k : Core) : (k.noteWait n).st = k.st := rfl
@[simp] theorem noteWait_s (n : Nat) (k : Core) : (k.noteWait n).s = k.s := rfl
@[simp] theorem noteWait_p (n : Nat) (k : Core) : (k.noteWait n).p = k.p := rfl
@[simp] theorem noteWait_h (n : Nat) (k : Core) : (k.noteWait n).h = k.h := rfl
@[simp] theorem noteWait_sem (n : Nat) (k : Core) : (k.noteWait n).sem = k.sem := rfl
@[simp] theorem noteWait_arv (n : Nat) (k : Core) : (k.noteWait n).arv = k.arv := rfl
@[simp] theorem noteWait_tk (n : Nat) (k : Core) : (k.noteWait n).tk = k.tk := rfl
@[simp] theorem noteWait_trap (n : Nat) (k : Core) : (k.noteWait n).trap = k.trap := rfl
@[simp] theorem noteWait_barSel (n : Nat) (k : Core) : (k.noteWait n).barSel = k.barSel := rfl
@[simp] theorem noteWait_tile (n : Nat) (k : Core) : (k.noteWait n).tile = k.tile := rfl
@[simp] theorem noteWait_tmplKept (n : Nat) (k : Core) : (k.noteWait n).tmplKept = k.tmplKept := rfl
@[simp] theorem noteWait_lastNid (n : Nat) (k : Core) : (k.noteWait n).lastNid = k.lastNid := rfl
@[simp] theorem noteWait_sp (n : Nat) (k : Core) : (k.noteWait n).sp = k.sp := rfl
@[simp] theorem noteWait_spPoison (n : Nat) (k : Core) : (k.noteWait n).spPoison = k.spPoison := rfl
@[simp] theorem noteWait_chunks (n : Nat) (k : Core) : (k.noteWait n).chunks = k.chunks := rfl
@[simp] theorem noteWait_windows (n : Nat) (k : Core) : (k.noteWait n).windows = k.windows := rfl
@[simp] theorem noteWait_q (n : Nat) (k : Core) : (k.noteWait n).q = k.q := rfl
@[simp] theorem noteWait_lds (n : Nat) (k : Core) : (k.noteWait n).lds = k.lds := rfl
@[simp] theorem noteWait_sts (n : Nat) (k : Core) : (k.noteWait n).sts = k.sts := rfl
@[simp] theorem noteWait_shapeCache (n : Nat) (k : Core) : (k.noteWait n).shapeCache = k.shapeCache := rfl
@[simp] theorem noteWait_shMiss (n : Nat) (k : Core) : (k.noteWait n).shMiss = k.shMiss := rfl
@[simp] theorem noteWait_shHit (n : Nat) (k : Core) : (k.noteWait n).shHit = k.shHit := rfl
@[simp] theorem noteWait_mqBound (n : Nat) (k : Core) : (k.noteWait n).mqBound = k.mqBound := rfl
@[simp] theorem noteWait_mqGrants (n : Nat) (k : Core) : (k.noteWait n).mqGrants = k.mqGrants := rfl
@[simp] theorem noteWait_comp (n : Nat) (k : Core) : (k.noteWait n).comp = k.comp := rfl
@[simp] theorem noteWait_v (n : Nat) (k : Core) : (k.noteWait n).v = k.v := rfl
@[simp] theorem noteWait_k (n : Nat) (k : Core) : (k.noteWait n).k = k.k := rfl
@[simp] theorem noteWait_flags (n : Nat) (k : Core) : (k.noteWait n).flags = k.flags := rfl
@[simp] theorem noteWait_vuA (n : Nat) (k : Core) : (k.noteWait n).vuA = k.vuA := rfl
@[simp] theorem noteWait_vuB (n : Nat) (k : Core) : (k.noteWait n).vuB = k.vuB := rfl
@[simp] theorem noteWait_vuF (n : Nat) (k : Core) : (k.noteWait n).vuF = k.vuF := rfl
@[simp] theorem noteWait_ops (n : Nat) (k : Core) : (k.noteWait n).ops = k.ops := rfl
@[simp] theorem noteWait_mx (n : Nat) (k : Core) : (k.noteWait n).mx = k.mx := rfl
@[simp] theorem noteWait_copies (n : Nat) (k : Core) : (k.noteWait n).copies = k.copies := rfl
@[simp] theorem noteWait_rdcFloor (n : Nat) (k : Core) : (k.noteWait n).rdcFloor = k.rdcFloor := rfl
@[simp] theorem noteWait_nextId (n : Nat) (k : Core) : (k.noteWait n).nextId = k.nextId := rfl
@[simp] theorem noteWait_watch (n : Nat) (k : Core) : (k.noteWait n).watch = k.watch := rfl
@[simp] theorem noteWait_soiled (n : Nat) (k : Core) : (k.noteWait n).soiled = k.soiled := rfl
@[simp] theorem keepSeen_ctl (m : Memory) (l : List (Nat × Byte)) (k : Core) : (k.keepSeen m l).ctl = k.ctl := rfl
@[simp] theorem keepSeen_ld (m : Memory) (l : List (Nat × Byte)) (k : Core) : (k.keepSeen m l).ld = k.ld := rfl
@[simp] theorem keepSeen_cmp (m : Memory) (l : List (Nat × Byte)) (k : Core) : (k.keepSeen m l).cmp = k.cmp := rfl
@[simp] theorem keepSeen_st (m : Memory) (l : List (Nat × Byte)) (k : Core) : (k.keepSeen m l).st = k.st := rfl
@[simp] theorem keepSeen_s (m : Memory) (l : List (Nat × Byte)) (k : Core) : (k.keepSeen m l).s = k.s := rfl
@[simp] theorem keepSeen_p (m : Memory) (l : List (Nat × Byte)) (k : Core) : (k.keepSeen m l).p = k.p := rfl
@[simp] theorem keepSeen_h (m : Memory) (l : List (Nat × Byte)) (k : Core) : (k.keepSeen m l).h = k.h := rfl
@[simp] theorem keepSeen_sem (m : Memory) (l : List (Nat × Byte)) (k : Core) : (k.keepSeen m l).sem = k.sem := rfl
@[simp] theorem keepSeen_arv (m : Memory) (l : List (Nat × Byte)) (k : Core) : (k.keepSeen m l).arv = k.arv := rfl
@[simp] theorem keepSeen_tk (m : Memory) (l : List (Nat × Byte)) (k : Core) : (k.keepSeen m l).tk = k.tk := rfl
@[simp] theorem keepSeen_trap (m : Memory) (l : List (Nat × Byte)) (k : Core) : (k.keepSeen m l).trap = k.trap := rfl
@[simp] theorem keepSeen_barSel (m : Memory) (l : List (Nat × Byte)) (k : Core) : (k.keepSeen m l).barSel = k.barSel := rfl
@[simp] theorem keepSeen_tmplKept (m : Memory) (l : List (Nat × Byte)) (k : Core) : (k.keepSeen m l).tmplKept = k.tmplKept := rfl
@[simp] theorem keepSeen_lastNid (m : Memory) (l : List (Nat × Byte)) (k : Core) : (k.keepSeen m l).lastNid = k.lastNid := rfl
@[simp] theorem keepSeen_sp (m : Memory) (l : List (Nat × Byte)) (k : Core) : (k.keepSeen m l).sp = k.sp := rfl
@[simp] theorem keepSeen_spPoison (m : Memory) (l : List (Nat × Byte)) (k : Core) : (k.keepSeen m l).spPoison = k.spPoison := rfl
@[simp] theorem keepSeen_chunks (m : Memory) (l : List (Nat × Byte)) (k : Core) : (k.keepSeen m l).chunks = k.chunks := rfl
@[simp] theorem keepSeen_windows (m : Memory) (l : List (Nat × Byte)) (k : Core) : (k.keepSeen m l).windows = k.windows := rfl
@[simp] theorem keepSeen_q (m : Memory) (l : List (Nat × Byte)) (k : Core) : (k.keepSeen m l).q = k.q := rfl
@[simp] theorem keepSeen_lds (m : Memory) (l : List (Nat × Byte)) (k : Core) : (k.keepSeen m l).lds = k.lds := rfl
@[simp] theorem keepSeen_sts (m : Memory) (l : List (Nat × Byte)) (k : Core) : (k.keepSeen m l).sts = k.sts := rfl
@[simp] theorem keepSeen_shapeCache (m : Memory) (l : List (Nat × Byte)) (k : Core) : (k.keepSeen m l).shapeCache = k.shapeCache := rfl
@[simp] theorem keepSeen_shMiss (m : Memory) (l : List (Nat × Byte)) (k : Core) : (k.keepSeen m l).shMiss = k.shMiss := rfl
@[simp] theorem keepSeen_shHit (m : Memory) (l : List (Nat × Byte)) (k : Core) : (k.keepSeen m l).shHit = k.shHit := rfl
@[simp] theorem keepSeen_mqBound (m : Memory) (l : List (Nat × Byte)) (k : Core) : (k.keepSeen m l).mqBound = k.mqBound := rfl
@[simp] theorem keepSeen_mqWait (m : Memory) (l : List (Nat × Byte)) (k : Core) : (k.keepSeen m l).mqWait = k.mqWait := rfl
@[simp] theorem keepSeen_mqGrants (m : Memory) (l : List (Nat × Byte)) (k : Core) : (k.keepSeen m l).mqGrants = k.mqGrants := rfl
@[simp] theorem keepSeen_comp (m : Memory) (l : List (Nat × Byte)) (k : Core) : (k.keepSeen m l).comp = k.comp := rfl
@[simp] theorem keepSeen_v (m : Memory) (l : List (Nat × Byte)) (k : Core) : (k.keepSeen m l).v = k.v := rfl
@[simp] theorem keepSeen_k (m : Memory) (l : List (Nat × Byte)) (k : Core) : (k.keepSeen m l).k = k.k := rfl
@[simp] theorem keepSeen_flags (m : Memory) (l : List (Nat × Byte)) (k : Core) : (k.keepSeen m l).flags = k.flags := rfl
@[simp] theorem keepSeen_vuA (m : Memory) (l : List (Nat × Byte)) (k : Core) : (k.keepSeen m l).vuA = k.vuA := rfl
@[simp] theorem keepSeen_vuB (m : Memory) (l : List (Nat × Byte)) (k : Core) : (k.keepSeen m l).vuB = k.vuB := rfl
@[simp] theorem keepSeen_vuF (m : Memory) (l : List (Nat × Byte)) (k : Core) : (k.keepSeen m l).vuF = k.vuF := rfl
@[simp] theorem keepSeen_ops (m : Memory) (l : List (Nat × Byte)) (k : Core) : (k.keepSeen m l).ops = k.ops := rfl
@[simp] theorem keepSeen_mx (m : Memory) (l : List (Nat × Byte)) (k : Core) : (k.keepSeen m l).mx = k.mx := rfl
@[simp] theorem keepSeen_rdcFloor (m : Memory) (l : List (Nat × Byte)) (k : Core) : (k.keepSeen m l).rdcFloor = k.rdcFloor := rfl
@[simp] theorem keepSeen_nextId (m : Memory) (l : List (Nat × Byte)) (k : Core) : (k.keepSeen m l).nextId = k.nextId := rfl
@[simp] theorem keepSeen_watch (m : Memory) (l : List (Nat × Byte)) (k : Core) : (k.keepSeen m l).watch = k.watch := rfl
@[simp] theorem keepSeen_soiled (m : Memory) (l : List (Nat × Byte)) (k : Core) : (k.keepSeen m l).soiled = k.soiled := rfl

/-! Cluster.keepTlb and Cluster.tlbFill. -/

@[simp] theorem keepTlb_xsem (p : TlbEnt → Bool) (c : Cluster) : (c.keepTlb p).xsem = c.xsem := rfl
@[simp] theorem keepTlb_bar (p : TlbEnt → Bool) (c : Cluster) : (c.keepTlb p).bar = c.bar := rfl
@[simp] theorem keepTlb_near (p : TlbEnt → Bool) (c : Cluster) : (c.keepTlb p).near = c.near := rfl
@[simp] theorem keepTlb_muSplit (p : TlbEnt → Bool) (c : Cluster) : (c.keepTlb p).muSplit = c.muSplit := rfl
@[simp] theorem keepTlb_muFaultVa (p : TlbEnt → Bool) (c : Cluster) : (c.keepTlb p).muFaultVa = c.muFaultVa := rfl
@[simp] theorem keepTlb_ceBytes (p : TlbEnt → Bool) (c : Cluster) : (c.keepTlb p).ceBytes = c.ceBytes := rfl
@[simp] theorem keepTlb_ceBad (p : TlbEnt → Bool) (c : Cluster) : (c.keepTlb p).ceBad = c.ceBad := rfl
@[simp] theorem keepTlb_ceBlocks (p : TlbEnt → Bool) (c : Cluster) : (c.keepTlb p).ceBlocks = c.ceBlocks := rfl
@[simp] theorem keepTlb_fi (p : TlbEnt → Bool) (c : Cluster) : (c.keepTlb p).fi = c.fi := rfl
@[simp] theorem keepTlb_tlbFills (p : TlbEnt → Bool) (c : Cluster) : (c.keepTlb p).tlbFills = c.tlbFills := rfl
@[simp] theorem tlbFill_xsem (b : Bool) (e : TlbEnt) (c : Cluster) : (c.tlbFill b e).xsem = c.xsem := rfl
@[simp] theorem tlbFill_bar (b : Bool) (e : TlbEnt) (c : Cluster) : (c.tlbFill b e).bar = c.bar := rfl
@[simp] theorem tlbFill_near (b : Bool) (e : TlbEnt) (c : Cluster) : (c.tlbFill b e).near = c.near := rfl
@[simp] theorem tlbFill_muSplit (b : Bool) (e : TlbEnt) (c : Cluster) : (c.tlbFill b e).muSplit = c.muSplit := rfl
@[simp] theorem tlbFill_muFaultVa (b : Bool) (e : TlbEnt) (c : Cluster) : (c.tlbFill b e).muFaultVa = c.muFaultVa := rfl
@[simp] theorem tlbFill_ceBytes (b : Bool) (e : TlbEnt) (c : Cluster) : (c.tlbFill b e).ceBytes = c.ceBytes := rfl
@[simp] theorem tlbFill_ceBad (b : Bool) (e : TlbEnt) (c : Cluster) : (c.tlbFill b e).ceBad = c.ceBad := rfl
@[simp] theorem tlbFill_ceBlocks (b : Bool) (e : TlbEnt) (c : Cluster) : (c.tlbFill b e).ceBlocks = c.ceBlocks := rfl
@[simp] theorem tlbFill_fi (b : Bool) (e : TlbEnt) (c : Cluster) : (c.tlbFill b e).fi = c.fi := rfl

/-! SeqState.stop. -/

@[simp] theorem stop_pc (x : SeqState) : x.stop.pc = x.pc := rfl
@[simp] theorem stop_stage (x : SeqState) : x.stop.stage = x.stage := rfl
@[simp] theorem stop_iters (x : SeqState) : x.stop.iters = x.iters := rfl
@[simp] theorem stop_edge (x : SeqState) : x.stop.edge = x.edge := rfl
@[simp] theorem stop_pinned (x : SeqState) : x.stop.pinned = x.pinned := rfl
@[simp] theorem stop_run (x : SeqState) : x.stop.run = .trapped := rfl

end Sys2Proof.Laws
end

