-- ==== Sys2Proof/Laws/Ops.lean ====
section
/-! SUPPORT. How actions run, what the shared operations of the sequencers do, and a relation between the states before
and after an action that goes through every way of composing actions. -/

namespace Sys2Proof.Laws

open Sys2Proof.Machine

/-! Running an action. -/

theorem bind_run {α β : Type} (x : Act α) (f : α → Act β) (s : State) :
    (x >>= f) s = match x s with
      | .ok a t => f a t
      | .error e t => .error e t := by
  show EStateM.bind x f s = _
  unfold EStateM.bind; cases x s <;> rfl

@[simp] theorem pure_run {α : Type} (a : α) (s : State) : (pure a : Act α) s = .ok a s := rfl
@[simp] theorem get_run (s : State) : (get : Act State) s = .ok s s := rfl
@[simp] theorem set_run (t s : State) : (set t : Act Unit) s = .ok () t := rfl
@[simp] theorem modify_run (f : State → State) (s : State) : (modify f : Act Unit) s = .ok () (f s) := rfl
@[simp] theorem throw_run {α : Type} (e : Stop) (s : State) : (throw e : Act α) s = .error e s := rfl
@[simp] theorem trap_run {α : Type} (c : Machine.Code) (va : Nat) (s : State) : (trap c va : Act α) s = .error (.trap c va) s := rfl
@[simp] theorem waitFor_run {α : Type} (w : Wait) (s : State) : (waitFor w : Act α) s = .error (.wait w) s := rfl

theorem bind_of_ok {α β : Type} {x : Act α} {f : α → Act β} {s t : State} {a : α} (h : x s = .ok a t) : (x >>= f) s = f a t := by
  rw [bind_run, h]

theorem bind_of_error {α β : Type} {x : Act α} {f : α → Act β} {s t : State} {e : Stop} (h : x s = .error e t) :
    (x >>= f) s = .error e t := by rw [bind_run, h]

/-- An action in two parts that succeeds: both do. -/
theorem bind_ok {α β : Type} {x : Act α} {f : α → Act β} {s u : State} {b : β} (h : (x >>= f) s = .ok b u) :
    ∃ a t, x s = .ok a t ∧ f a t = .ok b u := by
  rw [bind_run] at h
  split at h
  · exact ⟨_, _, ‹_›, h⟩
  · cases h

theorem trapIf_run (b : Bool) (c : Machine.Code) (va : Nat) (s : State) :
    trapIf b c va s = if b = true then .error (.trap c va) s else .ok () s := by cases b <;> rfl

@[simp] theorem trapIf_false (c : Machine.Code) (va : Nat) : trapIf false c va = pure () := rfl
@[simp] theorem trapIf_true (c : Machine.Code) (va : Nat) : trapIf true c va = trap c va := rfl

theorem attempt_run {α : Type} (a : Act α) (s : State) : attempt a s = match a s with
    | .ok v t => .ok (.ok v) t
    | .error e t => .ok (.error e) t := rfl

/-- Actions that each succeed and leave the state as it was do so one after another. -/
theorem each_same {α : Type} {l : List α} {f : α → Act Unit} {s : State} (h : ∀ a ∈ l, f a s = .ok () s) : each l f s = .ok () s := by
  induction l with
  | nil => rfl
  | cons a r ih =>
    show (f a >>= fun _ => each r f) s = _
    rw [bind_of_ok (h a (List.mem_cons_self ..))]
    exact ih fun b hb => h b (List.mem_cons_of_mem _ hb)

/-- Touching scratchpad chunks of which no window holds one does nothing (02 R46). -/
theorem touchChunks_bare {c a n : Nat} {s : State} (h : ∀ x, (s.coreOf c).windowAt x = none) : touchChunks c a n s = .ok () s := by
  refine each_same fun x _ => ?_
  simp only [bind_run, get_run, h, pure_run]

theorem windowAt_nil {k : Core} (h : k.windows = []) (x : Nat) : k.windowAt x = none := by simp [Core.windowAt, h]

/-! How a step of a sequencer ends. -/

/-- An instruction whose fields are legal runs its effect. -/
theorem plain_run {q : Seq} {i : Instr} (a : Act Unit) (s : State) (h : fieldsOk q i = true) :
    plain q i a s = settle s.core q (a s) := by
  simp only [plain, h, trapIf]; rfl

/-- An instruction with an illegal field traps RESERVED_FIELD. -/
theorem plain_reserved {q : Seq} {i : Instr} (a : Act Unit) (s : State) (h : fieldsOk q i = false) :
    plain q i a s = settle s.core q (.error (.trap .reservedField 0) s) := by
  simp only [plain, h, trapIf]; rfl

@[simp] theorem settle_ok (c : Nat) (q : Seq) (t : State) : settle c q (.ok () t) = .next t := rfl
theorem settle_trap (c : Nat) (q : Seq) (code : Machine.Code) (va : Nat) (t : State) :
    settle c q (.error (.trap code va) t) = outcomeOf (takeTrap c q code va 0 t) := rfl
@[simp] theorem settle_wait (c : Nat) (q : Seq) (w : Wait) (t : State) :
    settle c q (.error (.wait w) t) = .next (stallSeq c q w t) := rfl
@[simp] theorem outcomeOf_ok (t : State) : outcomeOf (.ok () t) = .next t := rfl

theorem event_off {enabled : State → Bool} (a : Act Unit) {s : State} (h : enabled s = false) : event enabled a s = .next s := by
  simp [event, h]
theorem event_on {enabled : State → Bool} (a : Act Unit) {s : State} (h : enabled s = true) :
    event enabled a s = outcomeOf (a s) := by simp [event, h]

/-- A `plain` instruction answers a next state whenever its effect does not stop on a hole of the address space. -/
theorem settle_next {c : Nat} {q : Seq} {r : EStateM.Result Stop State Unit}
    (h : ∀ e t, r = .error e t → (∃ w, e = .wait w) ∨ (∃ a p v, e = .held a p v) ∨ (∃ v, e = .refused v) ∨ ∃ l, e = .peer l) :
    ∃ t, settle c q r = .next t := by
  cases r with
  | ok u t => cases u; exact ⟨t, rfl⟩
  | error e t =>
    rcases h e t rfl with ⟨w, rfl⟩ | ⟨a, p, v, rfl⟩ | ⟨v, rfl⟩ | ⟨l, rfl⟩ <;> exact ⟨_, rfl⟩

/-! Moving on. -/

@[simp] theorem clearWaits_clearWaits (x : SeqState) : x.clearWaits.clearWaits = x.clearWaits := rfl
@[simp] theorem clearWaits_pc (x : SeqState) : x.clearWaits.pc = x.pc := rfl
@[simp] theorem clearWaits_stage (x : SeqState) : x.clearWaits.stage = x.stage := rfl
@[simp] theorem clearWaits_iters (x : SeqState) : x.clearWaits.iters = x.iters := rfl
@[simp] theorem clearWaits_run (x : SeqState) : x.clearWaits.run = x.run := rfl

/-- Going to an address changes the cores, and nothing else. -/
theorem goto_frame (s : State) (c : Nat) (q : Seq) (addr : DWord) : s.goto c q addr = { s with cores := (s.goto c q addr).cores } := by
  unfold State.goto; dsimp only; split <;> rfl
theorem advance_frame (s : State) (c : Nat) (q : Seq) (n : Nat) :
    s.advance c q n = { s with cores := (s.advance c q n).cores } := goto_frame s c q _

/-- Going to an address changes a core's sequencer and the clock of its tile's last issue, and nothing else. -/
theorem goto_core (s : State) (c : Nat) (q : Seq) (addr : DWord) : ∃ y,
    (s.goto c q addr).coreOf c = { (s.coreOf c).setSeq q y with
      tile := (s.coreOf c).tile.map fun t => { t with lastIssue := s.cycle } } := by
  unfold State.goto; dsimp only
  split
  · rename_i h
    exact ⟨{ ((s.coreOf c).seq q).clearWaits with pc := addr }, by rw [State.updSeq, coreOf_updCore_same, h]; cases q <;> simp [Core.updSeq, Core.setSeq, h]⟩
  · rename_i t h
    exact ⟨_, by rw [coreOf_setCore_same, h]; rfl⟩

theorem goto_other (s : State) {c d : Nat} (q : Seq) (addr : DWord) (h : d ≠ c) : (s.goto c q addr).coreOf d = s.coreOf d := by
  unfold State.goto; dsimp only
  split
  · rw [State.updSeq, coreOf_updCore, if_neg h]
  · rw [coreOf_setCore, if_neg h]

theorem branchTo_run {q : Seq} {addr : DWord} (s : State) (h : addr.toNat % 4 = 0) :
    branchTo q addr s = .ok () (s.goto s.core q addr) := by
  simp [branchTo, h]

theorem branchTo_align {q : Seq} {addr : DWord} (s : State) (h : addr.toNat % 4 ≠ 0) :
    branchTo q addr s = .error (.trap .align addr.toNat) s := by
  simp [branchTo, h]; rfl

/-! The integer forms of CTL. -/

theorem intOp_run (d a b : BitVec 6) (f : DWord → DWord → DWord) (s : State) :
    intOp d a b f s = .ok () (ctlDone s 4 fun k => k.setS d.toNat (f (s.here.sreg a.toNat) (s.here.sreg b.toNat))) := rfl
theorem immOp_run (o : RI) (f : DWord → DWord) (s : State) :
    immOp o f s = .ok () (ctlDone s 4 fun k => k.setS o.d.toNat (f (s.here.sreg o.a.toNat))) := rfl
theorem longOp_run (d : BitVec 6) (f : Core → DWord) (s : State) :
    longOp d f s = .ok () (ctlDone s 8 fun k => k.setS d.toNat (f s.here)) := rfl
theorem cmpOp_run (n : Nat) (d : BitVec 6) (f : Core → Bool) (s : State) :
    cmpOp n d f s = .ok () (ctlDone s n fun k => k.setP d.toNat (f s.here)) := rfl

/-! Waits. -/

/-- A wait changes the sequencer that waits, and nothing else. -/
theorem stallSeq_frame (c : Nat) (q : Seq) (w : Wait) (s : State) :
    stallSeq c q w s = { s with cores := (stallSeq c q w s).cores } := rfl
theorem stallSeq_core (c : Nat) (q : Seq) (w : Wait) (s : State) :
    (stallSeq c q w s).coreOf c = (s.coreOf c).updSeq q fun x => { x with run := .stalled w } := coreOf_updCore_same s c _

/-! Taking a trap (05 R153). -/

/-- Taking a trap outside trap mode, with a trap entry, while CTL has no atomic out. -/
theorem takeTrap_enters {c : Nat} {q : Seq} {t : Tile} (code : Machine.Code) (va : Nat) (imm : BitVec 8) {s : State}
    (hr : q = .ctl ∨ (s.coreOf c).ctl.remote = none) (ht : (s.coreOf c).tile = some t)
    (hm : (s.coreOf c).trap.mode = false) (he : t.nrec.entryHalf .ctl 3 ≠ 0) :
    takeTrap c q code va imm s = .ok () (s.setCore c
      (let k := s.coreOf c
       let k' := if q = .st then k.noteWait s.cycle else k
       let k'' := if q = .ctl then k' else k'.updSeq q SeqState.stop
       { k'' with
         trap := { k''.trap with
           mode := true, code := code.num, seq := seqNum q, imm := imm, pc := (k.seq q).pc, va := BitVec.ofNat 64 va
           ret := k''.ctl.pc }
         ctl := { k''.ctl.clearWaits with pc := BitVec.ofNat 64 (t.nrec.entryAt .ctl 3), run := .running } })) := by
  have hn : (decide (q ≠ .ctl) && (s.coreOf c).ctl.remote.isSome) = false := by
    rcases hr with rfl | h
    · rfl
    · simp [h]
  simp only [takeTrap, bind_run, get_run, hm, Bool.false_eq_true, if_false, hn]
  simp only [enterHandler, bind_run, get_run, ht, he, if_false, set_run]

/-- In trap mode a condition on another sequencer stops it and sets its PEND bit. -/
theorem takeTrap_pends {c : Nat} {q : Seq} (code : Machine.Code) (va : Nat) (imm : BitVec 8) {s : State}
    (hm : (s.coreOf c).trap.mode = true) (hq : q ≠ .ctl) :
    takeTrap c q code va imm s = .ok () (s.updCore c fun k =>
      { (if q = .st then k.noteWait s.cycle else k).updSeq q SeqState.stop with
        trap := { k.trap with pend := k.trap.pend ||| ((1 : BitVec 4) <<< seqNum q) } }) := by
  simp only [takeTrap, bind_run, get_run, hm, hq, if_true, if_false, set_run]

/-! Relations kept by actions. -/

/-- The state that an action leaves, however it ends. -/
def leaves {α : Type} : EStateM.Result Stop State α → State
  | .ok _ t => t
  | .error _ t => t

/-- Every end of an action stands in relation `R` to its start. -/
def Keeps (R : State → State → Prop) {α : Type} (a : Act α) : Prop := ∀ s, R s (leaves (a s))

/-- A relation that every state has to itself and that composes. -/
structure Follows (R : State → State → Prop) : Prop where
  refl : ∀ s, R s s
  trans : ∀ {s t u}, R s t → R t u → R s u

variable {R : State → State → Prop} {α β : Type}

theorem keeps_pure (h : Follows R) (a : α) : Keeps R (pure a) := fun s => h.refl s
theorem keeps_get (h : Follows R) : Keeps R (get : Act State) := fun s => h.refl s
theorem keeps_throw (h : Follows R) (e : Stop) : Keeps R (throw e : Act α) := fun s => h.refl s
theorem keeps_trap (h : Follows R) (c : Machine.Code) (va : Nat) : Keeps R (trap c va : Act α) := fun s => h.refl s
theorem keeps_waitFor (h : Follows R) (w : Wait) : Keeps R (waitFor w : Act α) := fun s => h.refl s
theorem keeps_trapIf (h : Follows R) (b : Bool) (c : Machine.Code) (va : Nat) : Keeps R (trapIf b c va) := by
  intro s; cases b <;> exact h.refl s
theorem keeps_modify {f : State → State} (h : ∀ s, R s (f s)) : Keeps R (modify f : Act Unit) := h
theorem keeps_modifyGet {f : State → α × State} (h : ∀ s, R s (f s).2) : Keeps R (modifyGet f : Act α) := h

theorem keeps_bind (h : Follows R) {x : Act α} {f : α → Act β} (hx : Keeps R x) (hf : ∀ a, Keeps R (f a)) : Keeps R (x >>= f) := by
  intro s
  rw [bind_run]
  have := hx s
  cases e : x s with
  | ok a t => rw [e] at this; exact h.trans this (hf a t)
  | error e' t => rw [e] at this; exact this

/-- An action that reads the state and then depends on what it read. -/
theorem keeps_read {f : State → Act β} (hf : ∀ s, R s (leaves (f s s))) : Keeps R ((get : Act State) >>= f) := hf

theorem keeps_ite (c : Prop) [Decidable c] {x y : Act α} (hx : Keeps R x) (hy : Keeps R y) : Keeps R (if c then x else y) := by
  split <;> assumption

theorem keeps_each (h : Follows R) (l : List α) {f : α → Act Unit} (hf : ∀ a ∈ l, Keeps R (f a)) : Keeps R (each l f) := by
  induction l with
  | nil => exact keeps_pure h ()
  | cons a r ih => exact keeps_bind h (hf a (List.mem_cons_self ..)) fun _ => ih fun b hb => hf b (List.mem_cons_of_mem _ hb)

theorem keeps_collect (h : Follows R) (l : List α) {f : α → Act β} (hf : ∀ a ∈ l, Keeps R (f a)) : Keeps R (collect l f) := by
  induction l with
  | nil => exact keeps_pure h []
  | cons a r ih =>
    exact keeps_bind h (hf a (List.mem_cons_self ..)) fun _ =>
      keeps_bind h (ih fun b hb => hf b (List.mem_cons_of_mem _ hb)) fun _ => keeps_pure h _

theorem keeps_attempt {a : Act α} (ha : Keeps R a) : Keeps R (attempt a) := by
  intro s
  have := ha s
  rw [attempt_run]
  cases e : a s <;> (rw [e] at this; exact this)

theorem keeps_attemptUndo (h : Follows R) {a : Act α} (ha : Keeps R a) : Keeps R (attemptUndo a) := by
  intro s
  have := ha s
  unfold attemptUndo
  cases e : a s <;> rw [e] at this
  · exact this
  · exact h.refl s

/-- A relation between the start and the next state of a step. -/
def StepKeeps (R : State → State → Prop) (f : State → Host.Outcome State Fault Refusal) : Prop :=
  ∀ s t, f s = .next t → R s t

theorem outcomeOf_next {r : EStateM.Result Stop State Unit} {t : State} (h : outcomeOf r = .next t) : leaves r = t := by
  cases r with
  | ok u s => cases h; rfl
  | error e s => cases e <;> simp [outcomeOf] at h <;> exact h

theorem stepKeeps_event (h : Follows R) {enabled : State → Bool} {a : Act Unit} (ha : Keeps R a) : StepKeeps R (event enabled a) := by
  intro s t e
  unfold event at e
  split at e
  · rw [← outcomeOf_next e]; exact ha s
  · cases e; exact h.refl s

/-! The other writers of bytes keep the canonical form too. -/

theorem writeImage_wf (r a : Nat) (l : List Block) {s : State} (h : s.m.wf = true) : (writeImage r a l s).m.wf = true :=
  writeUnstamped_wf _ _ h

theorem placeWord_wf (s : State) (nbits w : Nat) (h : s.m.wf = true) : (placeWord s nbits w).m.wf = true :=
  wf_setBytes (m := { s.m with poison := s.m.poison.filter fun p => decide (p ≥ 34) }) _ h

theorem garble_wf (x : Exchange) {s : State} (h : s.m.wf = true) : (garble x s).m.wf = true := settleShadow_wf _ _ h

theorem freeHeader_wf (r a : Nat) {s : State} (h : s.m.wf = true) : (freeHeader r a s).m.wf = true := writeUnstamped_wf _ _ h

theorem pressHeader_wf (x : Saved) {s : State} (h : s.m.wf = true) : (pressHeader s x).m.wf = true := writeUnstamped_wf _ _ h

theorem dropRange_wf (lo n : Nat) {s : State} (h : s.m.wf = true) : (dropRange lo n s).m.wf = true := by
  have : ((s.clusters.foldl (fun s e =>
      releaseLines e.1 (fun l => decide (lo ≤ l.line * 256 ∧ l.line * 256 < lo + n)) s) s).m).wf = true :=
    foldl_wf _ (fun _ _ => releaseLines_wf _ _) _ h
  exact this

/-! The fault queues: their work never stops an action (06 R170). -/

theorem fqWork_ok (n : Nat) (j : FqJob) (s : State) : ∃ l t, fqWork n j s = .ok l t := by
  induction n generalizing j s with
  | zero => exact ⟨_, _, rfl⟩
  | succ n ih =>
    simp only [fqWork, bind_run, attemptUndo]
    cases fqStep j s with
    | error e t => exact ⟨_, _, rfl⟩
    | ok a t =>
      cases a with
      | none => exact ⟨_, _, rfl⟩
      | some j' => exact ih j' t

theorem fqWorkAll_ok (kept l : List FqJob) (s : State) : ∃ r t, fqWorkAll kept l s = .ok r t := by
  induction l generalizing kept s with
  | nil => exact ⟨_, _, rfl⟩
  | cons j r ih =>
    unfold fqWorkAll
    split
    · exact ih _ s
    · obtain ⟨a, t, h⟩ := fqWork_ok 3 j s
      exact (bind_of_ok h).symm ▸ ih _ t

theorem fqPump_ok (s : State) : ∃ t, fqPump s = .ok () t := by
  obtain ⟨r, t, h⟩ := fqWorkAll_ok [] s.ns.jobs s
  refine ⟨{ t with ns := { t.ns with jobs := r } }, ?_⟩
  simp only [fqPump, bind_run, get_run, h, modify_run]

theorem postRecord_ok (r : Record) (s : State) : ∃ t, postRecord r s = .ok () t := by
  simp only [postRecord, postTo, fqSubmit, bind_run, modify_run]
  exact fqPump_ok _

theorem postEvent_ok (region : Nat) (c : Machine.Code) (va : Nat) (s : State) : ∃ t, postEvent region c va s = .ok () t :=
  postRecord_ok _ s

end Sys2Proof.Laws
end

