-- ==== Sys2Proof/Laws/Effects.lean ====
section
/-! SUPPORT. What translation can do, how the small actions run, and what a publication without copies, windows and
waiting tags does (02 R33–R43, R54, 05 R145). -/

namespace Sys2Proof.Laws

open Sys2Proof.Machine

/-! Translation changes nothing but what the map units hold. -/

/-- Nothing but clusters differs. -/
def OnlyTlb (s t : State) : Prop := t = { s with clusters := t.clusters }

theorem onlyTlb_follows : Follows OnlyTlb := ⟨fun _ => rfl, fun {s t u} h1 h2 => by
  unfold OnlyTlb at *; rw [h2, h1]⟩

theorem keeps_noteFault (x va) : Keeps OnlyTlb (noteFault x va) := by
  intro s; obtain ⟨_ | n, _, _, _⟩ := x <;> exact rfl

theorem keeps_xfault {α} (x c va) : Keeps OnlyTlb (xfault x c va : Act α) := by
  unfold xfault
  cases isXlate c
  · exact keeps_trap onlyTlb_follows c va
  · exact keeps_bind onlyTlb_follows (keeps_noteFault x va) fun _ => keeps_trap onlyTlb_follows c va

theorem keeps_lookup (x va) : Keeps OnlyTlb (lookup x va) := by
  intro s
  obtain ⟨_ | n, _, _, _⟩ := x
  · simp only [lookup, bind_run, get_run]
    cases walk s.m _ va <;> rfl
  · simp only [lookup, bind_run, get_run]
    cases (tlbMatches (s.clusterAt n) _ va).reverse
    · dsimp only; cases walk s.m _ va <;> rfl
    · rfl

theorem keeps_translate (x acc va) : Keeps OnlyTlb (Machine.translate x acc va) := by
  unfold Machine.translate
  refine keeps_ite _ (keeps_xfault _ _ _) ?_
  refine keeps_bind onlyTlb_follows (keeps_attempt (keeps_lookup x va)) fun r => ?_
  split
  · exact keeps_xfault _ _ _
  · exact keeps_throw onlyTlb_follows _
  · refine keeps_bind onlyTlb_follows (keeps_get onlyTlb_follows) fun s => ?_
    refine keeps_ite _ (keeps_xfault _ _ _) ?_
    refine keeps_ite _ (keeps_throw onlyTlb_follows _) ?_
    refine keeps_ite _ (keeps_waitFor onlyTlb_follows _) ?_
    exact keeps_ite _ (keeps_throw onlyTlb_follows _) (keeps_pure onlyTlb_follows _)

/-- A translation that succeeds. -/
theorem translate_only {x acc va} {s t : State} {l} (h : Machine.translate x acc va s = .ok l t) : OnlyTlb s t := by
  have := keeps_translate x acc va s; rw [h] at this; exact this

/-! Small actions. -/

/-- Actions that each answer `g` and leave the state as it was. -/
theorem collect_same {α β} {l : List α} {f : α → Act β} {g : α → β} {s : State} (h : ∀ a ∈ l, f a s = .ok (g a) s) :
    collect l f s = .ok (l.map g) s := by
  induction l with
  | nil => rfl
  | cons a r ih =>
    simp only [collect]
    rw [bind_of_ok (h a (List.mem_cons_self ..)), bind_of_ok (ih fun b hb => h b (List.mem_cons_of_mem _ hb))]
    rfl

theorem tileOf_run {c : Nat} {s : State} {t : Tile} (h : (s.coreOf c).tile = some t) : tileOf c s = .ok t s := by
  unfold tileOf; simp only [bind_run, get_run, h]; rfl

theorem modCore_advance_run (f : Core → Core) (q : Seq) (n : Nat) (u : State) :
    (do modCore f; advance q n : Act Unit) u = .ok () ((u.updCore u.core f).advance u.core q n) := rfl

theorem advance_run (q n) (u : State) : advance q n u = .ok () (u.advance u.core q n) := rfl

theorem modCore_run (f : Core → Core) (u : State) : modCore f u = .ok () (u.updCore u.core f) := rfl

theorem modCoreAt_run (c) (f : Core → Core) (u : State) : modCoreAt c f u = .ok () (u.updCore c f) := rfl

theorem modTile_run (c) (f : Tile → Tile) (u : State) :
    modTile c f u = .ok () (u.updCore c fun k => { k with tile := k.tile.map f }) := rfl

theorem thisCore_run (u : State) : thisCore u = .ok u.here u := rfl

@[simp] theorem releaseLines_core (n p) (s : State) : (releaseLines n p s).core = s.core := by rw [releaseLines_frame]

/-! Publication. -/

theorem copiesPending_nil {s : State} {c} (h : (s.coreOf c).copies = []) : copiesPending s c = false := by simp [copiesPending, h]

theorem writeBackAll_nil {s : State} {c} (h : (s.coreOf c).windows = []) : writeBackAll c s = .ok () s := by
  unfold writeBackAll; simp only [bind_run, get_run, h]; rfl

theorem tagPlaces_nil {s : State} {c} {t} (ht : (s.coreOf c).tile = some t) (h : t.tagUpdates = []) :
    tagPlaces c s = .ok (.ok []) s := by
  unfold tagPlaces; rw [bind_of_ok (tileOf_run ht), h]; rfl

theorem publishWindows_nil {s : State} {c} (h : (s.coreOf c).windows = []) : publishWindows c s = .ok () s := by
  unfold publishWindows; rw [bind_run, attempt_run, writeBackAll_nil h]; rfl

/-- With no copy outstanding, no window and no waiting tag, publishing is committing the version. -/
theorem publish_run {s u : State} {c q kind} {t : Tile} (ht : (s.coreOf c).tile = some t) (hc : (s.coreOf c).copies = [])
    (hw : (s.coreOf c).windows = []) (hg : t.tagUpdates = []) (hv : commitVersion c s = .ok () u) : publish c q kind s = .ok true u := by
  unfold publish
  simp only [bind_run, get_run, copiesPending_nil hc, Bool.false_eq_true, if_false]
  simp only [bind_run, publishWindows_nil hw, tagPlaces_nil ht hg, tileOf_run ht, hv, pure_run]
  rfl

end Sys2Proof.Laws
end

