-- ==== Sys2Proof/Laws/PerInstr.lean ====
section
/-! SUPPORT. Decoding inverts encoding, one lemma for each constructor of Instr. -/

set_option linter.unusedSimpArgs false

namespace Sys2Proof.Laws

open Sys2Proof.Machine

/-! Fields of concatenated bits. -/

theorem bits_append_low {n m : Nat} (a : BitVec n) (b : BitVec m) (lo k : Nat) (h : lo + k ≤ m) :
    bits (BitVec.append a b) lo k = bits b lo k := BitVec.extractLsb'_append_eq_of_add_le h

theorem bits_append_high {n m : Nat} (a : BitVec n) (b : BitVec m) (lo k : Nat) (h : m ≤ lo) :
    bits (BitVec.append a b) lo k = bits a (lo - m) k := BitVec.extractLsb'_append_eq_of_le h

theorem bits_all {n : Nat} (a : BitVec n) : bits a 0 n = a := by simp [bits]

theorem bits_bits {n : Nat} (a : BitVec n) (lo k lo' k' : Nat) (h : lo' + k' ≤ k) :
    bits (bits a lo k) lo' k' = bits a (lo + lo') k' := by
  apply BitVec.eq_of_getLsbD_eq
  intro i hi
  simp only [bits, BitVec.getLsbD_extractLsb', hi, decide_true, Bool.true_and]
  have : lo' + i < k := by omega
  simp [this, Nat.add_assoc]

/-! Each format writes the fields that its reader reads (R94). -/

theorem rdR3_wrR3 (g : BitVec 6) (op f : Nat) (o : R3) :
    rdR3 (wrR3 g op f o) = o := by
  simp (discharger := decide) only [HAppend.hAppend, rdR3, wrR3, bits_append_low, bits_append_high, bits_all,
    Nat.reduceSub, Nat.reduceAdd]

theorem wrR3_op (g : BitVec 6) (op f : Nat) (o : R3) :
    bits (wrR3 g op f o) 26 6 = BitVec.ofNat 6 op := by
  simp (discharger := decide) only [HAppend.hAppend, wrR3, bits_append_low, bits_append_high, bits_all,
    Nat.reduceSub, Nat.reduceAdd]

theorem wrR3_guard (g : BitVec 6) (op f : Nat) (o : R3) :
    bits (wrR3 g op f o) 20 6 = g := by
  simp (discharger := decide) only [HAppend.hAppend, wrR3, bits_append_low, bits_append_high, bits_all,
    Nat.reduceSub, Nat.reduceAdd]

theorem wrR3_sel (g : BitVec 6) (op f : Nat) (o : R3) :
    bits (wrR3 g op f o) 0 2 = BitVec.ofNat 2 f := by
  simp (discharger := decide) only [HAppend.hAppend, wrR3, bits_append_low, bits_append_high, bits_all,
    Nat.reduceSub, Nat.reduceAdd]

theorem rdR3F_wrR3F (g : BitVec 6) (op : Nat) (o : R3F) :
    rdR3F (wrR3F g op o) = o := by
  simp (discharger := decide) only [HAppend.hAppend, rdR3F, wrR3F, bits_append_low, bits_append_high, bits_all,
    Nat.reduceSub, Nat.reduceAdd]

theorem wrR3F_op (g : BitVec 6) (op : Nat) (o : R3F) :
    bits (wrR3F g op o) 26 6 = BitVec.ofNat 6 op := by
  simp (discharger := decide) only [HAppend.hAppend, wrR3F, bits_append_low, bits_append_high, bits_all,
    Nat.reduceSub, Nat.reduceAdd]

theorem wrR3F_guard (g : BitVec 6) (op : Nat) (o : R3F) :
    bits (wrR3F g op o) 20 6 = g := by
  simp (discharger := decide) only [HAppend.hAppend, wrR3F, bits_append_low, bits_append_high, bits_all,
    Nat.reduceSub, Nat.reduceAdd]

theorem wrR3F_sel (g : BitVec 6) (op : Nat) (o : R3F) :
    bits (wrR3F g op o) 0 2 = o.f := by
  simp (discharger := decide) only [HAppend.hAppend, wrR3F, bits_append_low, bits_append_high, bits_all,
    Nat.reduceSub, Nat.reduceAdd]

theorem rdRI_wrRI (g : BitVec 6) (op : Nat) (o : RI) :
    rdRI (wrRI g op o) = o := by
  simp (discharger := decide) only [HAppend.hAppend, rdRI, wrRI, bits_append_low, bits_append_high, bits_all,
    Nat.reduceSub, Nat.reduceAdd]

theorem wrRI_op (g : BitVec 6) (op : Nat) (o : RI) :
    bits (wrRI g op o) 26 6 = BitVec.ofNat 6 op := by
  simp (discharger := decide) only [HAppend.hAppend, wrRI, bits_append_low, bits_append_high, bits_all,
    Nat.reduceSub, Nat.reduceAdd]

theorem wrRI_guard (g : BitVec 6) (op : Nat) (o : RI) :
    bits (wrRI g op o) 20 6 = g := by
  simp (discharger := decide) only [HAppend.hAppend, wrRI, bits_append_low, bits_append_high, bits_all,
    Nat.reduceSub, Nat.reduceAdd]

theorem rdRL_wrRL (g : BitVec 6) (op : Nat) (o : RL) :
    rdRL (wrRL g op o) o.ext = o := by
  simp (discharger := decide) only [HAppend.hAppend, rdRL, wrRL, bits_append_low, bits_append_high, bits_all,
    Nat.reduceSub, Nat.reduceAdd]

theorem wrRL_op (g : BitVec 6) (op : Nat) (o : RL) :
    bits (wrRL g op o) 26 6 = BitVec.ofNat 6 op := by
  simp (discharger := decide) only [HAppend.hAppend, wrRL, bits_append_low, bits_append_high, bits_all,
    Nat.reduceSub, Nat.reduceAdd]

theorem wrRL_guard (g : BitVec 6) (op : Nat) (o : RL) :
    bits (wrRL g op o) 20 6 = g := by
  simp (discharger := decide) only [HAppend.hAppend, wrRL, bits_append_low, bits_append_high, bits_all,
    Nat.reduceSub, Nat.reduceAdd]

theorem rdRL5_wrRL5 (g : BitVec 6) (op sel : Nat) (o : RL5) :
    rdRL5 (wrRL5 g op sel o) o.ext = o := by
  simp (discharger := decide) only [HAppend.hAppend, rdRL5, wrRL5, bits_append_low, bits_append_high, bits_all,
    Nat.reduceSub, Nat.reduceAdd]

theorem wrRL5_op (g : BitVec 6) (op sel : Nat) (o : RL5) :
    bits (wrRL5 g op sel o) 26 6 = BitVec.ofNat 6 op := by
  simp (discharger := decide) only [HAppend.hAppend, wrRL5, bits_append_low, bits_append_high, bits_all,
    Nat.reduceSub, Nat.reduceAdd]

theorem wrRL5_guard (g : BitVec 6) (op sel : Nat) (o : RL5) :
    bits (wrRL5 g op sel o) 20 6 = g := by
  simp (discharger := decide) only [HAppend.hAppend, wrRL5, bits_append_low, bits_append_high, bits_all,
    Nat.reduceSub, Nat.reduceAdd]

theorem wrRL5_sel (g : BitVec 6) (op sel : Nat) (o : RL5) :
    bits (wrRL5 g op sel o) 0 3 = BitVec.ofNat 3 sel := by
  simp (discharger := decide) only [HAppend.hAppend, wrRL5, bits_append_low, bits_append_high, bits_all,
    Nat.reduceSub, Nat.reduceAdd]

theorem rdRL4_wrRL4 (g : BitVec 6) (op sel : Nat) (o : RL4) :
    rdRL4 (wrRL4 g op sel o) o.ext = o := by
  simp (discharger := decide) only [HAppend.hAppend, rdRL4, wrRL4, bits_append_low, bits_append_high, bits_all,
    Nat.reduceSub, Nat.reduceAdd]

theorem wrRL4_op (g : BitVec 6) (op sel : Nat) (o : RL4) :
    bits (wrRL4 g op sel o) 26 6 = BitVec.ofNat 6 op := by
  simp (discharger := decide) only [HAppend.hAppend, wrRL4, bits_append_low, bits_append_high, bits_all,
    Nat.reduceSub, Nat.reduceAdd]

theorem wrRL4_guard (g : BitVec 6) (op sel : Nat) (o : RL4) :
    bits (wrRL4 g op sel o) 20 6 = g := by
  simp (discharger := decide) only [HAppend.hAppend, wrRL4, bits_append_low, bits_append_high, bits_all,
    Nat.reduceSub, Nat.reduceAdd]

theorem wrRL4_sel (g : BitVec 6) (op sel : Nat) (o : RL4) :
    bits (wrRL4 g op sel o) 0 4 = BitVec.ofNat 4 sel := by
  simp (discharger := decide) only [HAppend.hAppend, wrRL4, bits_append_low, bits_append_high, bits_all,
    Nat.reduceSub, Nat.reduceAdd]

theorem rdB_wrB (g : BitVec 6) (op : Nat) (o : BOff) :
    rdB (wrB g op o) = o := by
  simp (discharger := decide) only [HAppend.hAppend, rdB, wrB, bits_append_low, bits_append_high, bits_all,
    Nat.reduceSub, Nat.reduceAdd]

theorem wrB_op (g : BitVec 6) (op : Nat) (o : BOff) :
    bits (wrB g op o) 26 6 = BitVec.ofNat 6 op := by
  simp (discharger := decide) only [HAppend.hAppend, wrB, bits_append_low, bits_append_high, bits_all,
    Nat.reduceSub, Nat.reduceAdd]

theorem wrB_guard (g : BitVec 6) (op : Nat) (o : BOff) :
    bits (wrB g op o) 20 6 = g := by
  simp (discharger := decide) only [HAppend.hAppend, wrB, bits_append_low, bits_append_high, bits_all,
    Nat.reduceSub, Nat.reduceAdd]

theorem rdCmd_wrCmd (g : BitVec 6) (sub : Nat) (o : Cmd) :
    rdCmd (wrCmd g o) (wrSub sub o) = o := by
  simp (discharger := decide) only [HAppend.hAppend, rdCmd, wrCmd, wrSub, bits_append_low, bits_append_high, bits_all,
    Nat.reduceSub, Nat.reduceAdd]

theorem wrCmd_op (g : BitVec 6) (o : Cmd) :
    bits (wrCmd g o) 26 6 = BitVec.ofNat 6 58 := by
  simp (discharger := decide) only [HAppend.hAppend, wrCmd, bits_append_low, bits_append_high, bits_all,
    Nat.reduceSub, Nat.reduceAdd]

theorem wrCmd_guard (g : BitVec 6) (o : Cmd) :
    bits (wrCmd g o) 20 6 = g := by
  simp (discharger := decide) only [HAppend.hAppend, wrCmd, bits_append_low, bits_append_high, bits_all,
    Nat.reduceSub, Nat.reduceAdd]

theorem wrCmd_sel1 (g : BitVec 6) (o : Cmd) :
    bits (wrCmd g o) 0 1 = bits o.f8 0 1 := by
  simp (discharger := decide) only [HAppend.hAppend, wrCmd, bits_append_low, bits_append_high, bits_all,
    Nat.reduceSub, Nat.reduceAdd]

theorem wrCmd_sel2 (g : BitVec 6) (o : Cmd) :
    bits (wrCmd g o) 0 2 = bits o.f8 0 2 := by
  simp (discharger := decide) only [HAppend.hAppend, wrCmd, bits_append_low, bits_append_high, bits_all,
    Nat.reduceSub, Nat.reduceAdd]

theorem wrSub_sub (sub : Nat) (o : Cmd) :
    bits (wrSub sub o) 24 8 = BitVec.ofNat 8 sub := by
  simp (discharger := decide) only [HAppend.hAppend, wrSub, bits_append_low, bits_append_high, bits_all,
    Nat.reduceSub, Nat.reduceAdd]

theorem rdVTmpl_wrVTmpl (top : Nat) (t : VTmpl) :
    rdVTmpl (wrVTmpl top t) = t := by
  simp (discharger := decide) only [HAppend.hAppend, rdVTmpl, wrVTmpl, bits_append_low, bits_append_high, bits_all,
    Nat.reduceSub, Nat.reduceAdd]

theorem wrVTmpl_top (top : Nat) (t : VTmpl) :
    bits (wrVTmpl top t) 120 8 = BitVec.ofNat 8 top := by
  simp (discharger := decide) only [HAppend.hAppend, wrVTmpl, bits_append_low, bits_append_high, bits_all,
    Nat.reduceSub, Nat.reduceAdd]

theorem rdMTmpl_wrMTmpl (top : Nat) (t : MTmpl) :
    rdMTmpl (wrMTmpl top t) = t := by
  simp (discharger := decide) only [HAppend.hAppend, rdMTmpl, wrMTmpl, bits_append_low, bits_append_high, bits_all,
    Nat.reduceSub, Nat.reduceAdd]

theorem wrMTmpl_top (top : Nat) (t : MTmpl) :
    bits (wrMTmpl top t) 120 8 = BitVec.ofNat 8 top := by
  simp (discharger := decide) only [HAppend.hAppend, wrMTmpl, bits_append_low, bits_append_high, bits_all,
    Nat.reduceSub, Nat.reduceAdd]

theorem wrVTmpl_derive (top : Nat) (t : VTmpl) :
    bits (wrVTmpl top t) 57 1 = bits t.aux 7 1 := by
  simp (discharger := decide) only [HAppend.hAppend, wrVTmpl, bits_append_low, bits_append_high, bits_all,
    Nat.reduceSub, Nat.reduceAdd]

theorem rdHdr_wrHdr (s : BitVec 4) (h : BundleHdr) :
    rdHdr (wrHdr s h) = h := by
  simp (discharger := decide) only [HAppend.hAppend, rdHdr, wrHdr, bits_append_low, bits_append_high, bits_all,
    Nat.reduceSub, Nat.reduceAdd]

theorem wrHdr_slot0 (s : BitVec 4) (h : BundleHdr) :
    bits (wrHdr s h) 31 1 = bits s 3 1 := by
  simp (discharger := decide) only [HAppend.hAppend, wrHdr, bits_append_low, bits_append_high, bits_all,
    Nat.reduceSub, Nat.reduceAdd]

theorem wrHdr_slot1 (s : BitVec 4) (h : BundleHdr) :
    bits (wrHdr s h) 30 1 = bits s 2 1 := by
  simp (discharger := decide) only [HAppend.hAppend, wrHdr, bits_append_low, bits_append_high, bits_all,
    Nat.reduceSub, Nat.reduceAdd]

theorem wrHdr_slot2 (s : BitVec 4) (h : BundleHdr) :
    bits (wrHdr s h) 29 1 = bits s 1 1 := by
  simp (discharger := decide) only [HAppend.hAppend, wrHdr, bits_append_low, bits_append_high, bits_all,
    Nat.reduceSub, Nat.reduceAdd]

theorem wrHdr_slot3 (s : BitVec 4) (h : BundleHdr) :
    bits (wrHdr s h) 28 1 = bits s 0 1 := by
  simp (discharger := decide) only [HAppend.hAppend, wrHdr, bits_append_low, bits_append_high, bits_all,
    Nat.reduceSub, Nat.reduceAdd]

theorem rdPatch_wrPatch (p : Patch) :
    rdPatch (wrPatch p) = p := by
  simp (discharger := decide) only [HAppend.hAppend, rdPatch, wrPatch, bits_append_low, bits_append_high, bits_all,
    Nat.reduceSub, Nat.reduceAdd]

theorem wrR3F_stray (g : BitVec 6) (op : Nat) (f : BitVec 2) : bits (wrR3F g op ⟨0, 0, 0, f⟩) 2 18 = 0 := by
  apply BitVec.eq_of_getLsbD_eq
  intro i hi
  simp only [bits, wrR3F, BitVec.getLsbD_extractLsb', BitVec.getLsbD_append]
  have h1 : ¬ 2 + i < 2 := by omega
  simp only [h1, if_false]
  split
  · simp
  · split
    · simp
    · split
      · simp
      · omega

theorem wrR3F_stray20 (g : BitVec 6) (op : Nat) : bits (wrR3F g op ⟨0, 0, 0, 0⟩) 0 20 = 0 := by
  apply BitVec.eq_of_getLsbD_eq
  intro i hi
  simp only [bits, wrR3F, BitVec.getLsbD_extractLsb', BitVec.getLsbD_append]
  split
  · simp
  · split
    · simp
    · split
      · simp
      · split
        · simp
        · omega

/-! The statement and its proofs. -/

/-- The guard that a code carries: plain words have one, a bundle keeps its own, a template has none. -/
def codeGuard (g : BitVec 6) : Code → BitVec 6
  | .plain _ _ => g
  | _ => 0

/-- A row that has an encoding decodes, from what the encoder gives, to itself with its guard and every operand; an
event has no encoding. -/
def RoundTrip.Statement (i : Instr) : Prop :=
  ∀ g : BitVec 6, toldApart i = true →
    if isEvent i = true then encode g i = .none
    else decodeCode (encode g i) = some ⟨codeGuard g (encode g i), i, false⟩

namespace RoundTrip

theorem one_word {strm : Strm} {w : Word} {i : Instr} {g : BitVec 6} (hx : hasExt strm w = false)
    (hd : decodeInstr strm w 0 = i) (hg : bits w 20 6 = g) (hs : strayBits w i = false) :
    decodeCode (.plain strm [w]) = some ⟨g, i, false⟩ := by
  subst hd hg
  simp only [decodeCode, hx, decodeWord, hs]
  rfl

theorem two_words {strm : Strm} {w x : Word} {i : Instr} {g : BitVec 6} (hx : hasExt strm w = true)
    (hd : decodeInstr strm w x = i) (hg : bits w 20 6 = g) (hs : strayBits w i = false) :
    decodeCode (.plain strm [w, x]) = some ⟨g, i, false⟩ := by
  subst hd hg
  simp only [decodeCode, hx, decodeWord, hs]
  rfl

theorem add (o : R3) : Statement (.add o) := by
  intro g _
  exact one_word (by unfold hasExt; rw [wrR3_op]; rfl)
    (by simp only [decodeInstr]; unfold decodeCtl; rw [wrR3_op, wrR3_sel]; exact congrArg Instr.add (rdR3_wrR3 ..)) (wrR3_guard ..) rfl

theorem sub (o : R3) : Statement (.sub o) := by
  intro g _
  exact one_word (by unfold hasExt; rw [wrR3_op]; rfl)
    (by simp only [decodeInstr]; unfold decodeCtl; rw [wrR3_op, wrR3_sel]; exact congrArg Instr.sub (rdR3_wrR3 ..)) (wrR3_guard ..) rfl

theorem min (o : R3) : Statement (.min o) := by
  intro g _
  exact one_word (by unfold hasExt; rw [wrR3_op]; rfl)
    (by simp only [decodeInstr]; unfold decodeCtl; rw [wrR3_op, wrR3_sel]; exact congrArg Instr.min (rdR3_wrR3 ..)) (wrR3_guard ..) rfl

theorem max (o : R3) : Statement (.max o) := by
  intro g _
  exact one_word (by unfold hasExt; rw [wrR3_op]; rfl)
    (by simp only [decodeInstr]; unfold decodeCtl; rw [wrR3_op, wrR3_sel]; exact congrArg Instr.max (rdR3_wrR3 ..)) (wrR3_guard ..) rfl

theorem minu (o : R3) : Statement (.minu o) := by
  intro g _
  exact one_word (by unfold hasExt; rw [wrR3_op]; rfl)
    (by simp only [decodeInstr]; unfold decodeCtl; rw [wrR3_op, wrR3_sel]; exact congrArg Instr.minu (rdR3_wrR3 ..)) (wrR3_guard ..) rfl

theorem maxu (o : R3) : Statement (.maxu o) := by
  intro g _
  exact one_word (by unfold hasExt; rw [wrR3_op]; rfl)
    (by simp only [decodeInstr]; unfold decodeCtl; rw [wrR3_op, wrR3_sel]; exact congrArg Instr.maxu (rdR3_wrR3 ..)) (wrR3_guard ..) rfl

theorem and (o : R3) : Statement (.and o) := by
  intro g _
  exact one_word (by unfold hasExt; rw [wrR3_op]; rfl)
    (by simp only [decodeInstr]; unfold decodeCtl; rw [wrR3_op, wrR3_sel]; exact congrArg Instr.and (rdR3_wrR3 ..)) (wrR3_guard ..) rfl

theorem or (o : R3) : Statement (.or o) := by
  intro g _
  exact one_word (by unfold hasExt; rw [wrR3_op]; rfl)
    (by simp only [decodeInstr]; unfold decodeCtl; rw [wrR3_op, wrR3_sel]; exact congrArg Instr.or (rdR3_wrR3 ..)) (wrR3_guard ..) rfl

theorem xor (o : R3) : Statement (.xor o) := by
  intro g _
  exact one_word (by unfold hasExt; rw [wrR3_op]; rfl)
    (by simp only [decodeInstr]; unfold decodeCtl; rw [wrR3_op, wrR3_sel]; exact congrArg Instr.xor (rdR3_wrR3 ..)) (wrR3_guard ..) rfl

theorem andn (o : R3) : Statement (.andn o) := by
  intro g _
  exact one_word (by unfold hasExt; rw [wrR3_op]; rfl)
    (by simp only [decodeInstr]; unfold decodeCtl; rw [wrR3_op, wrR3_sel]; exact congrArg Instr.andn (rdR3_wrR3 ..)) (wrR3_guard ..) rfl

theorem shl (o : R3) : Statement (.shl o) := by
  intro g _
  exact one_word (by unfold hasExt; rw [wrR3_op]; rfl)
    (by simp only [decodeInstr]; unfold decodeCtl; rw [wrR3_op, wrR3_sel]; exact congrArg Instr.shl (rdR3_wrR3 ..)) (wrR3_guard ..) rfl

theorem shr (o : R3) : Statement (.shr o) := by
  intro g _
  exact one_word (by unfold hasExt; rw [wrR3_op]; rfl)
    (by simp only [decodeInstr]; unfold decodeCtl; rw [wrR3_op, wrR3_sel]; exact congrArg Instr.shr (rdR3_wrR3 ..)) (wrR3_guard ..) rfl

theorem sar (o : R3) : Statement (.sar o) := by
  intro g _
  exact one_word (by unfold hasExt; rw [wrR3_op]; rfl)
    (by simp only [decodeInstr]; unfold decodeCtl; rw [wrR3_op, wrR3_sel]; exact congrArg Instr.sar (rdR3_wrR3 ..)) (wrR3_guard ..) rfl

theorem ror (o : R3) : Statement (.ror o) := by
  intro g _
  exact one_word (by unfold hasExt; rw [wrR3_op]; rfl)
    (by simp only [decodeInstr]; unfold decodeCtl; rw [wrR3_op, wrR3_sel]; exact congrArg Instr.ror (rdR3_wrR3 ..)) (wrR3_guard ..) rfl

theorem mul (o : R3) : Statement (.mul o) := by
  intro g _
  exact one_word (by unfold hasExt; rw [wrR3_op]; rfl)
    (by simp only [decodeInstr]; unfold decodeCtl; rw [wrR3_op, wrR3_sel]; exact congrArg Instr.mul (rdR3_wrR3 ..)) (wrR3_guard ..) rfl

theorem mulh (o : R3) : Statement (.mulh o) := by
  intro g _
  exact one_word (by unfold hasExt; rw [wrR3_op]; rfl)
    (by simp only [decodeInstr]; unfold decodeCtl; rw [wrR3_op, wrR3_sel]; exact congrArg Instr.mulh (rdR3_wrR3 ..)) (wrR3_guard ..) rfl

theorem mulhu (o : R3) : Statement (.mulhu o) := by
  intro g _
  exact one_word (by unfold hasExt; rw [wrR3_op]; rfl)
    (by simp only [decodeInstr]; unfold decodeCtl; rw [wrR3_op, wrR3_sel]; exact congrArg Instr.mulhu (rdR3_wrR3 ..)) (wrR3_guard ..) rfl

theorem div (o : R3) : Statement (.div o) := by
  intro g _
  exact one_word (by unfold hasExt; rw [wrR3_op]; rfl)
    (by simp only [decodeInstr]; unfold decodeCtl; rw [wrR3_op, wrR3_sel]; exact congrArg Instr.div (rdR3_wrR3 ..)) (wrR3_guard ..) rfl

theorem divu (o : R3) : Statement (.divu o) := by
  intro g _
  exact one_word (by unfold hasExt; rw [wrR3_op]; rfl)
    (by simp only [decodeInstr]; unfold decodeCtl; rw [wrR3_op, wrR3_sel]; exact congrArg Instr.divu (rdR3_wrR3 ..)) (wrR3_guard ..) rfl

theorem rem (o : R3) : Statement (.rem o) := by
  intro g _
  exact one_word (by unfold hasExt; rw [wrR3_op]; rfl)
    (by simp only [decodeInstr]; unfold decodeCtl; rw [wrR3_op, wrR3_sel]; exact congrArg Instr.rem (rdR3_wrR3 ..)) (wrR3_guard ..) rfl

theorem remu (o : R3) : Statement (.remu o) := by
  intro g _
  exact one_word (by unfold hasExt; rw [wrR3_op]; rfl)
    (by simp only [decodeInstr]; unfold decodeCtl; rw [wrR3_op, wrR3_sel]; exact congrArg Instr.remu (rdR3_wrR3 ..)) (wrR3_guard ..) rfl

theorem addi (o : RI) : Statement (.addi o) := by
  intro g _
  exact one_word (by unfold hasExt; rw [wrRI_op]; rfl)
    (by simp only [decodeInstr]; unfold decodeCtl; rw [wrRI_op]; exact congrArg Instr.addi (rdRI_wrRI ..)) (wrRI_guard ..) rfl

theorem andi (o : RI) : Statement (.andi o) := by
  intro g _
  exact one_word (by unfold hasExt; rw [wrRI_op]; rfl)
    (by simp only [decodeInstr]; unfold decodeCtl; rw [wrRI_op]; exact congrArg Instr.andi (rdRI_wrRI ..)) (wrRI_guard ..) rfl

theorem ori (o : RI) : Statement (.ori o) := by
  intro g _
  exact one_word (by unfold hasExt; rw [wrRI_op]; rfl)
    (by simp only [decodeInstr]; unfold decodeCtl; rw [wrRI_op]; exact congrArg Instr.ori (rdRI_wrRI ..)) (wrRI_guard ..) rfl

theorem xori (o : RI) : Statement (.xori o) := by
  intro g _
  exact one_word (by unfold hasExt; rw [wrRI_op]; rfl)
    (by simp only [decodeInstr]; unfold decodeCtl; rw [wrRI_op]; exact congrArg Instr.xori (rdRI_wrRI ..)) (wrRI_guard ..) rfl

theorem shli (o : RI) : Statement (.shli o) := by
  intro g _
  exact one_word (by unfold hasExt; rw [wrRI_op]; rfl)
    (by simp only [decodeInstr]; unfold decodeCtl; rw [wrRI_op]; exact congrArg Instr.shli (rdRI_wrRI ..)) (wrRI_guard ..) rfl

theorem shri (o : RI) : Statement (.shri o) := by
  intro g _
  exact one_word (by unfold hasExt; rw [wrRI_op]; rfl)
    (by simp only [decodeInstr]; unfold decodeCtl; rw [wrRI_op]; exact congrArg Instr.shri (rdRI_wrRI ..)) (wrRI_guard ..) rfl

theorem sari (o : RI) : Statement (.sari o) := by
  intro g _
  exact one_word (by unfold hasExt; rw [wrRI_op]; rfl)
    (by simp only [decodeInstr]; unfold decodeCtl; rw [wrRI_op]; exact congrArg Instr.sari (rdRI_wrRI ..)) (wrRI_guard ..) rfl

theorem li (o : RL) : Statement (.li o) := by
  intro g _
  exact two_words (by unfold hasExt; rw [wrRL_op]; rfl)
    (by simp only [decodeInstr]; unfold decodeCtl; rw [wrRL_op]; exact congrArg Instr.li (rdRL_wrRL ..)) (wrRL_guard ..) rfl

theorem lih (o : RL) : Statement (.lih o) := by
  intro g _
  exact two_words (by unfold hasExt; rw [wrRL_op]; rfl)
    (by simp only [decodeInstr]; unfold decodeCtl; rw [wrRL_op]; exact congrArg Instr.lih (rdRL_wrRL ..)) (wrRL_guard ..) rfl

theorem clz (o : R3) : Statement (.clz o) := by
  intro g _
  exact one_word (by unfold hasExt; rw [wrR3_op]; rfl)
    (by simp only [decodeInstr]; unfold decodeCtl; rw [wrR3_op, wrR3_sel]; exact congrArg Instr.clz (rdR3_wrR3 ..)) (wrR3_guard ..) rfl

theorem ctz (o : R3) : Statement (.ctz o) := by
  intro g _
  exact one_word (by unfold hasExt; rw [wrR3_op]; rfl)
    (by simp only [decodeInstr]; unfold decodeCtl; rw [wrR3_op, wrR3_sel]; exact congrArg Instr.ctz (rdR3_wrR3 ..)) (wrR3_guard ..) rfl

theorem popc (o : R3) : Statement (.popc o) := by
  intro g _
  exact one_word (by unfold hasExt; rw [wrR3_op]; rfl)
    (by simp only [decodeInstr]; unfold decodeCtl; rw [wrR3_op, wrR3_sel]; exact congrArg Instr.popc (rdR3_wrR3 ..)) (wrR3_guard ..) rfl

theorem bfx (o : RL) : Statement (.bfx o) := by
  intro g _
  exact two_words (by unfold hasExt; rw [wrRL_op]; rfl)
    (by simp only [decodeInstr]; unfold decodeCtl; rw [wrRL_op]; exact congrArg Instr.bfx (rdRL_wrRL ..)) (wrRL_guard ..) rfl

theorem bfxu (o : RL) : Statement (.bfxu o) := by
  intro g _
  exact two_words (by unfold hasExt; rw [wrRL_op]; rfl)
    (by simp only [decodeInstr]; unfold decodeCtl; rw [wrRL_op]; exact congrArg Instr.bfxu (rdRL_wrRL ..)) (wrRL_guard ..) rfl

theorem bfi (o : RL) : Statement (.bfi o) := by
  intro g _
  exact two_words (by unfold hasExt; rw [wrRL_op]; rfl)
    (by simp only [decodeInstr]; unfold decodeCtl; rw [wrRL_op]; exact congrArg Instr.bfi (rdRL_wrRL ..)) (wrRL_guard ..) rfl

theorem lea (o : R3F) : Statement (.lea o) := by
  intro g _
  exact one_word (by unfold hasExt; rw [wrR3F_op]; rfl)
    (by simp only [decodeInstr]; unfold decodeCtl; rw [wrR3F_op]; exact congrArg Instr.lea (rdR3F_wrR3F ..)) (wrR3F_guard ..) rfl

theorem sel (o : RL) : Statement (.sel o) := by
  intro g _
  exact two_words (by unfold hasExt; rw [wrRL_op]; rfl)
    (by simp only [decodeInstr]; unfold decodeCtl; rw [wrRL_op]; exact congrArg Instr.sel (rdRL_wrRL ..)) (wrRL_guard ..) rfl

theorem cmpEq (o : R3) : Statement (.cmpEq o) := by
  intro g _
  exact one_word (by unfold hasExt; rw [wrR3_op]; rfl)
    (by simp only [decodeInstr]; unfold decodeCtl; rw [wrR3_op, wrR3_sel]; exact congrArg Instr.cmpEq (rdR3_wrR3 ..)) (wrR3_guard ..) rfl

theorem cmpNe (o : R3) : Statement (.cmpNe o) := by
  intro g _
  exact one_word (by unfold hasExt; rw [wrR3_op]; rfl)
    (by simp only [decodeInstr]; unfold decodeCtl; rw [wrR3_op, wrR3_sel]; exact congrArg Instr.cmpNe (rdR3_wrR3 ..)) (wrR3_guard ..) rfl

theorem cmpLt (o : R3) : Statement (.cmpLt o) := by
  intro g _
  exact one_word (by unfold hasExt; rw [wrR3_op]; rfl)
    (by simp only [decodeInstr]; unfold decodeCtl; rw [wrR3_op, wrR3_sel]; exact congrArg Instr.cmpLt (rdR3_wrR3 ..)) (wrR3_guard ..) rfl

theorem cmpLe (o : R3) : Statement (.cmpLe o) := by
  intro g _
  exact one_word (by unfold hasExt; rw [wrR3_op]; rfl)
    (by simp only [decodeInstr]; unfold decodeCtl; rw [wrR3_op, wrR3_sel]; exact congrArg Instr.cmpLe (rdR3_wrR3 ..)) (wrR3_guard ..) rfl

theorem cmpLtu (o : R3) : Statement (.cmpLtu o) := by
  intro g _
  exact one_word (by unfold hasExt; rw [wrR3_op]; rfl)
    (by simp only [decodeInstr]; unfold decodeCtl; rw [wrR3_op, wrR3_sel]; exact congrArg Instr.cmpLtu (rdR3_wrR3 ..)) (wrR3_guard ..) rfl

theorem cmpLeu (o : R3) : Statement (.cmpLeu o) := by
  intro g _
  exact one_word (by unfold hasExt; rw [wrR3_op]; rfl)
    (by simp only [decodeInstr]; unfold decodeCtl; rw [wrR3_op, wrR3_sel]; exact congrArg Instr.cmpLeu (rdR3_wrR3 ..)) (wrR3_guard ..) rfl

theorem cmpiEq (o : RL5) : Statement (.cmpiEq o) := by
  intro g _
  exact two_words (by unfold hasExt; rw [wrRL5_op]; rfl)
    (by simp only [decodeInstr]; unfold decodeCtl; rw [wrRL5_op, wrRL5_sel]; exact congrArg Instr.cmpiEq (rdRL5_wrRL5 ..)) (wrRL5_guard ..) rfl

theorem cmpiNe (o : RL5) : Statement (.cmpiNe o) := by
  intro g _
  exact two_words (by unfold hasExt; rw [wrRL5_op]; rfl)
    (by simp only [decodeInstr]; unfold decodeCtl; rw [wrRL5_op, wrRL5_sel]; exact congrArg Instr.cmpiNe (rdRL5_wrRL5 ..)) (wrRL5_guard ..) rfl

theorem cmpiLt (o : RL5) : Statement (.cmpiLt o) := by
  intro g _
  exact two_words (by unfold hasExt; rw [wrRL5_op]; rfl)
    (by simp only [decodeInstr]; unfold decodeCtl; rw [wrRL5_op, wrRL5_sel]; exact congrArg Instr.cmpiLt (rdRL5_wrRL5 ..)) (wrRL5_guard ..) rfl

theorem cmpiLe (o : RL5) : Statement (.cmpiLe o) := by
  intro g _
  exact two_words (by unfold hasExt; rw [wrRL5_op]; rfl)
    (by simp only [decodeInstr]; unfold decodeCtl; rw [wrRL5_op, wrRL5_sel]; exact congrArg Instr.cmpiLe (rdRL5_wrRL5 ..)) (wrRL5_guard ..) rfl

theorem cmpiLtu (o : RL5) : Statement (.cmpiLtu o) := by
  intro g _
  exact two_words (by unfold hasExt; rw [wrRL5_op]; rfl)
    (by simp only [decodeInstr]; unfold decodeCtl; rw [wrRL5_op, wrRL5_sel]; exact congrArg Instr.cmpiLtu (rdRL5_wrRL5 ..)) (wrRL5_guard ..) rfl

theorem cmpiLeu (o : RL5) : Statement (.cmpiLeu o) := by
  intro g _
  exact two_words (by unfold hasExt; rw [wrRL5_op]; rfl)
    (by simp only [decodeInstr]; unfold decodeCtl; rw [wrRL5_op, wrRL5_sel]; exact congrArg Instr.cmpiLeu (rdRL5_wrRL5 ..)) (wrRL5_guard ..) rfl

theorem pset (o : RI) : Statement (.pset o) := by
  intro g _
  exact one_word (by unfold hasExt; rw [wrRI_op]; rfl)
    (by simp only [decodeInstr]; unfold decodeCtl; rw [wrRI_op]; exact congrArg Instr.pset (rdRI_wrRI ..)) (wrRI_guard ..) rfl

theorem pmovAnd (o : R3) : Statement (.pmovAnd o) := by
  intro g _
  exact one_word (by unfold hasExt; rw [wrR3_op]; rfl)
    (by simp only [decodeInstr]; unfold decodeCtl; rw [wrR3_op, wrR3_sel]; exact congrArg Instr.pmovAnd (rdR3_wrR3 ..)) (wrR3_guard ..) rfl

theorem pmovOr (o : R3) : Statement (.pmovOr o) := by
  intro g _
  exact one_word (by unfold hasExt; rw [wrR3_op]; rfl)
    (by simp only [decodeInstr]; unfold decodeCtl; rw [wrR3_op, wrR3_sel]; exact congrArg Instr.pmovOr (rdR3_wrR3 ..)) (wrR3_guard ..) rfl

theorem pmovXor (o : R3) : Statement (.pmovXor o) := by
  intro g _
  exact one_word (by unfold hasExt; rw [wrR3_op]; rfl)
    (by simp only [decodeInstr]; unfold decodeCtl; rw [wrR3_op, wrR3_sel]; exact congrArg Instr.pmovXor (rdR3_wrR3 ..)) (wrR3_guard ..) rfl

theorem pmovAndn (o : R3) : Statement (.pmovAndn o) := by
  intro g _
  exact one_word (by unfold hasExt; rw [wrR3_op]; rfl)
    (by simp only [decodeInstr]; unfold decodeCtl; rw [wrR3_op, wrR3_sel]; exact congrArg Instr.pmovAndn (rdR3_wrR3 ..)) (wrR3_guard ..) rfl

theorem br (o : BOff) : Statement (.br o) := by
  intro g _
  exact one_word (by unfold hasExt; rw [wrB_op]; rfl)
    (by simp only [decodeInstr]; unfold decodeCtl; rw [wrB_op]; exact congrArg Instr.br (rdB_wrB ..)) (wrB_guard ..) rfl

theorem call (o : BOff) : Statement (.call o) := by
  intro g _
  exact one_word (by unfold hasExt; rw [wrB_op]; rfl)
    (by simp only [decodeInstr]; unfold decodeCtl; rw [wrB_op]; exact congrArg Instr.call (rdB_wrB ..)) (wrB_guard ..) rfl

theorem jr (o : R3F) : Statement (.jr o) := by
  intro g _
  exact one_word (by unfold hasExt; rw [wrR3F_op]; rfl)
    (by simp only [decodeInstr]; unfold decodeCtl; rw [wrR3F_op]; exact congrArg Instr.jr (rdR3F_wrR3F ..)) (wrR3F_guard ..) rfl

theorem loop (o : RL) : Statement (.loop o) := by
  intro g _
  exact two_words (by unfold hasExt; rw [wrRL_op]; rfl)
    (by simp only [decodeInstr]; unfold decodeCtl; rw [wrRL_op]; exact congrArg Instr.loop (rdRL_wrRL ..)) (wrRL_guard ..) rfl

theorem lds (o : RL) : Statement (.lds o) := by
  intro g _
  exact two_words (by unfold hasExt; rw [wrRL_op]; rfl)
    (by simp only [decodeInstr]; unfold decodeCtl; rw [wrRL_op]; exact congrArg Instr.lds (rdRL_wrRL ..)) (wrRL_guard ..) rfl

theorem sts (o : RL) : Statement (.sts o) := by
  intro g _
  exact two_words (by unfold hasExt; rw [wrRL_op]; rfl)
    (by simp only [decodeInstr]; unfold decodeCtl; rw [wrRL_op]; exact congrArg Instr.sts (rdRL_wrRL ..)) (wrRL_guard ..) rfl

theorem atomAdd (o : RL4) : Statement (.atomAdd o) := by
  intro g _
  exact two_words (by unfold hasExt; rw [wrRL4_op]; rfl)
    (by simp only [decodeInstr]; unfold decodeCtl; rw [wrRL4_op, wrRL4_sel]; exact congrArg Instr.atomAdd (rdRL4_wrRL4 ..)) (wrRL4_guard ..) rfl

theorem atomAnd (o : RL4) : Statement (.atomAnd o) := by
  intro g _
  exact two_words (by unfold hasExt; rw [wrRL4_op]; rfl)
    (by simp only [decodeInstr]; unfold decodeCtl; rw [wrRL4_op, wrRL4_sel]; exact congrArg Instr.atomAnd (rdRL4_wrRL4 ..)) (wrRL4_guard ..) rfl

theorem atomOr (o : RL4) : Statement (.atomOr o) := by
  intro g _
  exact two_words (by unfold hasExt; rw [wrRL4_op]; rfl)
    (by simp only [decodeInstr]; unfold decodeCtl; rw [wrRL4_op, wrRL4_sel]; exact congrArg Instr.atomOr (rdRL4_wrRL4 ..)) (wrRL4_guard ..) rfl

theorem atomXor (o : RL4) : Statement (.atomXor o) := by
  intro g _
  exact two_words (by unfold hasExt; rw [wrRL4_op]; rfl)
    (by simp only [decodeInstr]; unfold decodeCtl; rw [wrRL4_op, wrRL4_sel]; exact congrArg Instr.atomXor (rdRL4_wrRL4 ..)) (wrRL4_guard ..) rfl

theorem atomMin (o : RL4) : Statement (.atomMin o) := by
  intro g _
  exact two_words (by unfold hasExt; rw [wrRL4_op]; rfl)
    (by simp only [decodeInstr]; unfold decodeCtl; rw [wrRL4_op, wrRL4_sel]; exact congrArg Instr.atomMin (rdRL4_wrRL4 ..)) (wrRL4_guard ..) rfl

theorem atomMax (o : RL4) : Statement (.atomMax o) := by
  intro g _
  exact two_words (by unfold hasExt; rw [wrRL4_op]; rfl)
    (by simp only [decodeInstr]; unfold decodeCtl; rw [wrRL4_op, wrRL4_sel]; exact congrArg Instr.atomMax (rdRL4_wrRL4 ..)) (wrRL4_guard ..) rfl

theorem atomMinu (o : RL4) : Statement (.atomMinu o) := by
  intro g _
  exact two_words (by unfold hasExt; rw [wrRL4_op]; rfl)
    (by simp only [decodeInstr]; unfold decodeCtl; rw [wrRL4_op, wrRL4_sel]; exact congrArg Instr.atomMinu (rdRL4_wrRL4 ..)) (wrRL4_guard ..) rfl

theorem atomMaxu (o : RL4) : Statement (.atomMaxu o) := by
  intro g _
  exact two_words (by unfold hasExt; rw [wrRL4_op]; rfl)
    (by simp only [decodeInstr]; unfold decodeCtl; rw [wrRL4_op, wrRL4_sel]; exact congrArg Instr.atomMaxu (rdRL4_wrRL4 ..)) (wrRL4_guard ..) rfl

theorem atomSwp (o : RL4) : Statement (.atomSwp o) := by
  intro g _
  exact two_words (by unfold hasExt; rw [wrRL4_op]; rfl)
    (by simp only [decodeInstr]; unfold decodeCtl; rw [wrRL4_op, wrRL4_sel]; exact congrArg Instr.atomSwp (rdRL4_wrRL4 ..)) (wrRL4_guard ..) rfl

theorem cas (o : RL) : Statement (.cas o) := by
  intro g _
  exact two_words (by unfold hasExt; rw [wrRL_op]; rfl)
    (by simp only [decodeInstr]; unfold decodeCtl; rw [wrRL_op]; exact congrArg Instr.cas (rdRL_wrRL ..)) (wrRL_guard ..) rfl

theorem tkwait (o : RI) : Statement (.tkwait o) := by
  intro g _
  exact one_word (by unfold hasExt; rw [wrRI_op]; rfl)
    (by simp only [decodeInstr]; unfold decodeCtl; rw [wrRI_op]; exact congrArg Instr.tkwait (rdRI_wrRI ..)) (wrRI_guard ..) rfl

theorem tkpost (o : RI) : Statement (.tkpost o) := by
  intro g _
  exact one_word (by unfold hasExt; rw [wrRI_op]; rfl)
    (by simp only [decodeInstr]; unfold decodeCtl; rw [wrRI_op]; exact congrArg Instr.tkpost (rdRI_wrRI ..)) (wrRI_guard ..) rfl

theorem semwait (o : RL) : Statement (.semwait o) := by
  intro g _
  exact two_words (by unfold hasExt; rw [wrRL_op]; rfl)
    (by simp only [decodeInstr]; unfold decodeCtl; rw [wrRL_op]; exact congrArg Instr.semwait (rdRL_wrRL ..)) (wrRL_guard ..) rfl

theorem semadd (o : RL) : Statement (.semadd o) := by
  intro g _
  exact two_words (by unfold hasExt; rw [wrRL_op]; rfl)
    (by simp only [decodeInstr]; unfold decodeCtl; rw [wrRL_op]; exact congrArg Instr.semadd (rdRL_wrRL ..)) (wrRL_guard ..) rfl

theorem semset (o : RL) : Statement (.semset o) := by
  intro g _
  exact two_words (by unfold hasExt; rw [wrRL_op]; rfl)
    (by simp only [decodeInstr]; unfold decodeCtl; rw [wrRL_op]; exact congrArg Instr.semset (rdRL_wrRL ..)) (wrRL_guard ..) rfl

theorem arvw (o : R3F) : Statement (.arvw o) := by
  intro g _
  exact one_word (by unfold hasExt; rw [wrR3F_op]; rfl)
    (by simp only [decodeInstr]; unfold decodeCtl; rw [wrR3F_op]; exact congrArg Instr.arvw (rdR3F_wrR3F ..)) (wrR3F_guard ..) rfl

theorem arvclr (o : R3F) : Statement (.arvclr o) := by
  intro g _
  exact one_word (by unfold hasExt; rw [wrR3F_op]; rfl)
    (by simp only [decodeInstr]; unfold decodeCtl; rw [wrR3F_op]; exact congrArg Instr.arvclr (rdR3F_wrR3F ..)) (wrR3F_guard ..) rfl

theorem fence (o : R3F) : Statement (.fence o) := by
  intro g _
  exact one_word (by unfold hasExt; rw [wrR3F_op]; rfl)
    (by simp only [decodeInstr]; unfold decodeCtl; rw [wrR3F_op]; exact congrArg Instr.fence (rdR3F_wrR3F ..)) (wrR3F_guard ..) rfl

theorem acq (o : R3F) : Statement (.acq o) := by
  intro g _
  exact one_word (by unfold hasExt; rw [wrR3F_op]; rfl)
    (by simp only [decodeInstr]; unfold decodeCtl; rw [wrR3F_op]; exact congrArg Instr.acq (rdR3F_wrR3F ..)) (wrR3F_guard ..) rfl

theorem barv (o : R3F) : Statement (.barv o) := by
  intro g _
  exact one_word (by unfold hasExt; rw [wrR3F_op]; rfl)
    (by simp only [decodeInstr]; unfold decodeCtl; rw [wrR3F_op]; exact congrArg Instr.barv (rdR3F_wrR3F ..)) (wrR3F_guard ..) rfl

theorem barw (o : R3F) : Statement (.barw o) := by
  intro g _
  exact one_word (by unfold hasExt; rw [wrR3F_op]; rfl)
    (by simp only [decodeInstr]; unfold decodeCtl; rw [wrR3F_op]; exact congrArg Instr.barw (rdR3F_wrR3F ..)) (wrR3F_guard ..) rfl

theorem mqadv (o : R3F) : Statement (.mqadv o) := by
  intro g _
  exact one_word (by unfold hasExt; rw [wrR3F_op]; rfl)
    (by simp only [decodeInstr]; unfold decodeCtl; rw [wrR3F_op]; exact congrArg Instr.mqadv (rdR3F_wrR3F ..)) (wrR3F_guard ..) rfl

theorem wset (o : R3F) : Statement (.wset o) := by
  intro g _
  exact one_word (by unfold hasExt; rw [wrR3F_op]; rfl)
    (by simp only [decodeInstr]; unfold decodeCtl; rw [wrR3F_op]; exact congrArg Instr.wset (rdR3F_wrR3F ..)) (wrR3F_guard ..) rfl

theorem wrel (o : R3F) : Statement (.wrel o) := by
  intro g _
  exact one_word (by unfold hasExt; rw [wrR3F_op]; rfl)
    (by simp only [decodeInstr]; unfold decodeCtl; rw [wrR3F_op]; exact congrArg Instr.wrel (rdR3F_wrR3F ..)) (wrR3F_guard ..) rfl

theorem hset (o : R3F) : Statement (.hset o) := by
  intro g _
  exact one_word (by unfold hasExt; rw [wrR3F_op]; rfl)
    (by simp only [decodeInstr]; unfold decodeCtl; rw [wrR3F_op]; exact congrArg Instr.hset (rdR3F_wrR3F ..)) (wrR3F_guard ..) rfl

theorem tmpld (o : RL) : Statement (.tmpld o) := by
  intro g _
  exact two_words (by unfold hasExt; rw [wrRL_op]; rfl)
    (by simp only [decodeInstr]; unfold decodeCtl; rw [wrRL_op]; exact congrArg Instr.tmpld (rdRL_wrRL ..)) (wrRL_guard ..) rfl

theorem trap (o : RI) : Statement (.trap o) := by
  intro g _
  exact one_word (by unfold hasExt; rw [wrRI_op]; rfl)
    (by simp only [decodeInstr]; unfold decodeCtl; rw [wrRI_op]; exact congrArg Instr.trap (rdRI_wrRI ..)) (wrRI_guard ..) rfl

theorem sysr (o : RL) : Statement (.sysr o) := by
  intro g _
  exact two_words (by unfold hasExt; rw [wrRL_op]; rfl)
    (by simp only [decodeInstr]; unfold decodeCtl; rw [wrRL_op]; exact congrArg Instr.sysr (rdRL_wrRL ..)) (wrRL_guard ..) rfl

theorem sysw (o : RL) : Statement (.sysw o) := by
  intro g _
  exact two_words (by unfold hasExt; rw [wrRL_op]; rfl)
    (by simp only [decodeInstr]; unfold decodeCtl; rw [wrRL_op]; exact congrArg Instr.sysw (rdRL_wrRL ..)) (wrRL_guard ..) rfl

theorem nestq (o : Cmd) : Statement (.nestq o) := by
  intro g _
  exact two_words (by unfold hasExt; rw [wrCmd_op]; rfl)
    (by simp only [decodeInstr]; unfold decodeCtl; rw [wrCmd_op]; show decodeCommand _ _ = _
        unfold decodeCommand; rw [wrSub_sub]; exact congrArg Instr.nestq (rdCmd_wrCmd ..))
    (wrCmd_guard ..) rfl

theorem nestf (o : Cmd) : Statement (.nestf o) := by
  intro g _
  exact two_words (by unfold hasExt; rw [wrCmd_op]; rfl)
    (by simp only [decodeInstr]; unfold decodeCtl; rw [wrCmd_op]; show decodeCommand _ _ = _
        unfold decodeCommand; rw [wrSub_sub]; exact congrArg Instr.nestf (rdCmd_wrCmd ..))
    (wrCmd_guard ..) rfl

theorem nestr (o : Cmd) : Statement (.nestr o) := by
  intro g _
  exact two_words (by unfold hasExt; rw [wrCmd_op]; rfl)
    (by simp only [decodeInstr]; unfold decodeCtl; rw [wrCmd_op]; show decodeCommand _ _ = _
        unfold decodeCommand; rw [wrSub_sub]; exact congrArg Instr.nestr (rdCmd_wrCmd ..))
    (wrCmd_guard ..) rfl

theorem nests (o : Cmd) : Statement (.nests o) := by
  intro g _
  exact two_words (by unfold hasExt; rw [wrCmd_op]; rfl)
    (by simp only [decodeInstr]; unfold decodeCtl; rw [wrCmd_op]; show decodeCommand _ _ = _
        unfold decodeCommand; rw [wrSub_sub]; exact congrArg Instr.nests (rdCmd_wrCmd ..))
    (wrCmd_guard ..) rfl

theorem sbindLd (o : R3F) : Statement (.sbindLd o) := by
  intro g _
  exact one_word (by unfold hasExt; rw [wrR3F_op]; rfl)
    (by simp only [decodeInstr]; unfold decodeLd; rw [wrR3F_op]; exact congrArg Instr.sbindLd (rdR3F_wrR3F ..)) (wrR3F_guard ..) rfl

theorem sunbLd (o : R3F) : Statement (.sunbLd o) := by
  intro g _
  exact one_word (by unfold hasExt; rw [wrR3F_op]; rfl)
    (by simp only [decodeInstr]; unfold decodeLd; rw [wrR3F_op]; exact congrArg Instr.sunbLd (rdR3F_wrR3F ..)) (wrR3F_guard ..) rfl

theorem ldq (o : R3F) : Statement (.ldq o) := by
  intro g _
  exact one_word (by unfold hasExt; rw [wrR3F_op]; rfl)
    (by simp only [decodeInstr]; unfold decodeLd; rw [wrR3F_op]; exact congrArg Instr.ldq (rdR3F_wrR3F ..)) (wrR3F_guard ..) rfl

theorem gath (o : R3F) : Statement (.gath o) := by
  intro g _
  exact one_word (by unfold hasExt; rw [wrR3F_op]; rfl)
    (by simp only [decodeInstr]; unfold decodeLd; rw [wrR3F_op]; exact congrArg Instr.gath (rdR3F_wrR3F ..)) (wrR3F_guard ..) rfl

theorem ldt (o : RL) : Statement (.ldt o) := by
  intro g _
  exact two_words (by unfold hasExt; rw [wrRL_op]; rfl)
    (by simp only [decodeInstr]; unfold decodeLd; rw [wrRL_op]; exact congrArg Instr.ldt (rdRL_wrRL ..)) (wrRL_guard ..) rfl

theorem mfill (o : RL) : Statement (.mfill o) := by
  intro g _
  exact two_words (by unfold hasExt; rw [wrRL_op]; rfl)
    (by simp only [decodeInstr]; unfold decodeLd; rw [wrRL_op]; exact congrArg Instr.mfill (rdRL_wrRL ..)) (wrRL_guard ..) rfl

theorem pref (o : RL) : Statement (.pref o) := by
  intro g _
  exact two_words (by unfold hasExt; rw [wrRL_op]; rfl)
    (by simp only [decodeInstr]; unfold decodeLd; rw [wrRL_op]; exact congrArg Instr.pref (rdRL_wrRL ..)) (wrRL_guard ..) rfl

theorem nli (o : RL) : Statement (.nli o) := by
  intro g _
  exact two_words (by unfold hasExt; rw [wrRL_op]; rfl)
    (by simp only [decodeInstr]; unfold decodeLd; rw [wrRL_op]; exact congrArg Instr.nli (rdRL_wrRL ..)) (wrRL_guard ..) rfl

theorem nadd (o : R3F) : Statement (.nadd o) := by
  intro g _
  exact one_word (by unfold hasExt; rw [wrR3F_op]; rfl)
    (by simp only [decodeInstr]; unfold decodeLd; rw [wrR3F_op]; exact congrArg Instr.nadd (rdR3F_wrR3F ..)) (wrR3F_guard ..) rfl

theorem naddi (o : RI) : Statement (.naddi o) := by
  intro g _
  exact one_word (by unfold hasExt; rw [wrRI_op]; rfl)
    (by simp only [decodeInstr]; unfold decodeLd; rw [wrRI_op]; exact congrArg Instr.naddi (rdRI_wrRI ..)) (wrRI_guard ..) rfl

theorem ncmpEq (o : R3) : Statement (.ncmpEq o) := by
  intro g _
  exact one_word (by unfold hasExt; rw [wrR3_op]; rfl)
    (by simp only [decodeInstr]; unfold decodeLd; rw [wrR3_op, wrR3_sel]; exact congrArg Instr.ncmpEq (rdR3_wrR3 ..)) (wrR3_guard ..) rfl

theorem ncmpNe (o : R3) : Statement (.ncmpNe o) := by
  intro g _
  exact one_word (by unfold hasExt; rw [wrR3_op]; rfl)
    (by simp only [decodeInstr]; unfold decodeLd; rw [wrR3_op, wrR3_sel]; exact congrArg Instr.ncmpNe (rdR3_wrR3 ..)) (wrR3_guard ..) rfl

theorem ncmpLt (o : R3) : Statement (.ncmpLt o) := by
  intro g _
  exact one_word (by unfold hasExt; rw [wrR3_op]; rfl)
    (by simp only [decodeInstr]; unfold decodeLd; rw [wrR3_op, wrR3_sel]; exact congrArg Instr.ncmpLt (rdR3_wrR3 ..)) (wrR3_guard ..) rfl

theorem ncmpLe (o : R3) : Statement (.ncmpLe o) := by
  intro g _
  exact one_word (by unfold hasExt; rw [wrR3_op]; rfl)
    (by simp only [decodeInstr]; unfold decodeLd; rw [wrR3_op, wrR3_sel]; exact congrArg Instr.ncmpLe (rdR3_wrR3 ..)) (wrR3_guard ..) rfl

theorem ncmpLtu (o : R3) : Statement (.ncmpLtu o) := by
  intro g _
  exact one_word (by unfold hasExt; rw [wrR3_op]; rfl)
    (by simp only [decodeInstr]; unfold decodeLd; rw [wrR3_op, wrR3_sel]; exact congrArg Instr.ncmpLtu (rdR3_wrR3 ..)) (wrR3_guard ..) rfl

theorem ncmpLeu (o : R3) : Statement (.ncmpLeu o) := by
  intro g _
  exact one_word (by unfold hasExt; rw [wrR3_op]; rfl)
    (by simp only [decodeInstr]; unfold decodeLd; rw [wrR3_op, wrR3_sel]; exact congrArg Instr.ncmpLeu (rdR3_wrR3 ..)) (wrR3_guard ..) rfl

theorem nbr (o : BOff) : Statement (.nbr o) := by
  intro g _
  exact one_word (by unfold hasExt; rw [wrB_op]; rfl)
    (by simp only [decodeInstr]; unfold decodeLd; rw [wrB_op]; exact congrArg Instr.nbr (rdB_wrB ..)) (wrB_guard ..) rfl

theorem nloop (o : RL) : Statement (.nloop o) := by
  intro g _
  exact two_words (by unfold hasExt; rw [wrRL_op]; rfl)
    (by simp only [decodeInstr]; unfold decodeLd; rw [wrRL_op]; exact congrArg Instr.nloop (rdRL_wrRL ..)) (wrRL_guard ..) rfl

theorem sbindSt (o : R3F) : Statement (.sbindSt o) := by
  intro g _
  exact one_word (by unfold hasExt; rw [wrR3F_op]; rfl)
    (by simp only [decodeInstr]; unfold decodeSt; rw [wrR3F_op]; exact congrArg Instr.sbindSt (rdR3F_wrR3F ..)) (wrR3F_guard ..) rfl

theorem sunbSt (o : R3F) : Statement (.sunbSt o) := by
  intro g _
  exact one_word (by unfold hasExt; rw [wrR3F_op]; rfl)
    (by simp only [decodeInstr]; unfold decodeSt; rw [wrR3F_op]; exact congrArg Instr.sunbSt (rdR3F_wrR3F ..)) (wrR3F_guard ..) rfl

theorem stq (o : R3F) : Statement (.stq o) := by
  intro g _
  exact one_word (by unfold hasExt; rw [wrR3F_op]; rfl)
    (by simp only [decodeInstr]; unfold decodeSt; rw [wrR3F_op]; exact congrArg Instr.stq (rdR3F_wrR3F ..)) (wrR3F_guard ..) rfl

theorem scat (o : R3F) : Statement (.scat o) := by
  intro g _
  exact one_word (by unfold hasExt; rw [wrR3F_op]; rfl)
    (by simp only [decodeInstr]; unfold decodeSt; rw [wrR3F_op]; exact congrArg Instr.scat (rdR3F_wrR3F ..)) (wrR3F_guard ..) rfl

theorem stt (o : RL) : Statement (.stt o) := by
  intro g _
  exact two_words (by unfold hasExt; rw [wrRL_op]; rfl)
    (by simp only [decodeInstr]; unfold decodeSt; rw [wrRL_op]; exact congrArg Instr.stt (rdRL_wrRL ..)) (wrRL_guard ..) rfl

theorem atomvAdd (o : RL4) : Statement (.atomvAdd o) := by
  intro g _
  exact two_words (by unfold hasExt; rw [wrRL4_op]; rfl)
    (by simp only [decodeInstr]; unfold decodeSt; rw [wrRL4_op, wrRL4_sel]; exact congrArg Instr.atomvAdd (rdRL4_wrRL4 ..)) (wrRL4_guard ..) rfl

theorem atomvAnd (o : RL4) : Statement (.atomvAnd o) := by
  intro g _
  exact two_words (by unfold hasExt; rw [wrRL4_op]; rfl)
    (by simp only [decodeInstr]; unfold decodeSt; rw [wrRL4_op, wrRL4_sel]; exact congrArg Instr.atomvAnd (rdRL4_wrRL4 ..)) (wrRL4_guard ..) rfl

theorem atomvOr (o : RL4) : Statement (.atomvOr o) := by
  intro g _
  exact two_words (by unfold hasExt; rw [wrRL4_op]; rfl)
    (by simp only [decodeInstr]; unfold decodeSt; rw [wrRL4_op, wrRL4_sel]; exact congrArg Instr.atomvOr (rdRL4_wrRL4 ..)) (wrRL4_guard ..) rfl

theorem atomvXor (o : RL4) : Statement (.atomvXor o) := by
  intro g _
  exact two_words (by unfold hasExt; rw [wrRL4_op]; rfl)
    (by simp only [decodeInstr]; unfold decodeSt; rw [wrRL4_op, wrRL4_sel]; exact congrArg Instr.atomvXor (rdRL4_wrRL4 ..)) (wrRL4_guard ..) rfl

theorem atomvMin (o : RL4) : Statement (.atomvMin o) := by
  intro g _
  exact two_words (by unfold hasExt; rw [wrRL4_op]; rfl)
    (by simp only [decodeInstr]; unfold decodeSt; rw [wrRL4_op, wrRL4_sel]; exact congrArg Instr.atomvMin (rdRL4_wrRL4 ..)) (wrRL4_guard ..) rfl

theorem atomvMax (o : RL4) : Statement (.atomvMax o) := by
  intro g _
  exact two_words (by unfold hasExt; rw [wrRL4_op]; rfl)
    (by simp only [decodeInstr]; unfold decodeSt; rw [wrRL4_op, wrRL4_sel]; exact congrArg Instr.atomvMax (rdRL4_wrRL4 ..)) (wrRL4_guard ..) rfl

theorem atomvMinu (o : RL4) : Statement (.atomvMinu o) := by
  intro g _
  exact two_words (by unfold hasExt; rw [wrRL4_op]; rfl)
    (by simp only [decodeInstr]; unfold decodeSt; rw [wrRL4_op, wrRL4_sel]; exact congrArg Instr.atomvMinu (rdRL4_wrRL4 ..)) (wrRL4_guard ..) rfl

theorem atomvMaxu (o : RL4) : Statement (.atomvMaxu o) := by
  intro g _
  exact two_words (by unfold hasExt; rw [wrRL4_op]; rfl)
    (by simp only [decodeInstr]; unfold decodeSt; rw [wrRL4_op, wrRL4_sel]; exact congrArg Instr.atomvMaxu (rdRL4_wrRL4 ..)) (wrRL4_guard ..) rfl

theorem atomvSwp (o : RL4) : Statement (.atomvSwp o) := by
  intro g _
  exact two_words (by unfold hasExt; rw [wrRL4_op]; rfl)
    (by simp only [decodeInstr]; unfold decodeSt; rw [wrRL4_op, wrRL4_sel]; exact congrArg Instr.atomvSwp (rdRL4_wrRL4 ..)) (wrRL4_guard ..) rfl

theorem rput (o : RL) : Statement (.rput o) := by
  intro g _
  exact two_words (by unfold hasExt; rw [wrRL_op]; rfl)
    (by simp only [decodeInstr]; unfold decodeSt; rw [wrRL_op]; exact congrArg Instr.rput (rdRL_wrRL ..)) (wrRL_guard ..) rfl

theorem mwb (o : RL) : Statement (.mwb o) := by
  intro g _
  exact two_words (by unfold hasExt; rw [wrRL_op]; rfl)
    (by simp only [decodeInstr]; unfold decodeSt; rw [wrRL_op]; exact congrArg Instr.mwb (rdRL_wrRL ..)) (wrRL_guard ..) rfl

theorem issueBundle (h : BundleHdr) (pm pa pb pf : Option Patch) : Statement (.issueBundle h pm pa pb pf) := by
  intro g ht
  have hs : hdrSlots (wrHdr (slotBit pm ++ slotBit pa ++ slotBit pb ++ slotBit pf) h) =
      [pm.isSome, pa.isSome, pb.isSome, pf.isSome] := by
    simp only [hdrSlots, wrHdr_slot0, wrHdr_slot1, wrHdr_slot2, wrHdr_slot3]
    cases pm <;> cases pa <;> cases pb <;> cases pf <;>
      (simp only [slotBit, Option.isSome_some, Option.isSome_none]; decide)
  show decodeCode (.bundle (wrHdr (slotBit pm ++ slotBit pa ++ slotBit pb ++ slotBit pf) h ::
    ([pm, pa, pb, pf].filterMap id).map wrPatch)) = _
  simp only [decodeCode, bundleWords, decodeBundle, hs, rdHdr_wrHdr]
  cases pm <;> cases pa <;> cases pb <;> cases pf <;>
    first
      | (simp only [givePatches, List.filterMap, List.map, id, Option.isSome, rdPatch_wrPatch]; rfl)
      | simp [toldApart] at ht

theorem emptyBundle (h : BundleHdr) : Statement (.emptyBundle h) := by
  intro g _
  show decodeCode (.bundle [wrHdr 0 h]) = _
  have hs : hdrSlots (wrHdr 0 h) = [false, false, false, false] := by
    simp only [hdrSlots, wrHdr_slot0, wrHdr_slot1, wrHdr_slot2, wrHdr_slot3]; decide
  simp only [decodeCode, bundleWords, decodeBundle, hs, rdHdr_wrHdr]
  rfl

theorem mls (t : MTmpl) : Statement (.mls t) := by
  intro g _
  show (decodeM (wrMTmpl 2 t)).map _ = _
  unfold decodeM; rw [wrMTmpl_top, rdMTmpl_wrMTmpl]; rfl

theorem accrd (t : MTmpl) : Statement (.accrd t) := by
  intro g _
  show (decodeM (wrMTmpl 3 t)).map _ = _
  unfold decodeM; rw [wrMTmpl_top, rdMTmpl_wrMTmpl]; rfl

theorem accz (t : MTmpl) : Statement (.accz t) := by
  intro g _
  show (decodeM (wrMTmpl 4 t)).map _ = _
  unfold decodeM; rw [wrMTmpl_top, rdMTmpl_wrMTmpl]; rfl

theorem accld (t : MTmpl) : Statement (.accld t) := by
  intro g _
  show (decodeM (wrMTmpl 5 t)).map _ = _
  unfold decodeM; rw [wrMTmpl_top, rdMTmpl_wrMTmpl]; rfl

theorem amld (t : MTmpl) : Statement (.amld t) := by
  intro g _
  show (decodeM (wrMTmpl 6 t)).map _ = _
  unfold decodeM; rw [wrMTmpl_top, rdMTmpl_wrMTmpl]; rfl

theorem draw (t : MTmpl) : Statement (.draw t) := by
  intro g _
  show (decodeM (wrMTmpl 7 t)).map _ = _
  unfold decodeM; rw [wrMTmpl_top, rdMTmpl_wrMTmpl]; rfl

theorem mmaM8K1 (t : MTmpl) : Statement (.mmaM8K1 t) := by
  intro g _
  show (decodeM (wrMTmpl 32 t)).map _ = _
  unfold decodeM; rw [wrMTmpl_top, rdMTmpl_wrMTmpl]; rfl

theorem mmaM8K2 (t : MTmpl) : Statement (.mmaM8K2 t) := by
  intro g _
  show (decodeM (wrMTmpl 33 t)).map _ = _
  unfold decodeM; rw [wrMTmpl_top, rdMTmpl_wrMTmpl]; rfl

theorem mmaM8K4 (t : MTmpl) : Statement (.mmaM8K4 t) := by
  intro g _
  show (decodeM (wrMTmpl 34 t)).map _ = _
  unfold decodeM; rw [wrMTmpl_top, rdMTmpl_wrMTmpl]; rfl

theorem mmaM8K8 (t : MTmpl) : Statement (.mmaM8K8 t) := by
  intro g _
  show (decodeM (wrMTmpl 35 t)).map _ = _
  unfold decodeM; rw [wrMTmpl_top, rdMTmpl_wrMTmpl]; rfl

theorem mmaM16K1 (t : MTmpl) : Statement (.mmaM16K1 t) := by
  intro g _
  show (decodeM (wrMTmpl 36 t)).map _ = _
  unfold decodeM; rw [wrMTmpl_top, rdMTmpl_wrMTmpl]; rfl

theorem mmaM16K2 (t : MTmpl) : Statement (.mmaM16K2 t) := by
  intro g _
  show (decodeM (wrMTmpl 37 t)).map _ = _
  unfold decodeM; rw [wrMTmpl_top, rdMTmpl_wrMTmpl]; rfl

theorem mmaM16K4 (t : MTmpl) : Statement (.mmaM16K4 t) := by
  intro g _
  show (decodeM (wrMTmpl 38 t)).map _ = _
  unfold decodeM; rw [wrMTmpl_top, rdMTmpl_wrMTmpl]; rfl

theorem mmaM16K8 (t : MTmpl) : Statement (.mmaM16K8 t) := by
  intro g _
  show (decodeM (wrMTmpl 39 t)).map _ = _
  unfold decodeM; rw [wrMTmpl_top, rdMTmpl_wrMTmpl]; rfl

theorem mmaM32K1 (t : MTmpl) : Statement (.mmaM32K1 t) := by
  intro g _
  show (decodeM (wrMTmpl 40 t)).map _ = _
  unfold decodeM; rw [wrMTmpl_top, rdMTmpl_wrMTmpl]; rfl

theorem mmaM32K2 (t : MTmpl) : Statement (.mmaM32K2 t) := by
  intro g _
  show (decodeM (wrMTmpl 41 t)).map _ = _
  unfold decodeM; rw [wrMTmpl_top, rdMTmpl_wrMTmpl]; rfl

theorem mmaM32K4 (t : MTmpl) : Statement (.mmaM32K4 t) := by
  intro g _
  show (decodeM (wrMTmpl 42 t)).map _ = _
  unfold decodeM; rw [wrMTmpl_top, rdMTmpl_wrMTmpl]; rfl

theorem mmaM32K8 (t : MTmpl) : Statement (.mmaM32K8 t) := by
  intro g _
  show (decodeM (wrMTmpl 43 t)).map _ = _
  unfold decodeM; rw [wrMTmpl_top, rdMTmpl_wrMTmpl]; rfl

theorem mmaM64K1 (t : MTmpl) : Statement (.mmaM64K1 t) := by
  intro g _
  show (decodeM (wrMTmpl 44 t)).map _ = _
  unfold decodeM; rw [wrMTmpl_top, rdMTmpl_wrMTmpl]; rfl

theorem mmaM64K2 (t : MTmpl) : Statement (.mmaM64K2 t) := by
  intro g _
  show (decodeM (wrMTmpl 45 t)).map _ = _
  unfold decodeM; rw [wrMTmpl_top, rdMTmpl_wrMTmpl]; rfl

theorem mmaM64K4 (t : MTmpl) : Statement (.mmaM64K4 t) := by
  intro g _
  show (decodeM (wrMTmpl 46 t)).map _ = _
  unfold decodeM; rw [wrMTmpl_top, rdMTmpl_wrMTmpl]; rfl

theorem mmaM64K8 (t : MTmpl) : Statement (.mmaM64K8 t) := by
  intro g _
  show (decodeM (wrMTmpl 47 t)).map _ = _
  unfold decodeM; rw [wrMTmpl_top, rdMTmpl_wrMTmpl]; rfl

theorem vadd (u : VUnit) : Statement (.vadd u) := by
  intro g _
  show (decodeV u.slot (wrVTmpl 1 u.t)).map _ = _
  unfold decodeV; rw [wrVTmpl_top, rdVTmpl_wrVTmpl]; rfl

theorem vsub (u : VUnit) : Statement (.vsub u) := by
  intro g _
  show (decodeV u.slot (wrVTmpl 2 u.t)).map _ = _
  unfold decodeV; rw [wrVTmpl_top, rdVTmpl_wrVTmpl]; rfl

theorem vmul (u : VUnit) : Statement (.vmul u) := by
  intro g _
  show (decodeV u.slot (wrVTmpl 3 u.t)).map _ = _
  unfold decodeV; rw [wrVTmpl_top, rdVTmpl_wrVTmpl]; rfl

theorem vfma (u : VUnit) : Statement (.vfma u) := by
  intro g _
  show (decodeV u.slot (wrVTmpl 4 u.t)).map _ = _
  unfold decodeV; rw [wrVTmpl_top, rdVTmpl_wrVTmpl]; rfl

theorem vfms (u : VUnit) : Statement (.vfms u) := by
  intro g _
  show (decodeV u.slot (wrVTmpl 5 u.t)).map _ = _
  unfold decodeV; rw [wrVTmpl_top, rdVTmpl_wrVTmpl]; rfl

theorem vmin (u : VUnit) : Statement (.vmin u) := by
  intro g _
  show (decodeV u.slot (wrVTmpl 6 u.t)).map _ = _
  unfold decodeV; rw [wrVTmpl_top, rdVTmpl_wrVTmpl]; rfl

theorem vmax (u : VUnit) : Statement (.vmax u) := by
  intro g _
  show (decodeV u.slot (wrVTmpl 7 u.t)).map _ = _
  unfold decodeV; rw [wrVTmpl_top, rdVTmpl_wrVTmpl]; rfl

theorem vabs (u : VUnit) : Statement (.vabs u) := by
  intro g _
  show (decodeV u.slot (wrVTmpl 8 u.t)).map _ = _
  unfold decodeV; rw [wrVTmpl_top, rdVTmpl_wrVTmpl]; rfl

theorem vneg (u : VUnit) : Statement (.vneg u) := by
  intro g _
  show (decodeV u.slot (wrVTmpl 9 u.t)).map _ = _
  unfold decodeV; rw [wrVTmpl_top, rdVTmpl_wrVTmpl]; rfl

theorem vand (u : VUnit) : Statement (.vand u) := by
  intro g _
  show (decodeV u.slot (wrVTmpl 10 u.t)).map _ = _
  unfold decodeV; rw [wrVTmpl_top, rdVTmpl_wrVTmpl]; rfl

theorem vor (u : VUnit) : Statement (.vor u) := by
  intro g _
  show (decodeV u.slot (wrVTmpl 11 u.t)).map _ = _
  unfold decodeV; rw [wrVTmpl_top, rdVTmpl_wrVTmpl]; rfl

theorem vxor (u : VUnit) : Statement (.vxor u) := by
  intro g _
  show (decodeV u.slot (wrVTmpl 12 u.t)).map _ = _
  unfold decodeV; rw [wrVTmpl_top, rdVTmpl_wrVTmpl]; rfl

theorem vnot (u : VUnit) : Statement (.vnot u) := by
  intro g _
  show (decodeV u.slot (wrVTmpl 13 u.t)).map _ = _
  unfold decodeV; rw [wrVTmpl_top, rdVTmpl_wrVTmpl]; rfl

theorem vshl (u : VUnit) : Statement (.vshl u) := by
  intro g _
  show (decodeV u.slot (wrVTmpl 14 u.t)).map _ = _
  unfold decodeV; rw [wrVTmpl_top, rdVTmpl_wrVTmpl]; rfl

theorem vshr (u : VUnit) : Statement (.vshr u) := by
  intro g _
  show (decodeV u.slot (wrVTmpl 15 u.t)).map _ = _
  unfold decodeV; rw [wrVTmpl_top, rdVTmpl_wrVTmpl]; rfl

theorem vsar (u : VUnit) : Statement (.vsar u) := by
  intro g _
  show (decodeV u.slot (wrVTmpl 16 u.t)).map _ = _
  unfold decodeV; rw [wrVTmpl_top, rdVTmpl_wrVTmpl]; rfl

theorem vcmpEq (u : VUnit) : Statement (.vcmpEq u) := by
  intro g _
  show (decodeV u.slot (wrVTmpl 17 u.t)).map _ = _
  unfold decodeV; rw [wrVTmpl_top, rdVTmpl_wrVTmpl]; rfl

theorem vcmpNe (u : VUnit) : Statement (.vcmpNe u) := by
  intro g _
  show (decodeV u.slot (wrVTmpl 18 u.t)).map _ = _
  unfold decodeV; rw [wrVTmpl_top, rdVTmpl_wrVTmpl]; rfl

theorem vcmpLt (u : VUnit) : Statement (.vcmpLt u) := by
  intro g _
  show (decodeV u.slot (wrVTmpl 19 u.t)).map _ = _
  unfold decodeV; rw [wrVTmpl_top, rdVTmpl_wrVTmpl]; rfl

theorem vcmpLe (u : VUnit) : Statement (.vcmpLe u) := by
  intro g _
  show (decodeV u.slot (wrVTmpl 20 u.t)).map _ = _
  unfold decodeV; rw [wrVTmpl_top, rdVTmpl_wrVTmpl]; rfl

theorem vcmpGt (u : VUnit) : Statement (.vcmpGt u) := by
  intro g _
  show (decodeV u.slot (wrVTmpl 21 u.t)).map _ = _
  unfold decodeV; rw [wrVTmpl_top, rdVTmpl_wrVTmpl]; rfl

theorem vcmpGe (u : VUnit) : Statement (.vcmpGe u) := by
  intro g _
  show (decodeV u.slot (wrVTmpl 22 u.t)).map _ = _
  unfold decodeV; rw [wrVTmpl_top, rdVTmpl_wrVTmpl]; rfl

theorem vsel (u : VUnit) : Statement (.vsel u) := by
  intro g _
  show (decodeV u.slot (wrVTmpl 23 u.t)).map _ = _
  unfold decodeV; rw [wrVTmpl_top, rdVTmpl_wrVTmpl]; rfl

theorem vmov (u : VUnit) : Statement (.vmov u) := by
  intro g _
  show (decodeV u.slot (wrVTmpl 24 u.t)).map _ = _
  unfold decodeV; rw [wrVTmpl_top, rdVTmpl_wrVTmpl]; rfl

theorem vbcast (u : VUnit) : Statement (.vbcast u) := by
  intro g _
  show (decodeV u.slot (wrVTmpl 25 u.t)).map _ = _
  unfold decodeV; rw [wrVTmpl_top, rdVTmpl_wrVTmpl]; rfl

theorem vperm (u : VUnit) : Statement (.vperm u) := by
  intro g _
  show (decodeV u.slot (wrVTmpl 26 u.t)).map _ = _
  unfold decodeV; rw [wrVTmpl_top, rdVTmpl_wrVTmpl]; rfl

theorem vslide (u : VUnit) : Statement (.vslide u) := by
  intro g _
  show (decodeV u.slot (wrVTmpl 27 u.t)).map _ = _
  unfold decodeV; rw [wrVTmpl_top, rdVTmpl_wrVTmpl]; rfl

theorem vredSum (u : VUnit) : Statement (.vredSum u) := by
  intro g _
  show (decodeV u.slot (wrVTmpl 28 u.t)).map _ = _
  unfold decodeV; rw [wrVTmpl_top, rdVTmpl_wrVTmpl]; rfl

theorem vredMin (u : VUnit) : Statement (.vredMin u) := by
  intro g _
  show (decodeV u.slot (wrVTmpl 29 u.t)).map _ = _
  unfold decodeV; rw [wrVTmpl_top, rdVTmpl_wrVTmpl]; rfl

theorem vredMax (u : VUnit) : Statement (.vredMax u) := by
  intro g _
  show (decodeV u.slot (wrVTmpl 30 u.t)).map _ = _
  unfold decodeV; rw [wrVTmpl_top, rdVTmpl_wrVTmpl]; rfl

theorem vredAnd (u : VUnit) : Statement (.vredAnd u) := by
  intro g _
  show (decodeV u.slot (wrVTmpl 31 u.t)).map _ = _
  unfold decodeV; rw [wrVTmpl_top, rdVTmpl_wrVTmpl]; rfl

theorem vredOr (u : VUnit) : Statement (.vredOr u) := by
  intro g _
  show (decodeV u.slot (wrVTmpl 32 u.t)).map _ = _
  unfold decodeV; rw [wrVTmpl_top, rdVTmpl_wrVTmpl]; rfl

theorem vredXor (u : VUnit) : Statement (.vredXor u) := by
  intro g _
  show (decodeV u.slot (wrVTmpl 33 u.t)).map _ = _
  unfold decodeV; rw [wrVTmpl_top, rdVTmpl_wrVTmpl]; rfl

theorem vscanSum (u : VUnit) : Statement (.vscanSum u) := by
  intro g _
  show (decodeV u.slot (wrVTmpl 34 u.t)).map _ = _
  unfold decodeV; rw [wrVTmpl_top, rdVTmpl_wrVTmpl]; rfl

theorem vscanMin (u : VUnit) : Statement (.vscanMin u) := by
  intro g _
  show (decodeV u.slot (wrVTmpl 35 u.t)).map _ = _
  unfold decodeV; rw [wrVTmpl_top, rdVTmpl_wrVTmpl]; rfl

theorem vscanMax (u : VUnit) : Statement (.vscanMax u) := by
  intro g _
  show (decodeV u.slot (wrVTmpl 36 u.t)).map _ = _
  unfold decodeV; rw [wrVTmpl_top, rdVTmpl_wrVTmpl]; rfl

theorem vcvt (u : VUnit) : Statement (.vcvt u) := by
  intro g _
  show (decodeV u.slot (wrVTmpl 37 u.t)).map _ = _
  unfold decodeV; rw [wrVTmpl_top, rdVTmpl_wrVTmpl]; rfl

theorem vscl (u : VUnit) : Statement (.vscl u) := by
  intro g h
  have h : bits u.t.aux 7 1 = 0 := by simpa [toldApart] using h
  show (decodeV u.slot (wrVTmpl 38 u.t)).map _ = _
  unfold decodeV; rw [wrVTmpl_top, rdVTmpl_wrVTmpl]
  show Option.map _ (some (if bits u.t.aux 7 1 = 1 then _ else _)) = _
  rw [h]; rfl

theorem vsclDerive (u : VUnit) : Statement (.vsclDerive u) := by
  intro g h
  have h : bits u.t.aux 7 1 = 1 := by simpa [toldApart] using h
  show (decodeV u.slot (wrVTmpl 38 u.t)).map _ = _
  unfold decodeV; rw [wrVTmpl_top, rdVTmpl_wrVTmpl]
  show Option.map _ (some (if bits u.t.aux 7 1 = 1 then _ else _)) = _
  rw [h]; rfl

theorem viota (u : VUnit) : Statement (.viota u) := by
  intro g _
  show (decodeV u.slot (wrVTmpl 39 u.t)).map _ = _
  unfold decodeV; rw [wrVTmpl_top, rdVTmpl_wrVTmpl]; rfl

theorem vpopc (u : VUnit) : Statement (.vpopc u) := by
  intro g _
  show (decodeV u.slot (wrVTmpl 40 u.t)).map _ = _
  unfold decodeV; rw [wrVTmpl_top, rdVTmpl_wrVTmpl]; rfl

theorem vfirst (u : VUnit) : Statement (.vfirst u) := by
  intro g _
  show (decodeV u.slot (wrVTmpl 41 u.t)).map _ = _
  unfold decodeV; rw [wrVTmpl_top, rdVTmpl_wrVTmpl]; rfl

theorem vtopk (u : VUnit) : Statement (.vtopk u) := by
  intro g _
  show (decodeV u.slot (wrVTmpl 42 u.t)).map _ = _
  unfold decodeV; rw [wrVTmpl_top, rdVTmpl_wrVTmpl]; rfl

theorem vld (u : VUnit) : Statement (.vld u) := by
  intro g _
  show (decodeV u.slot (wrVTmpl 43 u.t)).map _ = _
  unfold decodeV; rw [wrVTmpl_top, rdVTmpl_wrVTmpl]; rfl

theorem vst (u : VUnit) : Statement (.vst u) := by
  intro g _
  show (decodeV u.slot (wrVTmpl 44 u.t)).map _ = _
  unfold decodeV; rw [wrVTmpl_top, rdVTmpl_wrVTmpl]; rfl

theorem gate (u : VUnit) : Statement (.gate u) := by
  intro g _
  show (decodeV u.slot (wrVTmpl 45 u.t)).map _ = _
  unfold decodeV; rw [wrVTmpl_top, rdVTmpl_wrVTmpl]; rfl

theorem vpen (u : VUnit) : Statement (.vpen u) := by
  intro g _
  show (decodeV u.slot (wrVTmpl 46 u.t)).map _ = _
  unfold decodeV; rw [wrVTmpl_top, rdVTmpl_wrVTmpl]; rfl

theorem vsbias (u : VUnit) : Statement (.vsbias u) := by
  intro g _
  show (decodeV u.slot (wrVTmpl 47 u.t)).map _ = _
  unfold decodeV; rw [wrVTmpl_top, rdVTmpl_wrVTmpl]; rfl

theorem vban (u : VUnit) : Statement (.vban u) := by
  intro g _
  show (decodeV u.slot (wrVTmpl 48 u.t)).map _ = _
  unfold decodeV; rw [wrVTmpl_top, rdVTmpl_wrVTmpl]; rfl

theorem vmatch (u : VUnit) : Statement (.vmatch u) := by
  intro g _
  show (decodeV u.slot (wrVTmpl 49 u.t)).map _ = _
  unfold decodeV; rw [wrVTmpl_top, rdVTmpl_wrVTmpl]; rfl

theorem vexp (t : VTmpl) : Statement (.vexp t) := by
  intro g _
  show (decodeF (wrVTmpl 1 t)).map _ = _
  unfold decodeF; rw [wrVTmpl_top, rdVTmpl_wrVTmpl]; rfl

theorem vlog (t : VTmpl) : Statement (.vlog t) := by
  intro g _
  show (decodeF (wrVTmpl 2 t)).map _ = _
  unfold decodeF; rw [wrVTmpl_top, rdVTmpl_wrVTmpl]; rfl

theorem vrcp (t : VTmpl) : Statement (.vrcp t) := by
  intro g _
  show (decodeF (wrVTmpl 3 t)).map _ = _
  unfold decodeF; rw [wrVTmpl_top, rdVTmpl_wrVTmpl]; rfl

theorem vrsq (t : VTmpl) : Statement (.vrsq t) := by
  intro g _
  show (decodeF (wrVTmpl 4 t)).map _ = _
  unfold decodeF; rw [wrVTmpl_top, rdVTmpl_wrVTmpl]; rfl

theorem vtanh (t : VTmpl) : Statement (.vtanh t) := by
  intro g _
  show (decodeF (wrVTmpl 5 t)).map _ = _
  unfold decodeF; rw [wrVTmpl_top, rdVTmpl_wrVTmpl]; rfl

theorem vsigm (t : VTmpl) : Statement (.vsigm t) := by
  intro g _
  show (decodeF (wrVTmpl 6 t)).map _ = _
  unfold decodeF; rw [wrVTmpl_top, rdVTmpl_wrVTmpl]; rfl

theorem cpy (o : Cmd) : Statement (.cpy o) := by
  intro g _
  exact two_words (by unfold hasExt; rw [wrCmd_op]; rfl)
    (by simp only [decodeInstr]; unfold decodeCtl; rw [wrCmd_op]; show decodeCommand _ _ = _
        unfold decodeCommand; rw [wrSub_sub]; exact congrArg Instr.cpy (rdCmd_wrCmd ..))
    (wrCmd_guard ..) rfl

theorem cpys (o : Cmd) : Statement (.cpys o) := by
  intro g _
  exact two_words (by unfold hasExt; rw [wrCmd_op]; rfl)
    (by simp only [decodeInstr]; unfold decodeCtl; rw [wrCmd_op]; show decodeCommand _ _ = _
        unfold decodeCommand; rw [wrSub_sub]; exact congrArg Instr.cpys (rdCmd_wrCmd ..))
    (wrCmd_guard ..) rfl

theorem cpyt (o : Cmd) : Statement (.cpyt o) := by
  intro g _
  exact two_words (by unfold hasExt; rw [wrCmd_op]; rfl)
    (by simp only [decodeInstr]; unfold decodeCtl; rw [wrCmd_op]; show decodeCommand _ _ = _
        unfold decodeCommand; rw [wrSub_sub]; exact congrArg Instr.cpyt (rdCmd_wrCmd ..))
    (wrCmd_guard ..) rfl

theorem cpyd (o : Cmd) : Statement (.cpyd o) := by
  intro g _
  exact two_words (by unfold hasExt; rw [wrCmd_op]; rfl)
    (by simp only [decodeInstr]; unfold decodeCtl; rw [wrCmd_op]; show decodeCommand _ _ = _
        unfold decodeCommand; rw [wrSub_sub]; exact congrArg Instr.cpyd (rdCmd_wrCmd ..))
    (wrCmd_guard ..) rfl

theorem lease (o : Cmd) : Statement (.lease o) := by
  intro g _
  exact two_words (by unfold hasExt; rw [wrCmd_op]; rfl)
    (by simp only [decodeInstr]; unfold decodeCtl; rw [wrCmd_op]; show decodeCommand _ _ = _
        unfold decodeCommand; rw [wrSub_sub]; exact congrArg Instr.lease (rdCmd_wrCmd ..))
    (wrCmd_guard ..) rfl

theorem lrel (o : Cmd) : Statement (.lrel o) := by
  intro g _
  exact two_words (by unfold hasExt; rw [wrCmd_op]; rfl)
    (by simp only [decodeInstr]; unfold decodeCtl; rw [wrCmd_op]; show decodeCommand _ _ = _
        unfold decodeCommand; rw [wrSub_sub]; exact congrArg Instr.lrel (rdCmd_wrCmd ..))
    (wrCmd_guard ..) rfl

theorem msendP (o : Cmd) : Statement (.msendP o) := by
  intro g h
  have h : bits o.f8 0 1 = 0 := by simpa [toldApart] using h
  exact two_words (by unfold hasExt; rw [wrCmd_op]; rfl)
    (by simp only [decodeInstr]; unfold decodeCtl; rw [wrCmd_op]; show decodeCommand _ _ = _
        unfold decodeCommand; rw [wrSub_sub, wrCmd_sel1, h]; exact congrArg Instr.msendP (rdCmd_wrCmd ..))
    (wrCmd_guard ..) rfl

theorem msendH (o : Cmd) : Statement (.msendH o) := by
  intro g h
  have h : bits o.f8 0 1 = 1 := by simpa [toldApart] using h
  exact two_words (by unfold hasExt; rw [wrCmd_op]; rfl)
    (by simp only [decodeInstr]; unfold decodeCtl; rw [wrCmd_op]; show decodeCommand _ _ = _
        unfold decodeCommand; rw [wrSub_sub, wrCmd_sel1, h]; exact congrArg Instr.msendH (rdCmd_wrCmd ..))
    (wrCmd_guard ..) rfl

theorem disp (o : Cmd) : Statement (.disp o) := by
  intro g _
  exact two_words (by unfold hasExt; rw [wrCmd_op]; rfl)
    (by simp only [decodeInstr]; unfold decodeCtl; rw [wrCmd_op]; show decodeCommand _ _ = _
        unfold decodeCommand; rw [wrSub_sub]; exact congrArg Instr.disp (rdCmd_wrCmd ..))
    (wrCmd_guard ..) rfl

theorem cmb (o : Cmd) : Statement (.cmb o) := by
  intro g _
  exact two_words (by unfold hasExt; rw [wrCmd_op]; rfl)
    (by simp only [decodeInstr]; unfold decodeCtl; rw [wrCmd_op]; show decodeCommand _ _ = _
        unfold decodeCommand; rw [wrSub_sub]; exact congrArg Instr.cmb (rdCmd_wrCmd ..))
    (wrCmd_guard ..) rfl

theorem qwait (o : Cmd) : Statement (.qwait o) := by
  intro g _
  exact two_words (by unfold hasExt; rw [wrCmd_op]; rfl)
    (by simp only [decodeInstr]; unfold decodeCtl; rw [wrCmd_op]; show decodeCommand _ _ = _
        unfold decodeCommand; rw [wrSub_sub]; exact congrArg Instr.qwait (rdCmd_wrCmd ..))
    (wrCmd_guard ..) rfl

theorem qread (o : Cmd) : Statement (.qread o) := by
  intro g _
  exact two_words (by unfold hasExt; rw [wrCmd_op]; rfl)
    (by simp only [decodeInstr]; unfold decodeCtl; rw [wrCmd_op]; show decodeCommand _ _ = _
        unfold decodeCommand; rw [wrSub_sub]; exact congrArg Instr.qread (rdCmd_wrCmd ..))
    (wrCmd_guard ..) rfl

theorem rlook (o : Cmd) : Statement (.rlook o) := by
  intro g _
  exact two_words (by unfold hasExt; rw [wrCmd_op]; rfl)
    (by simp only [decodeInstr]; unfold decodeCtl; rw [wrCmd_op]; show decodeCommand _ _ = _
        unfold decodeCommand; rw [wrSub_sub]; exact congrArg Instr.rlook (rdCmd_wrCmd ..))
    (wrCmd_guard ..) rfl

theorem rpin (o : Cmd) : Statement (.rpin o) := by
  intro g _
  exact two_words (by unfold hasExt; rw [wrCmd_op]; rfl)
    (by simp only [decodeInstr]; unfold decodeCtl; rw [wrCmd_op]; show decodeCommand _ _ = _
        unfold decodeCommand; rw [wrSub_sub]; exact congrArg Instr.rpin (rdCmd_wrCmd ..))
    (wrCmd_guard ..) rfl

theorem runpin (o : Cmd) : Statement (.runpin o) := by
  intro g _
  exact two_words (by unfold hasExt; rw [wrCmd_op]; rfl)
    (by simp only [decodeInstr]; unfold decodeCtl; rw [wrCmd_op]; show decodeCommand _ _ = _
        unfold decodeCommand; rw [wrSub_sub]; exact congrArg Instr.runpin (rdCmd_wrCmd ..))
    (wrCmd_guard ..) rfl

theorem rfetch (o : Cmd) : Statement (.rfetch o) := by
  intro g _
  exact two_words (by unfold hasExt; rw [wrCmd_op]; rfl)
    (by simp only [decodeInstr]; unfold decodeCtl; rw [wrCmd_op]; show decodeCommand _ _ = _
        unfold decodeCommand; rw [wrSub_sub]; exact congrArg Instr.rfetch (rdCmd_wrCmd ..))
    (wrCmd_guard ..) rfl

theorem revict (o : Cmd) : Statement (.revict o) := by
  intro g _
  exact two_words (by unfold hasExt; rw [wrCmd_op]; rfl)
    (by simp only [decodeInstr]; unfold decodeCtl; rw [wrCmd_op]; show decodeCommand _ _ = _
        unfold decodeCommand; rw [wrSub_sub]; exact congrArg Instr.revict (rdCmd_wrCmd ..))
    (wrCmd_guard ..) rfl

theorem rpolLayer (o : Cmd) : Statement (.rpolLayer o) := by
  intro g h
  have h : bits o.f8 0 2 = 0 := by simpa [toldApart] using h
  exact two_words (by unfold hasExt; rw [wrCmd_op]; rfl)
    (by simp only [decodeInstr]; unfold decodeCtl; rw [wrCmd_op]; show decodeCommand _ _ = _
        unfold decodeCommand; rw [wrSub_sub, wrCmd_sel2, h]; exact congrArg Instr.rpolLayer (rdCmd_wrCmd ..))
    (wrCmd_guard ..) rfl

theorem rpolUnlayer (o : Cmd) : Statement (.rpolUnlayer o) := by
  intro g h
  have h : bits o.f8 0 2 = 1 := by simpa [toldApart] using h
  exact two_words (by unfold hasExt; rw [wrCmd_op]; rfl)
    (by simp only [decodeInstr]; unfold decodeCtl; rw [wrCmd_op]; show decodeCommand _ _ = _
        unfold decodeCommand; rw [wrSub_sub, wrCmd_sel2, h]; exact congrArg Instr.rpolUnlayer (rdCmd_wrCmd ..))
    (wrCmd_guard ..) rfl

theorem rpolCat (o : Cmd) : Statement (.rpolCat o) := by
  intro g h
  have h : bits o.f8 0 2 = 2 := by simpa [toldApart] using h
  exact two_words (by unfold hasExt; rw [wrCmd_op]; rfl)
    (by simp only [decodeInstr]; unfold decodeCtl; rw [wrCmd_op]; show decodeCommand _ _ = _
        unfold decodeCommand; rw [wrSub_sub, wrCmd_sel2, h]; exact congrArg Instr.rpolCat (rdCmd_wrCmd ..))
    (wrCmd_guard ..) rfl

theorem rpolUncat (o : Cmd) : Statement (.rpolUncat o) := by
  intro g h
  have h : bits o.f8 0 2 = 3 := by simpa [toldApart] using h
  exact two_words (by unfold hasExt; rw [wrCmd_op]; rfl)
    (by simp only [decodeInstr]; unfold decodeCtl; rw [wrCmd_op]; show decodeCommand _ _ = _
        unfold decodeCommand; rw [wrSub_sub, wrCmd_sel2, h]; exact congrArg Instr.rpolUncat (rdCmd_wrCmd ..))
    (wrCmd_guard ..) rfl

theorem sqopen (o : Cmd) : Statement (.sqopen o) := by
  intro g h
  have h : bits o.f8 0 1 = 0 := by simpa [toldApart] using h
  exact two_words (by unfold hasExt; rw [wrCmd_op]; rfl)
    (by simp only [decodeInstr]; unfold decodeCtl; rw [wrCmd_op]; show decodeCommand _ _ = _
        unfold decodeCommand; rw [wrSub_sub, wrCmd_sel1, h]; exact congrArg Instr.sqopen (rdCmd_wrCmd ..))
    (wrCmd_guard ..) rfl

theorem sqopenClose (o : Cmd) : Statement (.sqopenClose o) := by
  intro g h
  have h : bits o.f8 0 1 = 1 := by simpa [toldApart] using h
  exact two_words (by unfold hasExt; rw [wrCmd_op]; rfl)
    (by simp only [decodeInstr]; unfold decodeCtl; rw [wrCmd_op]; show decodeCommand _ _ = _
        unfold decodeCommand; rw [wrSub_sub, wrCmd_sel1, h]; exact congrArg Instr.sqopenClose (rdCmd_wrCmd ..))
    (wrCmd_guard ..) rfl

theorem sqframe (o : Cmd) : Statement (.sqframe o) := by
  intro g _
  exact two_words (by unfold hasExt; rw [wrCmd_op]; rfl)
    (by simp only [decodeInstr]; unfold decodeCtl; rw [wrCmd_op]; show decodeCommand _ _ = _
        unfold decodeCommand; rw [wrSub_sub]; exact congrArg Instr.sqframe (rdCmd_wrCmd ..))
    (wrCmd_guard ..) rfl

theorem sqtrunc (o : Cmd) : Statement (.sqtrunc o) := by
  intro g _
  exact two_words (by unfold hasExt; rw [wrCmd_op]; rfl)
    (by simp only [decodeInstr]; unfold decodeCtl; rw [wrCmd_op]; show decodeCommand _ _ = _
        unfold decodeCommand; rw [wrSub_sub]; exact congrArg Instr.sqtrunc (rdCmd_wrCmd ..))
    (wrCmd_guard ..) rfl

theorem sqckpt (o : Cmd) : Statement (.sqckpt o) := by
  intro g _
  exact two_words (by unfold hasExt; rw [wrCmd_op]; rfl)
    (by simp only [decodeInstr]; unfold decodeCtl; rw [wrCmd_op]; show decodeCommand _ _ = _
        unfold decodeCommand; rw [wrSub_sub]; exact congrArg Instr.sqckpt (rdCmd_wrCmd ..))
    (wrCmd_guard ..) rfl

theorem sqspec (o : Cmd) : Statement (.sqspec o) := by
  intro g _
  exact two_words (by unfold hasExt; rw [wrCmd_op]; rfl)
    (by simp only [decodeInstr]; unfold decodeCtl; rw [wrCmd_op]; show decodeCommand _ _ = _
        unfold decodeCommand; rw [wrSub_sub]; exact congrArg Instr.sqspec (rdCmd_wrCmd ..))
    (wrCmd_guard ..) rfl

theorem sqcmit (o : Cmd) : Statement (.sqcmit o) := by
  intro g _
  exact two_words (by unfold hasExt; rw [wrCmd_op]; rfl)
    (by simp only [decodeInstr]; unfold decodeCtl; rw [wrCmd_op]; show decodeCommand _ _ = _
        unfold decodeCommand; rw [wrSub_sub]; exact congrArg Instr.sqcmit (rdCmd_wrCmd ..))
    (wrCmd_guard ..) rfl

theorem sqcurRead (o : Cmd) : Statement (.sqcurRead o) := by
  intro g h
  have h : bits o.f8 0 2 = 0 ∨ bits o.f8 0 2 = 3 := by
    have h : bits o.f8 0 2 ≠ 1 ∧ bits o.f8 0 2 ≠ 2 := by simpa [toldApart] using h
    revert h; generalize bits o.f8 0 2 = x; revert x; decide
  exact two_words (by unfold hasExt; rw [wrCmd_op]; rfl)
    (by simp only [decodeInstr]; unfold decodeCtl; rw [wrCmd_op]; show decodeCommand _ _ = _
        unfold decodeCommand; rw [wrSub_sub, wrCmd_sel2]
        obtain h | h := h <;> (rw [h]; exact congrArg Instr.sqcurRead (rdCmd_wrCmd ..)))
    (wrCmd_guard ..) rfl

theorem sqcurPlay (o : Cmd) : Statement (.sqcurPlay o) := by
  intro g h
  have h : bits o.f8 0 2 = 1 := by simpa [toldApart] using h
  exact two_words (by unfold hasExt; rw [wrCmd_op]; rfl)
    (by simp only [decodeInstr]; unfold decodeCtl; rw [wrCmd_op]; show decodeCommand _ _ = _
        unfold decodeCommand; rw [wrSub_sub, wrCmd_sel2, h]; exact congrArg Instr.sqcurPlay (rdCmd_wrCmd ..))
    (wrCmd_guard ..) rfl

theorem sqcurKv (o : Cmd) : Statement (.sqcurKv o) := by
  intro g h
  have h : bits o.f8 0 2 = 2 := by simpa [toldApart] using h
  exact two_words (by unfold hasExt; rw [wrCmd_op]; rfl)
    (by simp only [decodeInstr]; unfold decodeCtl; rw [wrCmd_op]; show decodeCommand _ _ = _
        unfold decodeCommand; rw [wrSub_sub, wrCmd_sel2, h]; exact congrArg Instr.sqcurKv (rdCmd_wrCmd ..))
    (wrCmd_guard ..) rfl

theorem prel (o : Cmd) : Statement (.prel o) := by
  intro g _
  exact two_words (by unfold hasExt; rw [wrCmd_op]; rfl)
    (by simp only [decodeInstr]; unfold decodeCtl; rw [wrCmd_op]; show decodeCommand _ _ = _
        unfold decodeCommand; rw [wrSub_sub]; exact congrArg Instr.prel (rdCmd_wrCmd ..))
    (wrCmd_guard ..) rfl

theorem pstat (o : Cmd) : Statement (.pstat o) := by
  intro g _
  exact two_words (by unfold hasExt; rw [wrCmd_op]; rfl)
    (by simp only [decodeInstr]; unfold decodeCtl; rw [wrCmd_op]; show decodeCommand _ _ = _
        unfold decodeCommand; rw [wrSub_sub]; exact congrArg Instr.pstat (rdCmd_wrCmd ..))
    (wrCmd_guard ..) rfl

theorem publish : Statement (.publish) := by
  intro g _
  exact one_word (by unfold hasExt; rw [wrR3F_op]; rfl)
    (by simp only [decodeInstr]; unfold decodeCtl; rw [wrR3F_op]; rfl)
    (wrR3F_guard ..) (by unfold strayBits; simp only [wrR3F_stray20]; rfl)

theorem rftRetry : Statement (.rftRetry) := by
  intro g _
  exact one_word (by unfold hasExt; rw [wrR3F_op]; rfl)
    (by simp only [decodeInstr]; unfold decodeCtl; rw [wrR3F_op, wrR3F_sel]; rfl)
    (wrR3F_guard ..) (by unfold strayBits; simp only [wrR3F_stray, wrR3F_sel]; rfl)

theorem rftSkip : Statement (.rftSkip) := by
  intro g _
  exact one_word (by unfold hasExt; rw [wrR3F_op]; rfl)
    (by simp only [decodeInstr]; unfold decodeCtl; rw [wrR3F_op, wrR3F_sel]; rfl)
    (wrR3F_guard ..) (by unfold strayBits; simp only [wrR3F_stray, wrR3F_sel]; rfl)

theorem rftRedirect : Statement (.rftRedirect) := by
  intro g _
  exact one_word (by unfold hasExt; rw [wrR3F_op]; rfl)
    (by simp only [decodeInstr]; unfold decodeCtl; rw [wrR3F_op, wrR3F_sel]; rfl)
    (wrR3F_guard ..) (by unfold strayBits; simp only [wrR3F_stray, wrR3F_sel]; rfl)

theorem yield : Statement (.yield) := by
  intro g _
  exact one_word (by unfold hasExt; rw [wrR3F_op]; rfl)
    (by simp only [decodeInstr]; unfold decodeCtl; rw [wrR3F_op]; rfl)
    (wrR3F_guard ..) (by unfold strayBits; simp only [wrR3F_stray20]; rfl)

theorem tend : Statement (.tend) := by
  intro g _
  exact one_word (by unfold hasExt; rw [wrR3F_op]; rfl)
    (by simp only [decodeInstr]; unfold decodeCtl; rw [wrR3F_op, wrR3F_sel]; rfl)
    (wrR3F_guard ..) (by unfold strayBits; simp only [wrR3F_stray, wrR3F_sel]; rfl)

theorem tendAbort : Statement (.tendAbort) := by
  intro g _
  exact one_word (by unfold hasExt; rw [wrR3F_op]; rfl)
    (by simp only [decodeInstr]; unfold decodeCtl; rw [wrR3F_op, wrR3F_sel]; rfl)
    (wrR3F_guard ..) (by unfold strayBits; simp only [wrR3F_stray, wrR3F_sel]; rfl)

theorem tendEsc : Statement (.tendEsc) := by
  intro g _
  exact one_word (by unfold hasExt; rw [wrR3F_op]; rfl)
    (by simp only [decodeInstr]; unfold decodeCtl; rw [wrR3F_op, wrR3F_sel]; rfl)
    (wrR3F_guard ..) (by unfold strayBits; simp only [wrR3F_stray, wrR3F_sel]; rfl)

theorem nop : Statement (.nop) := by
  intro g _
  exact one_word (by unfold hasExt; rw [wrR3F_op]; rfl)
    (by simp only [decodeInstr]; unfold decodeCtl; rw [wrR3F_op]; rfl)
    (wrR3F_guard ..) (by unfold strayBits; simp only [wrR3F_stray20]; rfl)

theorem mnop : Statement (.mnop) := by
  intro g _
  show decodeCode (.mTmpl (BitVec.ofNat 8 1 ++ (0 : BitVec 120) : BitVec 128)) = some ⟨0, .mnop, false⟩
  decide

theorem heldAccessRetry : Statement (.heldAccessRetry) := by
  intro _ _; rfl

theorem flipLimitExpiry : Statement (.flipLimitExpiry) := by
  intro _ _; rfl

theorem flipToHostFinish : Statement (.flipToHostFinish) := by
  intro _ _; rfl

theorem windowFillDone : Statement (.windowFillDone) := by
  intro _ _; rfl

theorem deviceWriteback : Statement (.deviceWriteback) := by
  intro _ _; rfl

theorem publicationCommit : Statement (.publicationCommit) := by
  intro _ _; rfl

theorem scopeRefusalTimeout : Statement (.scopeRefusalTimeout) := by
  intro _ _; rfl

theorem shadowWriteRelease : Statement (.shadowWriteRelease) := by
  intro _ _; rfl

theorem snapshotPressure : Statement (.snapshotPressure) := by
  intro _ _; rfl

theorem snapshotExpired : Statement (.snapshotExpired) := by
  intro _ _; rfl

theorem dirtyEvictUncorrectable : Statement (.dirtyEvictUncorrectable) := by
  intro _ _; rfl

theorem registerWrite : Statement (.registerWrite) := by
  intro _ _; rfl

theorem barCfgWrite : Statement (.barCfgWrite) := by
  intro _ _; rfl

theorem muInvPage : Statement (.muInvPage) := by
  intro _ _; rfl

theorem muInvAsid : Statement (.muInvAsid) := by
  intro _ _; rfl

theorem muInvAll : Statement (.muInvAll) := by
  intro _ _; rfl

theorem muInvNone : Statement (.muInvNone) := by
  intro _ _; rfl

theorem nsRinvRegion : Statement (.nsRinvRegion) := by
  intro _ _; rfl

theorem nsRinvAll : Statement (.nsRinvAll) := by
  intro _ _; rfl

theorem ldShinvRegion : Statement (.ldShinvRegion) := by
  intro _ _; rfl

theorem ldShinvAll : Statement (.ldShinvAll) := by
  intro _ _; rfl

theorem tileDispatch : Statement (.tileDispatch) := by
  intro _ _; rfl

theorem priorityAging : Statement (.priorityAging) := by
  intro _ _; rfl

theorem tileCommit : Statement (.tileCommit) := by
  intro _ _; rfl

theorem yieldRequest : Statement (.yieldRequest) := by
  intro _ _; rfl

theorem boundaryYield : Statement (.boundaryYield) := by
  intro _ _; rfl

theorem yieldDeadline : Statement (.yieldDeadline) := by
  intro _ _; rfl

theorem saveComplete : Statement (.saveComplete) := by
  intro _ _; rfl

theorem saveBound : Statement (.saveBound) := by
  intro _ _; rfl

theorem tileRestore : Statement (.tileRestore) := by
  intro _ _; rfl

theorem watchdog : Statement (.watchdog) := by
  intro _ _; rfl

theorem streamEntryRead : Statement (.streamEntryRead) := by
  intro _ _; rfl

theorem streamEntryLand : Statement (.streamEntryLand) := by
  intro _ _; rfl

theorem ldDirectOpComplete : Statement (.ldDirectOpComplete) := by
  intro _ _; rfl

theorem heldFaultTrap : Statement (.heldFaultTrap) := by
  intro _ _; rfl

theorem stStreamEntryWrite : Statement (.stStreamEntryWrite) := by
  intro _ _; rfl

theorem stDirectOpComplete : Statement (.stDirectOpComplete) := by
  intro _ _; rfl

theorem mqGrant : Statement (.mqGrant) := by
  intro _ _; rfl

theorem mqEntryLand : Statement (.mqEntryLand) := by
  intro _ _; rfl

theorem mqFullTimeout : Statement (.mqFullTimeout) := by
  intro _ _; rfl

theorem tokenPushDeliver : Statement (.tokenPushDeliver) := by
  intro _ _; rfl

theorem lateFaultTrap : Statement (.lateFaultTrap) := by
  intro _ _; rfl

theorem mlsStart : Statement (.mlsStart) := by
  intro _ _; rfl

theorem shadowFull : Statement (.shadowFull) := by
  intro _ _; rfl

theorem mmaKStep : Statement (.mmaKStep) := by
  intro _ _; rfl

theorem copyChunkArrival : Statement (.copyChunkArrival) := by
  intro _ _; rfl

theorem copyComplete : Statement (.copyComplete) := by
  intro _ _; rfl

theorem copyFault : Statement (.copyFault) := by
  intro _ _; rfl

theorem leaseExpiry : Statement (.leaseExpiry) := by
  intro _ _; rfl

theorem shageanFlitReceive : Statement (.shageanFlitReceive) := by
  intro _ _; rfl

theorem shageanGoBack : Statement (.shageanGoBack) := by
  intro _ _; rfl

theorem linkAckTimeout : Statement (.linkAckTimeout) := by
  intro _ _; rfl

theorem linkResync : Statement (.linkResync) := by
  intro _ _; rfl

theorem shageanPacketReceive : Statement (.shageanPacketReceive) := by
  intro _ _; rfl

theorem peerRequest : Statement (.peerRequest) := by
  intro _ _; rfl

theorem peerResponse : Statement (.peerResponse) := by
  intro _ _; rfl

theorem handlerInboxGrant : Statement (.handlerInboxGrant) := by
  intro _ _; rfl

theorem handlerMessage : Statement (.handlerMessage) := by
  intro _ _; rfl

theorem handlerEnqueueRetry : Statement (.handlerEnqueueRetry) := by
  intro _ _; rfl

theorem gateSetLoadReq : Statement (.gateSetLoadReq) := by
  intro _ _; rfl

theorem gateSetBiasReload : Statement (.gateSetBiasReload) := by
  intro _ _; rfl

theorem gateSetFreeReq : Statement (.gateSetFreeReq) := by
  intro _ _; rfl

theorem gateSetLoad : Statement (.gateSetLoad) := by
  intro _ _; rfl

theorem gateSetFree : Statement (.gateSetFree) := by
  intro _ _; rfl

theorem tokenScore : Statement (.tokenScore) := by
  intro _ _; rfl

theorem steeperScore : Statement (.steeperScore) := by
  intro _ _; rfl

theorem combineArrival : Statement (.combineArrival) := by
  intro _ _; rfl

theorem dropNoticeArrival : Statement (.dropNoticeArrival) := by
  intro _ _; rfl

theorem waveStart : Statement (.waveStart) := by
  intro _ _; rfl

theorem wavePass : Statement (.wavePass) := by
  intro _ _; rfl

theorem qwaitTimeout : Statement (.qwaitTimeout) := by
  intro _ _; rfl

theorem jobCountersClear : Statement (.jobCountersClear) := by
  intro _ _; rfl

theorem saucerCopyArrive : Statement (.saucerCopyArrive) := by
  intro _ _; rfl

theorem flushDeadline : Statement (.flushDeadline) := by
  intro _ _; rfl

theorem expertEnqueueRetry : Statement (.expertEnqueueRetry) := by
  intro _ _; rfl

theorem expertTileRetire : Statement (.expertTileRetire) := by
  intro _ _; rfl

theorem absenceThreshold : Statement (.absenceThreshold) := by
  intro _ _; rfl

theorem fetchStart : Statement (.fetchStart) := by
  intro _ _; rfl

theorem fetchComplete : Statement (.fetchComplete) := by
  intro _ _; rfl

theorem fetchFail : Statement (.fetchFail) := by
  intro _ _; rfl

theorem nvmeCompletion : Statement (.nvmeCompletion) := by
  intro _ _; rfl

theorem nvmeTimeout : Statement (.nvmeTimeout) := by
  intro _ _; rfl

theorem sqCplayWrite : Statement (.sqCplayWrite) := by
  intro _ _; rfl

theorem lineFrameReceive : Statement (.lineFrameReceive) := by
  intro _ _; rfl

theorem advertisementTimer : Statement (.advertisementTimer) := by
  intro _ _; rfl

theorem portAcceptStart : Statement (.portAcceptStart) := by
  intro _ _; rfl

theorem portEnable : Statement (.portEnable) := by
  intro _ _; rfl

theorem portDisable : Statement (.portDisable) := by
  intro _ _; rfl

theorem whiskLoad : Statement (.whiskLoad) := by
  intro _ _; rfl

theorem coldReset : Statement (.coldReset) := by
  intro _ _; rfl

theorem bootStagingWrite : Statement (.bootStagingWrite) := by
  intro _ _; rfl

theorem bootGo : Statement (.bootGo) := by
  intro _ _; rfl

theorem featureAccept : Statement (.featureAccept) := by
  intro _ _; rfl

theorem ringEnable : Statement (.ringEnable) := by
  intro _ _; rfl

theorem ringDoorbell : Statement (.ringDoorbell) := by
  intro _ _; rfl

theorem ringEntryNest : Statement (.ringEntryNest) := by
  intro _ _; rfl

theorem ringEntryCopy : Statement (.ringEntryCopy) := by
  intro _ _; rfl

theorem ringEntryCopyin : Statement (.ringEntryCopyin) := by
  intro _ _; rfl

theorem ringEntryAttest : Statement (.ringEntryAttest) := by
  intro _ _; rfl

theorem apertureAccess : Statement (.apertureAccess) := by
  intro _ _; rfl

theorem tdispLockInterface : Statement (.tdispLockInterface) := by
  intro _ _; rfl

theorem tdispStartInterface : Statement (.tdispStartInterface) := by
  intro _ _; rfl

theorem tdispStopInterface : Statement (.tdispStopInterface) := by
  intro _ _; rfl

theorem hostAtomicCompletion : Statement (.hostAtomicCompletion) := by
  intro _ _; rfl

theorem hostAtomicWithdraw : Statement (.hostAtomicWithdraw) := by
  intro _ _; rfl

theorem thermalTrip : Statement (.thermalTrip) := by
  intro _ _; rfl

theorem svNqEnqueue : Statement (.svNqEnqueue) := by
  intro _ _; rfl

theorem svNdonePop : Statement (.svNdonePop) := by
  intro _ _; rfl

theorem svFlipPop : Statement (.svFlipPop) := by
  intro _ _; rfl

theorem mailboxS2hSend : Statement (.mailboxS2hSend) := by
  intro _ _; rfl

theorem mailboxH2sSend : Statement (.mailboxH2sSend) := by
  intro _ _; rfl

theorem mailboxS2hClear : Statement (.mailboxS2hClear) := by
  intro _ _; rfl

theorem mbAtomSeq : Statement (.mbAtomSeq) := by
  intro _ _; rfl

theorem mbAtomClaim : Statement (.mbAtomClaim) := by
  intro _ _; rfl

theorem mbAtomWdraw : Statement (.mbAtomWdraw) := by
  intro _ _; rfl

theorem illegalOpcode : Statement (.illegalOpcode) := by
  intro _ _; rfl

theorem engineOperationComplete : Statement (.engineOperationComplete) := by
  intro _ _; rfl

theorem samovarInstruction : Statement (.samovarInstruction) := by
  intro _ _; rfl

theorem thermalSensorReading : Statement (.thermalSensorReading) := by
  intro _ _; rfl

theorem powerLoss : Statement (.powerLoss) := by
  intro _ _; rfl

theorem linkStateChange : Statement (.linkStateChange) := by
  intro _ _; rfl

theorem doeMailboxMessage : Statement (.doeMailboxMessage) := by
  intro _ _; rfl

end RoundTrip

end Sys2Proof.Laws
end

