-- ==== Sys2Proof/Machine/Loader.lean ====
section
/-! DEFINITION. Bibex objects and what the loader writes at relocated sites (04 R116–R118). The loader is software: no
step of the device runs it. -/

namespace Sys2Proof.Machine

/-- A section: kind 0 data, 1 ctl, 2 ld, 3 cmp, 4 st, 5 template, 6 shape, 7 nest, 8 zero-filled (R116). -/
structure BibexSection where
  /-- Where its name begins in the string table. -/
  name : Nat := 0
  kind : Nat
  align : Nat
  bytes : List Byte
  deriving DecidableEq, Repr

/-- A symbol's section: none for an undefined one, `some none` for an absolute one (R116). -/
structure BibexSymbol where
  /-- Where its name begins in the string table. -/
  name : Nat := 0
  place : Option (Option Nat)
  value : Nat
  global : Bool
  deriving DecidableEq, Repr

/-- A relocation: its site, its type, its symbol and its addend (R116). -/
structure BibexReloc where
  section_ : Nat
  offset : Nat
  type : Nat
  symbol : Nat
  addend : Int
  deriving DecidableEq, Repr

/-- An object's four tables (R116). -/
structure BibexObject where
  sections : List BibexSection
  symbols : List BibexSymbol
  relocs : List BibexReloc
  strings : List Byte := []
  deriving DecidableEq, Repr

/-- Field of `n` bytes at an offset. -/
def bibexField (l : List Byte) (o n : Nat) : Nat := ofBytes ((l.drop o).take n)

/-- A section from its entry and the file. -/
def sectionOf (file e : List Byte) : BibexSection :=
  let kind := bibexField e 4 1
  let size := bibexField e 16 8
  { name := bibexField e 0 4, kind := kind, align := bibexField e 5 1
    bytes := if kind = 8 then List.replicate size 0 else (file.drop (bibexField e 8 8)).take size }

/-- A symbol from its entry. -/
def symbolOf (e : List Byte) : BibexSymbol :=
  let s := bibexField e 4 4
  { name := bibexField e 0 4
    place := if s = 0xFFFF_FFFF then none else if s = 0xFFFF_FFFE then some none else some (some s)
    value := bibexField e 8 8, global := bibexField e 16 1 = 1 }

/-- A relocation from its entry. -/
def relocOf (e : List Byte) : BibexReloc :=
  { section_ := bibexField e 0 4, offset := bibexField e 8 8, type := bibexField e 4 1, symbol := bibexField e 16 4
    addend := sval 64 (bibexField e 24 8) }

/-- Entries of a table. -/
def tableAt (file : List Byte) (at_ count size : Nat) : List (List Byte) :=
  (upto 0 count).map fun i => (file.drop (at_ + i * size)).take size

/-- The object that a file holds; none without the magic and version of R116. -/
def readBibex (file : List Byte) : Option BibexObject :=
  if file.take 4 = [0x42, 0x49, 0x42, 0x58] ∧ bibexField file 4 2 = 1 then
    some { sections := (tableAt file (bibexField file 24 8) (bibexField file 8 4) 32).map (sectionOf file)
           symbols := (tableAt file (bibexField file 32 8) (bibexField file 12 4) 24).map symbolOf
           relocs := (tableAt file (bibexField file 40 8) (bibexField file 16 4) 32).map relocOf
           strings := (file.drop (bibexField file 48 8)).take (bibexField file 56 8) }
  else none

/-- Bytes of a relocation type's site; none for a type that R117 does not name. -/
def siteBytes (type : Nat) : Option Nat :=
  match type with
  | 1 => some 8
  | 2 => some 4
  | 3 => some 4
  | 4 => some 4
  | _ => none

/-- What is written at a site that holds `old`, for S + A and P; none where it does not fit (R117). -/
def relocated (type : Nat) (sa p : Int) (old : Nat) : Option Nat :=
  match type with
  | 1 => some (wrapInt 64 sa)
  | 2 => if -(2 ^ 31 : Int) ≤ sa ∧ sa ≤ 2 ^ 32 - 1 then some (wrapInt 32 sa) else none
  | 3 =>
    let d := sa - p
    if d % 4 = 0 ∧ -(2 ^ 19 : Int) ≤ d / 4 ∧ d / 4 ≤ 2 ^ 19 - 1 then some (setNbits old 0 20 (wrapInt 20 (d / 4))) else none
  | 4 => if -128 ≤ sa ∧ sa ≤ 127 then some (setNbits old 0 8 (wrapInt 8 sa)) else none
  | _ => none

/-- A symbol's value with the sections placed at `base`: none where it is undefined. The eight bytes of an absolute one are
read as signed (log 55). -/
def symbolValue (base : List Nat) (s : BibexSymbol) : Option Int :=
  match s.place with
  | none => none
  | some none => some (sval 64 s.value)
  | some (some i) => (base[i]?).map fun b => ((b + s.value : Nat) : Int)

/-- Apply one relocation to the sections' bytes; none for each case of R118. -/
def relocateOne (base : List Nat) (symbols : List BibexSymbol) (mem : List (List Byte)) (r : BibexReloc) :
    Option (List (List Byte)) :=
  match siteBytes r.type, mem[r.section_]?, base[r.section_]?, symbols[r.symbol]?.bind (symbolValue base) with
  | some n, some l, some b, some v =>
    if r.offset + n ≤ l.length then
      (relocated r.type (v + r.addend) ((b + r.offset : Nat) : Int) (ofBytes ((l.drop r.offset).take n))).map fun w =>
        mem.set r.section_ (l.take r.offset ++ bytesOf n w ++ l.drop (r.offset + n))
    else none
  | _, _, _, _ => none

/-- Relocate in order; the relocation that fails is what RELOC_RANGE names (R118). -/
def relocateFrom (base : List Nat) (symbols : List BibexSymbol) : List BibexReloc → List (List Byte) →
    Except BibexReloc (List (List Byte))
  | [], mem => .ok mem
  | r :: l, mem =>
    match relocateOne base symbols mem r with
    | none => .error r
    | some m => relocateFrom base symbols l m

/-- Load an object at section addresses: every section's bytes, or the relocation for which all of it is rejected with
RELOC_RANGE (R118). -/
def loadObject (base : List Nat) (o : BibexObject) : Except BibexReloc (List (List Byte)) :=
  relocateFrom base o.symbols o.relocs (o.sections.map (·.bytes))

end Sys2Proof.Machine
end

