-- ==== Sys2Proof/Tests/Slice0.lean ====
section
/-! SUPPORT. Tests: ill-formed terms that the checks refuse, words written out from the spec's encodings, single steps
with results worked out from the spec, and for every statement states and operands that meet its hypotheses. -/

namespace Sys2Proof.Tests

open Sys2Proof Sys2Proof.Machine

/-- A leaf that maps a page of the device's own memory onto itself with every right (02 R35). -/
def leaf : DWord := 0x1F

/-- A nest at 0x1000 with TRIP 2: CTL has its prologue at +0, kernel at +4, epilogue at +12 and trap entry at +16. -/
def aNest : NestRec :=
  { code := 0x1000, trip := 2, entry := [0, 1, 3, 4, 8, 8, 9, 4, 16, 16, 17, 4, 24, 24, 25, 4], ends := [10, 18, 26] }

def aRegion : Region :=
  { valid := true, cores := 8, spTile := 0x20_0000, verBytes := 0x1_0000, yieldDl := 20000, saveSlots := 4, chain := [0]
    leaseBytes := 0x10_0000, watchdog := 1000 }

def aTile : Tile := { nrec := aNest, reg := aRegion }

def aCore : Core :=
  { tile := some aTile
    ctl := { pc := 0x1004, stage := .kernel, run := .running }
    ld := { pc := 0x1020, stage := .kernel, run := .running }
    cmp := { pc := 0x1040, stage := .kernel, run := .running }
    st := { pc := 0x1060, stage := .kernel, run := .running } }

/-- Core 0 in a state, its cluster holding a translation of the first GiB. -/
def on (k : Core) : State := { cores := [(0, k)], clusters := [(0, { tlb1 := [⟨0, 3, 0, leaf⟩] })] }

/-- Core 0 with scalar registers. -/
def regs (l : List (Nat × DWord)) : State := on { aCore with s := l }

/-- The turn of another sequencer. -/
def turnOf (q : Seq) (s : State) : State := { s with sq := q }

/-- An event with an argument. -/
def evt (e : EvArg) (s : State) : State := { s with ev := e }

/-- An outcome's state, where there is one. -/
def nextOf : Host.Outcome State Fault Refusal → State
  | .next t => t
  | _ => {}

/-- An action's result that is no stop, and of which something is true. -/
def okThen {α : Type} (p : α → State → Bool) (r : EStateM.Result Stop State α) : Bool :=
  match r with
  | .ok a u => p a u
  | .error _ _ => false

theorem okThen_spec {α : Type} {p : α → State → Bool} {r : EStateM.Result Stop State α} (h : okThen p r = true) :
    ∃ a u, r = .ok a u ∧ p a u = true := by
  cases r with
  | ok a u => exact ⟨a, u, rfl, h⟩
  | error e u => cases h

theorem ok_unit {r : EStateM.Result Stop State Unit} (h : okThen (fun _ _ => true) r = true) : ∃ u, r = .ok () u :=
  let ⟨_, u, e, _⟩ := okThen_spec h
  ⟨u, e⟩

theorem ok_unit_and {p : State → Prop} [DecidablePred p] {r : EStateM.Result Stop State Unit}
    (h : okThen (fun _ u => decide (p u)) r = true) : ∃ u, r = .ok () u ∧ p u :=
  let ⟨_, u, e, hp⟩ := okThen_spec h
  ⟨u, e, of_decide_eq_true hp⟩

theorem ok_val {α : Type} {r : EStateM.Result Stop State α} (h : okThen (fun _ _ => true) r = true) : ∃ a u, r = .ok a u :=
  let ⟨a, u, e, _⟩ := okThen_spec h
  ⟨a, u, e⟩

theorem ok_ok {α ε : Type} {r : EStateM.Result Stop State (Except ε α)} (h : okThen (fun x _ => x.isOk) r = true) :
    ∃ a u, r = .ok (.ok a) u := by
  obtain ⟨x, u, e, hx⟩ := okThen_spec h
  cases x with
  | ok a => exact ⟨a, u, e⟩
  | error e => cases hx

theorem ok_done {ε : Type} {r : EStateM.Result Stop State (Except ε Unit)} (h : okThen (fun x _ => x.isOk) r = true) :
    ∃ u, r = .ok (.ok ()) u :=
  let ⟨_, u, e⟩ := ok_ok h
  ⟨u, e⟩

theorem ok_error {α ε : Type} [DecidableEq ε] {r : EStateM.Result Stop State (Except ε α)} (y : ε)
    (h : okThen (fun x _ => match x with
      | .ok _ => false
      | .error z => z = y) r = true) : ∃ u, r = .ok (.error y) u := by
  obtain ⟨x, u, e, hx⟩ := okThen_spec h
  cases x with
  | ok a => cases hx
  | error z => exact ⟨u, by rw [e, of_decide_eq_true hx]⟩

/-- Core 0 whose tile has other limits. -/
def limited (f : Region → Region) : Core := { aCore with tile := some { aTile with reg := f aRegion } }
/-- Three tokens for CTL from LD, 254 from CTL to LD. -/
def tokenCore : Core := (aCore.setTokens .ld .ctl 3).setTokens .ctl .ld 254
/-- Window descriptors: the last chunk of the scratchpad in MQ mode with 64-byte entries, and in RW mode. -/
def mqDesc : QWord := (511 : QWord) <<< 13 ||| (1 : QWord) <<< 22 ||| 3
def rwDesc : QWord := (511 : QWord) <<< 13 ||| (1 : QWord) <<< 22 ||| 1

/-- Core 0 in trap mode for a condition of sequencer `n`, to return to 0x100C. -/
def inTrap (n : Nat) : Core := { aCore with trap := { mode := true, seq := n, ret := 0x100C } }

/-- Core 0 whose LD, CMP and ST have completed. -/
def ending : Core :=
  { aCore with
    ctl := { aCore.ctl with stage := .epilogue }
    ld := { stage := .complete }, cmp := { stage := .complete }, st := { stage := .complete } }

/-- Region 0, valid, with rights of a supervisor, for nine tiles, priority 1 and at most 15. -/
def aBlock : RegionBlock := { flags := 3, prio := 0xF1, cores := 9, saveSlots := 4, spTile := 0x20_0000, verBytes := 0x1_0000 }

/-- The scheduler with one nest of two tiles in slot 0. -/
def aSlot : NestSlot := { inc := 1, used := true, nrec := { aNest with ext := [2] } }
def sched (n : NestSlot) (s : State) : State := { s with ns := { s.ns with en := true, regions := [(0, aBlock)], slots := [(0, n)] } }

/-- A nest record of one tile without code: only ORDER and the extent of dimension 0 are not zero. -/
def aRecord : List Byte := [0, 0, 0xE4] ++ bytesOf 61 0 ++ [1] ++ bytesOf 63 0

/-- Page tables at 0x10000 whose only leaf maps the first GiB onto itself (02 R34, R35). -/
def tables : SMap Byte := [(0x1_0000, 1), (0x1_0002, 2), (0x2_0000, 1), (0x2_0002, 3), (0x3_0000, 0x1F)]
def mapped (s : State) : State :=
  { s with m := { s.m with mem := tables }, ns := { s.ns with regions := [(0, { aBlock with xroot := 0x1_0000 })] } }

/-- A window of core 1 in MQ mode, with 63 entries of 64 bytes, all free. -/
def mqWindow : Window := { desc := mqDesc, mq := { n := 63, esz := 64 } }

/-! Words written out from the spec's encodings (04 R94, R98, R107, R293, R326) and its worked examples. -/

theorem test_decode_integer :
    decodeWord .ctl 0x0000_411C 0 = ⟨0, .add ⟨1, 1, 7⟩, false⟩ ∧ decodeWord .ctl 0x0000_411D 0 = ⟨0, .sub ⟨1, 1, 7⟩, false⟩ ∧
    decodeWord .ctl 0x3401_C000 0xA = ⟨0, .li ⟨7, 0, 0, 0xA⟩, false⟩ ∧ decodeWord .ctl 0x1801_C7FF 0 = ⟨0, .addi ⟨7, 7, 0xFF⟩, false⟩ := by
  decide

theorem test_decode_control : decodeWord .ctl 0x683F_FFFC 0 = ⟨3, .br ⟨0xF_FFFC⟩, false⟩ ∧ decodeWord .ctl 0x5C00_C701 0 = ⟨0, .cmpiNe ⟨3, 7, 0, 0⟩, false⟩ := by
  decide

theorem test_decode_unassigned : (decodeWord .ctl 0xFC00_0000 0).i.isIllegal = true ∧ (decodeWord .ctl 0x0000_4106 0).i = .min ⟨1, 1, 1⟩ ∧
    (decodeWord .ctl 0x0400_4106 0).i.isIllegal = true := by
  decide

theorem test_decode_reserved_bits : (decodeWord .ctl 0xE400_0001 0).resv = true := by decide

theorem test_decode_commands :
    decodeWord .ctl 0xE800_1804 0x1200_0000 = ⟨0, .cpyt ⟨0, 24, 4, 0⟩, false⟩ ∧
    decodeWord .ctl 0xE808_0000 0x241F_1005 = ⟨0, .qread ⟨32, 0, 0, 0x1F1005⟩, false⟩ ∧
    decodeWord .ctl 0xE800_4200 0x3000_0004 = ⟨0, .rlook ⟨1, 2, 0, 4⟩, false⟩ ∧
    decodeWord .ctl 0xE800_4201 0x4000_0000 = ⟨0, .sqopenClose ⟨1, 2, 1, 0⟩, false⟩ ∧
    decodeWord .ctl 0xE800_4200 0x5000_0003 = ⟨0, .prel ⟨1, 2, 0, 3⟩, false⟩ := by
  decide

theorem test_decode_load_stream :
    decodeWord .ld 0x1C01_0C00 0 = ⟨0, .nli ⟨4, 12, 0, 0⟩, false⟩ ∧ decodeWord .ld 0x0000_8110 0 = ⟨0, .sbindLd ⟨2, 1, 4, 0⟩, false⟩ := by
  decide

theorem test_decode_store_stream :
    decodeWord .st 0x280B_083D 0 = ⟨0, .ncmpNe ⟨44, 8, 15⟩, false⟩ ∧ decodeWord .st 0x8C00_0001 0 = ⟨0, .tkpost ⟨0, 0, 1⟩, false⟩ ∧
    decodeWord .st 0x300F_FFF8 0 = ⟨0, .nbr ⟨0xF_FFF8⟩, false⟩ := by
  decide

theorem test_decode_bundle :
    decodeBundle 0xC002_18C0 [0, 0x0400_0000] =
      .issueBundle ⟨0, 0, 2, 0, 3, 0, 1, 1, 0⟩ (some ⟨0, 0, 0, 0, 0⟩) (some ⟨1, 0, 0, 0, 0⟩) none none ∧
    decodeBundle 0 [] = .emptyBundle ⟨0, 0, 0, 0, 0, 0, 0, 0, 0⟩ := by
  decide

theorem test_decode_templates :
    decodeV .a 0x2E00_0040_D000_0000_0008_FE80_0000_0000 =
      some (.vpen ⟨.a, { dst := 0, sa := 0, sb := 1, sc := 0, fmt := 0xD, rm := 0, sat := 0, mask := 0, pk := 0, std := 0,
                         sta := 0, stb := 0, stc := 0, aux := 2, imm := 0x3FA0_0000, rsv := 0 }⟩) ∧
    (decodeM 0x2100_0000_2641_8000_0000_0000_0020_0000).isSome = true := by
  decide

theorem test_table_word : decodeTableWord 64 0x0000_000A_3401_C000 = some (.li ⟨7, 0, 0, 0xA⟩) ∧ decodeTableWord 32 0xFC00_0000 = none := by
  decide

/-! Ill-formed terms, one for each check. -/

theorem test_ill_formed_told_apart :
    wellFormed .ctl (.msendP ⟨0, 1, 1, 5⟩) = false ∧ wellFormed .ctl (.rpolCat ⟨1, 1, 0, 0⟩) = false ∧
    wellFormed .ctl (.sqopen ⟨1, 1, 1, 0⟩) = false ∧ wellFormed .ctl (.sqcurPlay ⟨1, 1, 0, 0⟩) = false ∧
    wellFormed .cmp (.issueBundle ⟨0, 0, 0, 0, 0, 0, 0, 0, 0⟩ none none none none) = false := by
  decide

theorem test_ill_formed_fields :
    wellFormed .ctl (.shli ⟨1, 1, 64⟩) = false ∧ wellFormed .ctl (.li ⟨1, 1, 0, 0⟩) = false ∧ wellFormed .ctl (.pset ⟨24, 0, 1⟩) = false ∧
    wellFormed .ctl (.bfx ⟨1, 1, 0, 0x3F01⟩) = false ∧ wellFormed .ctl (.rlook ⟨1, 0, 0, 5⟩) = false ∧
    wellFormed .ctl (.prel ⟨1, 1, 1, 0⟩) = false ∧ wellFormed .ctl (.qwait ⟨1, 1, 24, 0⟩) = false := by
  decide

theorem test_ill_formed_template :
    let t : VTmpl := { dst := 0, sa := 0, sb := 0, sc := 0, fmt := 0xD, rm := 0, sat := 0, mask := 0, pk := 0, std := 0, sta := 0, stb := 0, stc := 0,
                       aux := 0, imm := 0, rsv := 1 }
    wellFormed .cmp (.vadd ⟨.a, t⟩) = false ∧ wellFormed .cmp (.vadd ⟨.a, { t with rsv := 0 }⟩) = true := by
  decide

theorem test_well_formed : wellFormed .ctl (.shli ⟨1, 1, 63⟩) = true ∧ wellFormed .ctl (.bfx ⟨1, 1, 0, 0x3F00⟩) = true := by decide

/-! Single steps. Expected values are the spec's examples or worked out by hand from its rules. -/

/-- S of core 0 after CTL executes an instruction with S1 and S2 given. -/
def sAfter (i : Instr) (d : Nat) (a b : DWord) : DWord := (nextOf (exec i (regs [(1, a), (2, b)]))).here.sreg d

theorem test_add_wraps : sAfter (.add ⟨3, 1, 2⟩) 3 (0 - 1) 2 = 1 := by decide
theorem test_sub_borrows : sAfter (.sub ⟨1, 1, 2⟩) 1 0 1 = 0 - 1 := by decide
theorem test_min_signed : sAfter (.min ⟨3, 1, 2⟩) 3 (0 - 1) 1 = 0 - 1 ∧ sAfter (.minu ⟨3, 1, 2⟩) 3 (0 - 1) 1 = 1 := by decide
theorem test_sar_keeps_sign : sAfter (.sar ⟨3, 1, 2⟩) 3 (0 - 8) 65 = 0 - 4 := by decide
theorem test_ror : sAfter (.ror ⟨3, 1, 2⟩) 3 1 1 = 0x8000_0000_0000_0000 := by decide
theorem test_mulh : sAfter (.mulh ⟨3, 1, 2⟩) 3 (0 - 1) (0 - 1) = 0 ∧ sAfter (.mulhu ⟨3, 1, 2⟩) 3 (0 - 1) (0 - 1) = 0 - 2 := by decide
theorem test_div_example : sAfter (.div ⟨3, 1, 2⟩) 3 (0 - 7) 2 = 0 - 3 ∧ sAfter (.rem ⟨3, 1, 2⟩) 3 (0 - 7) 2 = 0 - 1 := by decide
theorem test_div_by_zero : sAfter (.divu ⟨3, 1, 2⟩) 3 7 0 = 0 - 1 ∧ sAfter (.remu ⟨3, 1, 2⟩) 3 7 0 = 7 := by decide
theorem test_lih_example : sAfter (.lih ⟨3, 1, 0, 0x9A⟩) 3 0x1234_5678 0 = 0x9A_1234_5678 := by decide
theorem test_bfx_sign : sAfter (.bfx ⟨3, 1, 0, 0x0304⟩) 3 0xF0 0 = 0 - 1 ∧ sAfter (.bfxu ⟨3, 1, 0, 0x0304⟩) 3 0xF0 0 = 0xF := by decide
theorem test_s0_discards : sAfter (.add ⟨0, 1, 2⟩) 0 1 2 = 0 := by decide
theorem test_clz_zero : sAfter (.clz ⟨3, 1, 0⟩) 3 0 0 = 64 := by decide

theorem test_cmp_signed : (nextOf (exec (.cmpLt ⟨3, 1, 2⟩) (regs [(1, 0 - 1), (2, 0)]))).here.preg 3 = true ∧
    (nextOf (exec (.cmpLtu ⟨3, 1, 2⟩) (regs [(1, 0 - 1), (2, 0)]))).here.preg 3 = false := by decide

theorem test_br_back : (nextOf (exec (.br ⟨0xF_FFFC⟩) (on aCore))).here.ctl.pc = 0xFF4 := by decide

theorem test_shli_reserved : (nextOf (exec (.shli ⟨3, 1, 64⟩) (on aCore))).here.trap.mode = true ∧
    (nextOf (exec (.shli ⟨3, 1, 64⟩) (on aCore))).here.trap.ret = 0x1004 := by decide

theorem test_false_guard_skips :
    let s := mapped (on aCore)
    let s : State := { s with m := { s.m with mem := [(0x1004, 0x1C), (0x1005, 0x41), (0x1006, 0x10)] ++ tables } }
    (nextOf (turn 0 .ctl s)).here.ctl.pc = 0x1008 ∧ (nextOf (turn 0 .ctl s)).here.sreg 1 = 0 := by decide +kernel

/-! Decoding and the step. -/

theorem wit_decodeInvertsEncode : (toldApart (.add ⟨1, 2, 3⟩) = true ∧ isEvent (.add ⟨1, 2, 3⟩) = false) ∧
    toldApart .coldReset = true ∧ isEvent .coldReset = true := by decide

/-- A NOP, an LI with its extension word, and a bundle, where the sequencers stand. -/
def codeMem : SMap Byte := [(0x1007, 0xE4), (0x1022, 0x01), (0x1023, 0x1C), (0x1024, 0x05)]
def withCode (s : State) : State := { s with m := { s.m with mem := codeMem } }

theorem wit_turnRunsDecoded :
    (let s0 := (withCode (on aCore)).tick
     s0.agenda = [] ∧ canRun s0.here s0.sq = true ∧ heldDue s0.here s0.sq = false ∧
     ¬(s0.sq = .ctl ∧ s0.here.trap.mode = false ∧ s0.here.trap.pend ≠ 0) ∧ s0.sq ≠ .cmp ∧ (∃ u, fetchWord s0.core (s0.here.seq s0.sq).pc s0 = .ok 0xE400_0000 u) ∧
     hasExt (strmOf s0.sq) 0xE400_0000 = false) ∧
    (let s0 := (turnOf .ld (withCode (on aCore))).tick
     s0.agenda = [] ∧ canRun s0.here s0.sq = true ∧ heldDue s0.here s0.sq = false ∧ s0.sq ≠ .cmp ∧
     (∃ u, fetchWord s0.core (s0.here.seq s0.sq).pc s0 = .ok 0x1C01_0000 u ∧ hasExt (strmOf s0.sq) 0x1C01_0000 = true ∧
       ∃ v, fetchWord s0.core ((s0.here.seq s0.sq).pc + 4) u = .ok 5 v)) ∧
    (let s0 := (turnOf .cmp (withCode (on aCore))).tick
     s0.agenda = [] ∧ canRun s0.here s0.sq = true ∧ heldDue s0.here s0.sq = false ∧ replaying s0.core s0 = none ∧
     ∃ i n u, fetchBundle s0.core (s0.here.seq s0.sq).pc s0 = .ok (.bundle i n) u) ∧
    (let b : Binding := { kind := .once, shape := {}, org := [], held := some ⟨.xlateNotPresent, 0x3000, 0, 0, false⟩ }
     let s0 := (turnOf .ld (withCode (on { aCore with lds := { binds := [(2, b)] } }))).tick
     s0.agenda = [] ∧ canRun s0.here s0.sq = true ∧ heldDue s0.here s0.sq = true) :=
  ⟨⟨by decide, by decide, by decide, by decide, by decide, ⟨_, rfl⟩, by decide⟩,
   ⟨by decide, by decide, by decide, by decide, ⟨_, rfl, by decide, ⟨_, rfl⟩⟩⟩,
   ⟨by decide, by decide, by decide, by decide, _, _, _, rfl⟩, by decide, by decide, by decide⟩

theorem wit_fetchReadsCommittedBytes :
    (let s := withCode (on aCore)
     (s.coreOf 0).tile = some aTile ∧ ∃ u, translate (aTile.reg.ctx (some (clusterOf 0))) .exec (0x1004 : DWord).toNat s =
       .ok 0x1004 u ∧ u.m.poison.contains (0x1004 / 128) = false) ∧
    (let s : State := { on aCore with m := { poison := [32] } }
     (s.coreOf 0).tile = some aTile ∧ ∃ u, translate (aTile.reg.ctx (some (clusterOf 0))) .exec (0x1004 : DWord).toNat s =
       .ok 0x1004 u ∧ u.m.poison.contains (0x1004 / 128) = true) :=
  ⟨⟨rfl, _, rfl, by decide⟩, rfl, _, rfl, by decide⟩

theorem wit_agendaRunsEvents :
    (let s : State := { agenda := [.event .shadowFull {}] }
     s.tick.agenda = .event .shadowFull {} :: [] ∧ s.tick.off = false) ∧
    (let s : State := { off := true, agenda := [.event .coldReset {}, .ticks 1] }
     s.tick.agenda = .event .coldReset {} :: [.ticks 1]) ∧
    (let s : State := { off := true, agenda := [.event .shadowFull {}] }
     s.tick.agenda = .event .shadowFull {} :: [] ∧ s.tick.off = true ∧ Instr.shadowFull ≠ .coldReset) := by
  refine ⟨⟨rfl, rfl⟩, rfl, rfl, rfl, by decide⟩

theorem wit_guardDecides :
    Instr.isIllegal (decodeWord .ctl 0xFC00_0000 0).i = true ∧
    (let d := decodeWord .ctl 0x02F0_0000 0
     d.i.isIllegal = false ∧ d.g.toNat = 47 ∧ d.resv = false ∧ fieldsOk .ctl d.i = true ∧ (on aCore).here.preg d.g.toNat = false) ∧
    (let d := decodeWord .ctl 0x0300_0000 0
     d.i.isIllegal = false ∧ d.g.toNat = 48) ∧
    (let d := decodeWord .ctl 0x0000_0000 0
     d.i.isIllegal = false ∧ d.g.toNat < 48 ∧ d.resv = false ∧ fieldsOk .ctl d.i = true ∧ (on aCore).here.preg d.g.toNat = true) ∧
    (let d := decodeWord .ctl 0x2C00_0040 0
     d.i.isIllegal = false ∧ fieldsOk .ctl d.i = false) := by decide

theorem wit_stepKeepsMemoryCanonical : MemCanonical (withCode (on aCore)) ∧ ∃ t, step (withCode (on aCore)) = .next t :=
  ⟨rfl, _, rfl⟩

theorem wit_snapshotReadsAreStable : 0 ∈ openStarts (on aCore) ∧ later 0 (((on aCore).m.pubCount + 1) % 2 ^ 48) = true ∧
    (let s : State := { cores := [(0, { aCore with tile := some { aTile with start := 2 } })], m := { pubCount := 2 ^ 47 } }
     2 ∈ openStarts s ∧ later 2 ((s.m.pubCount + 1) % 2 ^ 48) = true) := by decide

/-! Registers of CTL. -/

theorem wit_divisionCorners :
    (let s := regs [(1, 7)]
     s.here.sreg 2 = 0) ∧
    (let s := regs [(1, 1 <<< 63), (2, 0 - 1)]
     s.here.sreg 2 ≠ 0 ∧ (s.here.sreg 1).toInt = -2 ^ 63 ∧ (s.here.sreg 2).toInt = -1) ∧
    (let s := regs [(1, 1 <<< 63), (2, 1)]
     s.here.sreg 2 ≠ 0 ∧ ¬((s.here.sreg 1).toInt = -2 ^ 63 ∧ (s.here.sreg 2).toInt = -1)) := by decide

theorem wit_bitCounts : (⟨1, 2, 0⟩ : R3).b = 0 := by decide

theorem wit_ctlImmediateResults : (63 : BitVec 8).toNat < 64 ∧ 64 ≤ (64 : BitVec 8).toNat ∧ (1 : BitVec 6) ≠ 0 := by decide

/-- A field of one bit at 63, one of 64 bits, and the first that passes bit 63. -/
theorem wit_ctlFieldResults :
    (let ext : Word := 0x003F
     bits ext 6 2 = 0 ∧ bits ext 14 18 = 0 ∧ ext.toNat % 64 + (ext.toNat / 256 % 64 + 1) = 64) ∧
    (let ext : Word := 0x3F00
     bits ext 6 2 = 0 ∧ bits ext 14 18 = 0 ∧ ext.toNat % 64 + (ext.toNat / 256 % 64 + 1) = 64) ∧
    (let ext : Word := 0x3F01
     ¬ext.toNat % 64 + (ext.toNat / 256 % 64 + 1) ≤ 64) ∧
    (bits (63 : BitVec 8) 6 2 = 0 ∧ (47 : Word).toNat < 48) ∧ bits (64 : BitVec 8) 6 2 ≠ 0 ∧ 48 ≤ (48 : Word).toNat := by decide

theorem wit_ctlPredicateResults :
    (1 ≤ (23 : BitVec 6).toNat ∧ (23 : BitVec 6).toNat ≤ 23 ∧ ¬(24 : BitVec 6).toNat ≤ 23) ∧
    (1 : BitVec 8).toNat < 2 ∧ 2 ≤ (2 : BitVec 8).toNat ∧ (47 : BitVec 6).toNat < 48 := by decide

/-- A target that is a multiple of 4, and one that is not. -/
theorem wit_ctlBranchResults :
    ((on aCore).here.ctl.pc + ((0xF_FFFF : BitVec 20).signExtend 64) <<< 2).toNat % 4 = 0 ∧
    ((regs [(1, 0x1002)]).here.sreg 1).toNat % 4 ≠ 0 := by decide

theorem wit_loopCountsDown :
    ((regs [(1, 1)]).here.sreg 1).toNat ≤ 1 ∧
    (1 < ((regs [(1, 2)]).here.sreg 1).toNat ∧ ((regs []).here.ctl.pc + (0xFFFF_FFF8 : Word).signExtend 64).toNat % 4 = 0) ∧
    ((regs []).here.ctl.pc + (2 : Word).signExtend 64).toNat % 4 ≠ 0 := by decide

theorem wit_ctlRegisterFrame :
    (let s := regs [(2, 5), (3, 6)]
     s.here.tile.isSome = true ∧ (∃ t, exec (.add ⟨1, 2, 3⟩) s = .next t ∧ NoTrap s.core s t) ∧
     scalarDest (.add ⟨1, 2, 3⟩) = some 1 ∧
     (∃ t, exec (.cmpLt ⟨23, 2, 3⟩) s = .next t ∧ NoTrap s.core s t) ∧ predicateDest (.cmpLt ⟨23, 2, 3⟩) = some 23) :=
  ⟨rfl, ⟨_, rfl, rfl, rfl⟩, rfl, ⟨_, rfl, rfl, rfl⟩, rfl⟩

theorem wit_scalarAndPredicateRegisters : 47 < 48 ∧ (47 : Nat) ≠ 0 := by decide


/-! Memory and scratchpad. -/


theorem wit_ldsCompletes :
    (let s := regs [(1, 0x2000)]
     let o : RL := ⟨2, 1, 0x03, 8⟩
     s.here.tile = some aTile ∧ fieldsOk .ctl (.lds o) = true ∧ (s.here.sreg o.a.toNat + o.ext.signExtend 64).toNat % 8 = 0 ∧
     ∃ l s', loadBytes s.core 0x2008 8 s = .ok l s') ∧
    (let s := regs [(1, 0x1F_FFFF)]
     let o : RL := ⟨2, 1, 0x08, 0⟩
     fieldsOk .ctl (.lds o) = true ∧ (s.here.sreg o.a.toNat + o.ext.signExtend 64).toNat % 1 = 0 ∧
     ∃ l s', spLoad s.core 0x1F_FFFF 1 s = .ok l s') ∧
    (let s := on (limited fun r => { r with supv := true })
     let o : RL := ⟨2, 0, 0x12, 4⟩
     fieldsOk .ctl (.lds o) = true ∧ (limited fun r => { r with supv := true }).tile.map (·.reg.supv) = some true ∧
     (4 : Nat) < Config.expertBytes ∧ s.m.xsPoison.contains (4 / 128) = false) :=
  ⟨⟨rfl, by decide, by decide, _, _, rfl⟩, ⟨by decide, by decide, _, _, rfl⟩, by decide, rfl, by decide, rfl⟩

theorem wit_stsCompletes :
    (let s := regs [(1, 0x2000), (2, 0x1234)]
     let o : RL := ⟨2, 1, 0x01, 2⟩
     fieldsOk .ctl (.sts o) = true ∧ (s.here.sreg o.a.toNat + o.ext.signExtend 64).toNat % 2 = 0 ∧
     ∃ s', storeBytes s.core 0x2002 [0x34, 0x12] s = .ok () s') ∧
    (let s := regs [(1, 0x20), (2, 0x1234)]
     let o : RL := ⟨2, 1, 0x09, 2⟩
     fieldsOk .ctl (.sts o) = true ∧ ∃ s', spStore s.core 0x22 [0x34, 0x12] s = .ok () s') :=
  ⟨⟨by decide, by decide, ok_unit (by decide)⟩, by decide, _, rfl⟩

theorem wit_loadReturnsOwnWriteOrSnapshot :
    (∃ s', translate (aTile.reg.ctx (some (clusterOf 0))) .read 0x2000 (on aCore) = .ok 0x2000 s') ∧
    (on aCore).m.view aTile.start aTile.reg.asid 0x2000 0x2000 = 0x2000 ∧ 0x2000 + 2 ≤ 2 ^ 56 ∧
    ∀ a, 0x2000 ≤ a → a < 0x2000 + 2 → (on aCore).m.shadows.contains (a / 0x1_0000) = false ∧
      ((SMap.find aTile.ver.bytes a).isSome = true ∨ (on aCore).m.poisonedAt aTile.start a = false) :=
  ⟨⟨_, rfl⟩, rfl, by decide, fun _ _ _ => ⟨rfl, .inr (by simp [Memory.poisonedAt, on])⟩⟩

/-- A byte that the phase keeps, and one that the tile has written in a poisoned sector. -/
theorem wit_loadReturnsWhatThePhaseKeeps :
    let t : Tile := { aTile with seen := [(0x2000, 7)], ver := { bytes := [(0x2001, 8)] } }
    let s : State := { on { aCore with tile := some t } with m := { poison := [0x2080 / 128] } }
    ∃ s', translate (t.reg.ctx (some (clusterOf 0))) .read 0x2000 s = .ok 0x2000 s' ∧
      s.m.poisonedAt t.start 0x2000 = false ∧ (SMap.find t.seen 0x2000).isSome = true ∧
      (SMap.find t.ver.bytes 0x2001).isSome = true :=
  ⟨_, rfl, by decide, by decide, by decide⟩

/-- Saved tiles of region 1 whose open versions all hold one line: as many copies of it as the lines of all L2. -/
def fullL2 : State :=
  let t : Tile := { aTile with reg := { aRegion with id := 1 }, ver := { bytes := [(0x2000, 1)] } }
  let x : Saved := { kind := .yield, base := 0, slot := 0, nid := 0, ord := 0, core := { tile := some t } }
  { on aCore with ns := { saved := List.replicate 393216 x } }

theorem slices_sum (f : Nat → Nat) :
    ((upto 0 Config.l2Slices).map f).sum = f 0 + (f 1 + (f 2 + (f 3 + (f 4 + (f 5 + (f 6 + (f 7 + (f 8 +
    (f 9 + (f 10 + (f 11 + (f 12 + (f 13 + (f 14 + (f 15 + 0))))))))))))))) := rfl
theorem slices_one (n l m : Nat) (f : Nat → Nat) (hm : m < 16) (h : ∀ i, f i = (if m = i then n else 0) - l) :
    ((upto 0 Config.l2Slices).map f).sum = n - l := by
  rw [slices_sum]
  simp only [h]
  rcases (by omega : m = 0 ∨ m = 1 ∨ m = 2 ∨ m = 3 ∨ m = 4 ∨ m = 5 ∨ m = 6 ∨ m = 7 ∨ m = 8 ∨ m = 9 ∨ m = 10 ∨ m = 11 ∨ m = 12 ∨
    m = 13 ∨ m = 14 ∨ m = 15) with h | h | h | h | h | h | h | h | h | h | h | h | h | h | h | h <;> subst h <;> simp
/-- Whichever slice holds the line, it takes all the copies. -/
theorem overSlices_replicate (n x : Nat) : overSlices (List.replicate n x) = n - Config.l2SliceLines := by
  refine slices_one n _ _ _ (Config.l2Slice x).isLt fun i => ?_
  rw [List.filter_replicate]; split <;> simp_all

theorem fullL2_spill (k : Core) (t : Tile) (n : Nat) (h : k.tile = some t) (hn : linesOf t.ver.bytes = List.replicate n 32) :
    overflowBytes (fullL2.setCore 0 k) = (n + 393216 - Config.l2SliceLines) * 256 := by
  have hl : linesOf [(0x2000, (1 : Byte))] = [32] := by decide
  have hs : openLines (fullL2.setCore 0 k) = List.replicate (n + 393216) 32 := by
    have hc : (fullL2.setCore 0 k).cores = [(0, k)] := rfl
    have hm : (fullL2.setCore 0 k).m = {} := rfl
    have hn' : (fullL2.setCore 0 k).ns.saved = fullL2.ns.saved := rfl
    have hf : ∀ m, (List.replicate m [32]).flatten = List.replicate m 32 := by
      intro m; induction m with
      | zero => rfl
      | succ m ih => rw [List.replicate_succ, List.flatten_cons, ih]; rfl
    rw [openLines, openTiles, hc, hm, hn', fullL2]
    simp only [List.filterMap_cons, h, List.filterMap_nil, List.filterMap_replicate, List.flatMap_append, List.flatMap_cons,
      List.flatMap_nil, List.flatMap_replicate, hl, hn, hf, List.eraseDups_nil, List.append_nil, List.replicate_append_replicate]
  have hr : retainedBytes (fullL2.setCore 0 k).m = 0 := rfl
  have hg : ¬ n + 393216 ≤ Config.l2SliceLines := by simp only [Config.l2SliceLines]; omega
  rw [overflowBytes, spillBytes, hs, overSlices_replicate, List.length_replicate, if_neg hg, hr]
  omega

/-- A sector more fits exactly, and does not fit in a byte less; with L2 full and no overflow area there is no room. -/
theorem wit_storeGoesToTheOpenVersion :
    (let k := limited fun r => { r with verBytes := 128 }
     let t := k.tile.getD {}
     let bytes := (placed 0x2000 [1]).foldl (fun b e => SMap.put b e.1 e.2) t.ver.bytes
     ∃ s', translate (t.reg.ctx (some (clusterOf 0))) .write 0x2000 (on k) = .ok 0x2000 s' ∧
       (on k).m.view t.start t.reg.asid 0x2000 0x2000 = 0x2000 ∧
       (verSectors { t.ver with bytes := bytes } - verSectors t.ver) * 128 = 128 ∧
       regionVerBytes s' t.reg.id + 128 ≤ t.reg.verBytes ∧
       overflowAllows s' (s'.updCore 0 fun k => { k with tile := some { t with ver := { t.ver with bytes := bytes } } }) = true) ∧
    (let k := limited fun r => { r with verBytes := 127 }
     let t := k.tile.getD {}
     ∃ s', translate (t.reg.ctx (some (clusterOf 0))) .write 0x2000 (on k) = .ok 0x2000 s' ∧
       ¬regionVerBytes s' t.reg.id + 128 ≤ t.reg.verBytes) ∧
    (let t' : Tile := { aTile with ver := { bytes := [(0x2000, 1)], via := [(0, 0)] } }
     (∃ s', translate (aTile.reg.ctx (some (clusterOf 0))) .write 0x2000 fullL2 = .ok 0x2000 s' ∧ s'.cores = fullL2.cores ∧
        s'.ns = fullL2.ns ∧ s'.m = fullL2.m) ∧
     overflowAllows (fullL2.setCore 0 aCore) (fullL2.setCore 0 { aCore with tile := some t' }) = false) := by
  refine ⟨⟨_, rfl, rfl, by decide, by decide, by decide⟩, ⟨_, rfl, by decide⟩, ⟨_, rfl, rfl, rfl, rfl⟩, ?_⟩
  rw [overflowAllows, fullL2_spill aCore aTile 0 rfl rfl, fullL2_spill { aCore with tile := some _ } _ 1 rfl rfl]
  decide

theorem wit_scratchpadAccess :
    aCore.windows = [] ∧ 0x1F_FFF8 + 8 ≤ aTile.reg.spTile ∧ 0x1F_FFF8 + 8 ≤ Config.scratchBytes ∧
    (∀ i < 8, aCore.spPoison.contains ((0x1F_FFF8 + i) / 128) = false) ∧
    0x1F_FFF9 + 8 > aTile.reg.spTile := ⟨rfl, by decide, by decide, fun _ _ => rfl, by decide⟩

/-- Core 0 with a window of a mode over the last chunk of its scratchpad, and that chunk's state. -/
def windowed (d : QWord) (x : Chunk) : Core := { aCore with windows := [(3, { desc := d })], chunks := [(511, x)] }
def snapDesc : QWord := (511 : QWord) <<< 13 ||| (1 : QWord) <<< 22

/-- What the fill of a chunk over empty memory reads. -/
theorem chunk_reads_zero (n : Nat) (h : n ≤ 0x1_0000) :
    loadBytes 0 0 n (on (windowed snapDesc {})) = .ok ((upto 0 n).map fun _ => 0) (on (windowed snapDesc {})) := by
  refine (rfl : _ = collect (upto 0 n) (fun a => tileByte 0 aTile (0 + (a - 0)) a) (on (windowed snapDesc {}))).trans
    (Laws.collect_same fun a ha => ?_)
  have ha := Laws.mem_upto.1 ha
  have hl : isLocal a = true := by simp only [isLocal, decide_eq_true_eq]; omega
  simp only [tileByte, bind, EStateM.bind, get, getThe, MonadStateOf.get, EStateM.get]
  rw [if_neg (by rintro ⟨⟩)]
  simp only [hl, if_true]
  rfl

theorem loadRange_of_load {c n : Nat} {d : List Byte} {s t : State} (hn : n ≤ 0x1_0000) (h : loadBytes c 0 n s = .ok d t) :
    ∃ e, loadRange c 0 n s = .ok e t := by
  have hm : Nat.min n (0x1_0000 - 0 % 0x1_0000) = n := Nat.min_eq_left hn
  have hz : n - n = 0 := Nat.sub_self n
  rw [loadRange, hm, hz]
  refine ⟨d ++ [].flatten, ?_⟩
  simp only [bind, EStateM.bind, h]
  rfl

theorem chunk_fills : ∃ d u, loadRange 0 (chunkVa snapDesc 511) 4096 (on (windowed snapDesc {})) = .ok d u := by
  rw [(by decide : chunkVa snapDesc 511 = 0)]
  obtain ⟨e, h⟩ := loadRange_of_load (by decide) (chunk_reads_zero 4096 (by decide))
  exact ⟨e, _, h⟩

/-- An access of the chunk's last 8 bytes: a SNAP window; a chunk being filled, one unfilled with and without a fault, a
valid one; stores at the edges of a sector. -/
theorem wit_windowAccess :
    (let k := windowed snapDesc {}
     k.tile = some aTile ∧ k.windowAt 511 = some (3, { desc := snapDesc }) ∧ winMode snapDesc = modeSnap ∧
     511 * 4096 < 0x1F_EFFF + [(1 : Byte), 2].length ∧ 0x1F_EFFF < 511 * 4096 + 4096) ∧
    (511 * 4096 ≤ 0x1F_FFF8 ∧ 0x1F_FFF8 + 8 ≤ 511 * 4096 + 4096 ∧ 0x1F_FFF8 + 8 ≤ aTile.reg.spTile ∧
     0x1F_FFF8 + 8 ≤ Config.scratchBytes ∧ modeSnap ≤ modeNofill) ∧
    ((windowed snapDesc { run := .filling }).chunk 511).run = .filling ∧
    (let x := (windowed snapDesc { fault := some .xlatePermission }).chunk 511
     x.run = .unfilled ∧ x.fault = some .xlatePermission) ∧
    (let x := (windowed snapDesc {}).chunk 511
     x.run = .unfilled ∧ x.fault = none ∧ chunkVa snapDesc 511 + 4096 ≤ 2 ^ 56 ∧
     ∃ d u, loadRange 0 (chunkVa snapDesc 511) 4096 (on (windowed snapDesc {})) = .ok d u) ∧
    (let k := windowed rwDesc { run := .valid }
     (k.chunk 511).run = .valid ∧ winMode rwDesc = modeRw ∧ k.windowAt 511 = some (3, { desc := rwDesc }) ∧
     (∀ j < 8, k.spPoison.contains ((0x1F_FFF8 + j) / 128) = false) ∧
     511 * 4096 ≤ 0x1F_F07F ∧ 0x1F_F07F + [(1 : Byte), 2].length ≤ 511 * 4096 + 4096) ∧
    ((windowed rwDesc { run := .filling }).chunk 511).run = .filling :=
  ⟨by decide, by decide, by decide, by decide, ⟨rfl, rfl, by decide, chunk_fills⟩, ⟨rfl, by decide, by decide, fun _ _ => rfl, by decide⟩,
    by decide⟩

theorem wit_atomicValues : (2 ^ 32 - 1 < 2 ^ 32) ∧ 2 ^ 64 - 1 < 2 ^ 64 := by decide

theorem wit_atomicsPerform :
    (let s := regs [(1, 0x2000), (2, 5)]
     let i : Instr := .atomAdd ⟨3, 1, 0x1, 0x2⟩
     bits (0x2 : Word) 0 6 = (2 : BitVec 6) ∧ fieldsOk .ctl i = true ∧ s.here.tile = some aTile ∧ s.here.ctl.remote = none ∧
     (s.here.sreg 1).toNat % 4 = 0 ∧
     ∃ s', translate (aTile.reg.ctx (some (clusterOf 0))) .write 0x2000 s = .ok 0x2000 s' ∧
       s'.m.poison.contains (0x2000 / 128) = false ∧ s'.m.shadows.contains (0x2000 / 0x1_0000) = false ∧
       pinnedElsewhere s' (some (clusterOf 0)) 0x2000 = false) ∧
    (let i : Instr := .cas ⟨3, 1, (0x6 : BitVec 4) ++ (0 : BitVec 4), 0x402⟩
     bits (0x402 : Word) 0 6 = (2 : BitVec 6) ∧ bits (0x402 : Word) 8 6 = (4 : BitVec 6) ∧ fieldsOk .ctl i = true ∧
     2 ≤ (0x6 : BitVec 4).toNat % 4 ∧ (0x2000 : Nat) % 8 = 0) :=
  ⟨⟨by decide, by decide, rfl, rfl, by decide, _, rfl, by decide, by decide, by decide⟩, by decide⟩

theorem wit_commitVersionPublishes :
    let t : Tile := { aTile with ver := { bytes := [(0x2000, 7), (0x20FF, 9)] } }
    let s : State := { cores := [(0, { aCore with tile := some t })] }
    (s.coreOf 0).tile = some t ∧ SMap.sorted t.ver.bytes = true ∧ (∀ e ∈ t.ver.bytes, e.1 < 2 ^ 56) ∧
    (∀ e ∈ t.ver.bytes, pinnedElsewhere s (some (clusterOf 0)) e.1 = false) ∧ overflowAllows s (committed 0 t s) = true ∧
    t.exchanges = [] ∧ (s.clusterAt (clusterOf 0)).near = [] ∧ s.m.versionNow t = t.ver.bytes := by decide

/-- Page tables at 0x10000 with two leaves of level 5: 0x10000 lies on the page at 0x60000, 0x20000 on that at 0x70000. -/
def pages : SMap Byte :=
  [(0x1_0000, 1), (0x1_0002, 2), (0x2_0000, 1), (0x2_0002, 3), (0x3_0000, 1), (0x3_0002, 4), (0x4_0000, 1), (0x4_0002, 5),
   (0x5_0008, 0x1F), (0x5_000A, 6), (0x5_0010, 0x1F), (0x5_0012, 7)]

def anExchange : Exchange := { asid := 0, xroot := 0x1_0000, dst := 0x1_0000, shadow := 0x2_0000, len := 0x1_0000, pages := [7] }

theorem wit_pagesExchange :
    let m : Memory := { mem := pages }
    leaf64 m 0x1_0000 (0x1_0000 + 0) = some (0x5_0008, 0x6_001F) ∧ leaf64 m 0x1_0000 (0x2_0000 + 0) = some (0x5_0010, 0x7_001F) ∧
    0x5_0008 + 8 ≤ 0x5_0010 ∧ pteAddr 0x6_001F / 0x1_0000 * 0x1_0000 ≠ pteAddr 0x7_001F / 0x1_0000 * 0x1_0000 ∧
    later (2 ^ 48 - 1) m.pubCount = true ∧ later 0 m.pubCount = false ∧
    ¬((1 = anExchange.asid) ∧ (0 / 0x1_0000 * 0x1_0000 = anExchange.dst + 0 ∨ 0 / 0x1_0000 * 0x1_0000 = anExchange.shadow + 0)) ∧
    0xFFFF < 0x1_0000 ∧ anExchange.dst % 0x1_0000 = 0 ∧ anExchange.shadow % 0x1_0000 = 0 := by decide +kernel

theorem wit_publicationExchanges :
    let t : Tile := { aTile with exchanges := [anExchange] }
    let s : State := { on { aCore with tile := some t } with m := { mem := pages, shadows := [7] } }
    (s.coreOf 0).tile = some t ∧ t.ver.bytes = [] ∧ t.exchanges = [anExchange] ∧ anExchange.len = 0x1_0000 ∧
    anExchange.bytes = [] ∧ (s.clusterAt (clusterOf 0)).near = [] ∧ overflowAllows s (committed 0 t s) = true := by decide +kernel

/-! Synchronisation objects. -/


theorem wit_tokensComplete :
    (let k := (on tokenCore).here
     sharer (on tokenCore) = .ctl ∧ fieldsOk .ctl (.tkwait ⟨0, 1, 3⟩) = true ∧ (3 : BitVec 8).toNat ≤ k.tokens .ld .ctl ∧
     k.tokens .ld .ctl < (4 : BitVec 8).toNat ∧
     fieldsOk .ctl (.tkpost ⟨0, 1, 1⟩) = true ∧ postReady k .ctl = true ∧ k.tokens .ctl .ld + (1 : BitVec 8).toNat ≤ 255 ∧
     255 < k.tokens .ctl .ld + (2 : BitVec 8).toNat) := by decide

theorem wit_semaphoresComplete :
    let s := on { aCore with sem := [(31, 5)], s := [(1, 5), (2, 6), (3, 0 - 6), (4, 0 - 5)] }
    s.here.tile = some aTile ∧ (31 : BitVec 8).getLsbD 6 = false ∧ (31 : BitVec 8).toNat % 64 < 32 ∧
    (0xBF : BitVec 8).getLsbD 7 = true ∧ (0xBF : BitVec 8).getLsbD 6 = false ∧
    (let sem := s.semOf s.core false 31
     ((s.here.sreg 1).toNat + 0) % 2 ^ 48 ≤ sem.toNat ∧ sem.toNat < ((s.here.sreg 2).toNat + 0) % 2 ^ 48 ∧
     sem.toNat + ((s.here.sreg 3).toNat + 0) % 2 ^ 48 < 2 ^ 48 ∧ 2 ^ 48 ≤ sem.toNat + ((s.here.sreg 4).toNat + 0) % 2 ^ 48) := by
  decide

theorem wit_arrivalBitmapsComplete :
    let s := on { aCore with arv := [(7, 6)], s := [(1, 2), (2, 9)] }
    let v := SMap.get 0 s.here.arv 7
    (7 : BitVec 6).toNat < 8 ∧ (0 : BitVec 6).toNat < 2 ∧ (1 : BitVec 6).toNat < 2 ∧
    v &&& s.here.sreg 1 = s.here.sreg 1 ∧ ¬(v &&& s.here.sreg 2 = s.here.sreg 2) ∧ v &&& s.here.sreg 1 ≠ 0 ∧
    (s.here.sreg 0 = 0) := by decide

theorem wit_fencesComplete :
    fenceReady (on aCore) 0 .ctl = true ∧
    fenceReady (on { aCore with copies := [{ kind := .plain, src := 0, srcSp := true, space := 1, dst := 0, n := 512 }] }) 0 .ctl = false ∧
    (1 : BitVec 6).toNat < 2 ∧ 2 ≤ (2 : BitVec 6).toNat ∧ (3 : BitVec 6).toNat = 3 := by decide

theorem wit_publicationCompletes :
    (let s := on aCore
     (s.coreOf s.core).tile = some aTile ∧ (s.coreOf s.core).copies = [] ∧ (s.coreOf s.core).windows = [] ∧
     aTile.tagUpdates = [] ∧ (∃ u, commitVersion s.core s = .ok () u) ∧ Seq.ctl = sharer s) ∧
    (let s := turnOf .st (on aCore)
     Seq.st = sharer s ∧ stDrained s.here = true ∧ ∃ u, commitVersion s.core s = .ok () u) ∧
    (let s := evt { core := 0, sq := .ctl } (on { aCore with ctl := { aCore.ctl with publishing := some .publish } })
     s.ev.core = s.core ∧ s.ev.sq = .ctl ∧ ((s.coreOf s.core).seq .ctl).publishing = some .publish ∧
     ∃ u, commitVersion s.core s = .ok () u) :=
  ⟨⟨rfl, rfl, rfl, rfl, ok_unit (by decide), rfl⟩, ⟨rfl, rfl, ok_unit (by decide)⟩, rfl, rfl, rfl, ok_unit (by decide)⟩

theorem wit_barrierGenerations :
    (let b : Barrier := { e := 1, a := 1 }
     0 < b.e ∧ b.a = b.e ∧ b.b = 0) ∧
    (let b : Barrier := { e := 1, a := 1, b := 1 }
     ¬(0 < b.e ∧ b.a = b.e ∧ b.b = 0)) := by decide

theorem wit_barrierInstructions :
    fieldsOk .ctl (.barv ⟨0, 3, 0, 0⟩) = true ∧ ((on aCore).barrier 0 false 3).e = 0 ∧
    (let s : State := { cores := [(0, aCore)], clusters := [(0, { bar := [(3, { e := 2 })] })] }
     let b := s.barrier (clusterOf s.core) false 3
     b.e ≠ 0 ∧ s.here.tile = some aTile ∧ s.here.copies = [] ∧ s.here.windows = [] ∧ aTile.tagUpdates = [] ∧
     s.here.ctl.granted = none ∧ (∃ u, commitVersion s.core s = .ok () u ∧ u.barrier (clusterOf s.core) false 3 = b) ∧ b.a ≠ b.e ∧
     b.gen ≤ ((aTile.joined.find? fun j => j.device = false && j.num = 3).or s.here.ctl.barw |>.map (·.gen)).getD b.gen) ∧
    (let s : State := { cores := [(0, aCore)], clusters := [(0, { bar := [(3, { e := 2, a := 2, b := 64 })] })] }
     let b := s.barrier (clusterOf s.core) false 3
     b.e ≠ 0 ∧ (∃ u, commitVersion s.core s = .ok () u ∧ u.barrier (clusterOf s.core) false 3 = b) ∧ b.a = b.e) ∧
    (let k := { aCore with ctl := { aCore.ctl with granted := some 0 } }
     (on k).here.ctl.granted.isSome = true) ∧
    (let t : Tile := { aTile with joined := [⟨false, 3, 0⟩] }
     let s : State := { cores := [(0, { aCore with tile := some t })], clusters := [(0, { bar := [(3, { e := 2, gen := 1 })] })] }
     let b := s.barrier (clusterOf s.core) false 3
     s.here.tile = some t ∧
     (((t.joined.find? fun j => j.device = false && j.num = 3).or s.here.ctl.barw).map (·.gen)).getD b.gen < b.gen) ∧
    (let s : State := { cores := [(0, { aCore with ctl := { aCore.ctl with barw := some ⟨false, 3, 0⟩ } })]
                        clusters := [(0, { bar := [(3, { e := 2, gen := 1 })] })] }
     let b := s.barrier (clusterOf s.core) false 3
     (((aTile.joined.find? fun j => j.device = false && j.num = 3).or s.here.ctl.barw).map (·.gen)).getD b.gen < b.gen) :=
  ⟨by decide, by decide, ⟨by decide, rfl, rfl, rfl, rfl, rfl, ok_unit_and (by decide), by decide, by decide⟩,
   ⟨by decide, ok_unit_and (by decide), by decide⟩, by decide, by decide, by decide⟩

theorem wit_windowsHandlesTemplatesComplete :
    (let s := regs [(1, mqDesc.setWidth 64), (2, (mqDesc >>> 64).setWidth 64)]
     let d : QWord := s.here.sreg 2 ++ s.here.sreg 1
     (31 : BitVec 6).toNat < 32 ∧ winReserved d = false ∧ 0 < winLen d ∧ winSoff d + winLen d = 512 ∧
     (winSoff d + winLen d) * 4096 ≤ aTile.reg.spTile ∧ winOverlaps s.here d = false ∧ SMap.find s.here.windows 31 = none ∧
     winMode d = modeMq ∧ 2 ≤ winLen d * 4096 / mqEsz d) ∧
    (let s := on { aCore with windows := [(31, { desc := rwDesc })] }
     SMap.find aCore.windows 31 = none ∧ SMap.find s.here.windows 31 = some { desc := rwDesc } ∧
     (∃ u, writeBackChunks s.core rwDesc (upto (winSoff rwDesc) (winLen rwDesc)) s = .ok () u) ∧
     winMode mqDesc ≠ modeRw ∧ winMode mqDesc ≠ modeNofill ∧
     ∃ s, writeBackChunks 0 mqDesc (upto (winSoff mqDesc) (winLen mqDesc)) (on aCore) = .ok () s) ∧
    (let w : Window := { desc := mqDesc, mq := { tail := 2, n := 63, esz := 64 } }
     let s := on { aCore with windows := [(31, w)], s := [(1, 3)] }
     SMap.find s.here.windows 31 = some w ∧ winMode w.desc = modeMq) ∧
    (15 : BitVec 6).toNat < 16 ∧
    (let s := regs [(1, 0x20)]
     bits (3 : BitVec 8) 2 6 = 0 ∧ (s.here.sreg 1 + (0x10 : Word).signExtend 64).toNat % 16 = 0 ∧
     ∃ l u, spLoad s.core 0x30 16 s = .ok l u) :=
  ⟨by decide, ⟨rfl, rfl, ⟨_, rfl⟩, by decide, by decide, _, rfl⟩, by decide, by decide, by decide, by decide, _, _, rfl⟩


/-! Traps, the end of a tile, system registers. -/

theorem wit_trapEntry :
    ((on aCore).coreOf 0).tile = some aTile ∧ aCore.trap.mode = false ∧ aTile.nrec.entryHalf .ctl 3 ≠ 0 ∧ aCore.ctl.remote = none ∧
    (({ aCore with ctl := { aCore.ctl with remote := some (.waiting 0) } } : Core).ctl.remote.isSome = true ∧ Seq.st ≠ .ctl) ∧
    ((on (inTrap 2)).coreOf 0).trap.mode = true := by decide

theorem wit_trapInstructionTraps :
    (on aCore).here.tile = some aTile ∧ (on aCore).here.trap.mode = false ∧ aTile.nrec.entryHalf .ctl 3 ≠ 0 ∧
    (on aCore).here.ctl.remote = none ∧ (⟨0, 0, 255⟩ : RI).d = 0 := by decide

theorem wit_returnFromCtlTrap :
    (let s := on (inTrap 0)
     s.here.tile = some aTile ∧ s.here.trap.ret.toNat % 4 = 0 ∧ s.here.trap.mode = true ∧ s.here.trap.seq = 0) ∧
    (on aCore).here.trap.mode = false ∧ (on aCore).here.trap.seq = 0 ∧
    (let s := on { aCore with trap := { seq := 3 } }
     s.here.tile = some aTile ∧ s.here.trap.ret.toNat % 4 = 0 ∧ s.here.trap.mode = false ∧ 1 ≤ s.here.trap.seq ∧ s.here.trap.seq ≤ 3) := by decide

theorem wit_returnFromCmpTrap :
    let s := on (inTrap 2)
    s.here.tile = some aTile ∧ s.here.trap.ret.toNat % 4 = 0 ∧ s.here.trap.mode = true ∧ s.here.trap.seq = 2 ∧
    s.here.cmp.stage ≠ .complete := by decide

theorem wit_returnFromStreamTrap :
    (let s := on (inTrap 1)
     let out := s.updCore s.core fun k => { k with trap := { k.trap with mode := false } }
     s.here.tile = some aTile ∧ s.here.trap.ret.toNat % 4 = 0 ∧ s.here.trap.mode = true ∧ s.here.trap.seq = 1 ∧
     (s.here.seq .ld).stage ≠ .complete ∧
     (∃ u, retryHeads s.core .ld true (out.updCore s.core fun k => k.updSeq .ld resume) = .ok () u) ∧
     (∃ u, retryHeads s.core .ld false (out.advance s.core .ld (lengthAt s.core .ld out)) = .ok () u) ∧
     ∃ u, retryHeads s.core .ld true (out.updCore s.core fun k => k.updSeq .ld (redirect aNest .ld)) = .ok () u) ∧
    (let s := on (inTrap 3)
     s.here.trap.seq = 3 ∧ (s.here.seq .st).stage ≠ .complete ∧ ((s.coreOf s.core).streamer .st).aq.it = false) :=
  ⟨⟨by decide, by decide, by decide, by decide, by decide, ok_unit (by decide), ok_unit (by decide), ok_unit (by decide)⟩,
   by decide⟩

theorem wit_tendPublishes :
    (on (inTrap 0)).here.trap.mode = true ∧
    ((on aCore).here.trap.mode = false ∧ tendReady (on aCore) 0 = false) ∧
    ((on ending).here.tile = some aTile ∧ tendReady (on ending) 0 = true ∧ (on ending).here.copies = [] ∧
     (on ending).here.windows = [] ∧ aTile.tagUpdates = [] ∧ ∃ u, commitVersion 0 (on ending) = .ok () u) :=
  ⟨by decide, by decide, by decide, by decide, by decide, by decide, by decide, ok_unit (by decide)⟩

/-- A tile with a fault queue of 16 records at 0x8000, empty, and one whose queue cannot be used. -/
def queued : Tile := { aTile with reg := { aRegion with fqBase := 0x8000, fqEntries := 16, xroot := 0x1_0000 } }

theorem wit_tendAbortEndsTheTile :
    (let s : State := { on { inTrap 2 with tile := some queued } with m := { mem := tables } }
     let w := discardTile true 0 s
     s.here.tile = some queued ∧ queued.exchanges = [] ∧ s.here.copies = [] ∧ (s.clusterAt (clusterOf 0)).near = [] ∧
     slotOfNid s queued.nid = none ∧ s.ns.jobs = [] ∧ queued.reg.valid = true ∧ fqUsable queued.reg = true ∧
     okThen (fun hdr v =>
       let tail := ofBytes ((hdr.drop 4).take 4)
       (tail + 2 ^ 32 - ofBytes (hdr.take 4)) % 2 ^ 32 ≠ 16 && tail % 16 = 0 &&
       okThen (fun loc v => loc = 0x8020 &&
         okThen (fun loc4 _ => loc4 = 0x8004)
           (translate (queued.reg.ctx none) .write 0x8004 (commitLocal (some 0) (placed loc (bytesOf 32 1)) v)))
         (translate (queued.reg.ctx none) .write (0x8000 + 0x20 + 32 * (tail % 16)) v))
       (readAs (queued.reg.ctx none) 0x8000 0x20 w) = true) ∧
    fqUsable aRegion = false ∧ (on aCore).here.trap.mode = false := by
  decide +kernel

theorem wit_yieldCompletes :
    aTile.yieldReq = none ∧
    (let t : Tile := { aTile with yieldReq := some 0 }
     let s := on { aCore with tile := some t }
     s.here.tile = some t ∧ t.yieldReq.isSome = true ∧ s.here.trap.mode = false) := by decide

theorem wit_systemRegisterAccess :
    (let s := on aCore
     s.here.tile = some aTile ∧ (0x0002 : Word).toNat < 2 ^ 12 ∧ regTrap aTile.reg.supv s.here.trap.mode false 0x002 = none ∧
     (∃ v u, readReg s.core true 0x002 s = .ok v u) ∧
     regTrap aTile.reg.supv s.here.trap.mode false 0xFFF = some .reservedField ∧ (0xFFF : Word).toNat < 2 ^ 12 ∧
     regTrap aTile.reg.supv s.here.trap.mode true 0x013 = some .privilege) ∧
    (let s := on (inTrap 0)
     regTrap aTile.reg.supv s.here.trap.mode true 0x013 = none ∧
     ∃ u, writeReg (some aTile.reg) false s.core 0x013 (s.here.sreg 1) s = .ok () u) ∧
    (let k := { aCore with barSel := 16 }
     (0x0C1 : Word).toNat % 2 ^ 12 = 0x0C1 ∧ (on k).here.barSel.toNat / 64 % 2 = 0 ∧ 15 < (on k).here.barSel.toNat % 64 ∧
     regTrap false false true 0x0C1 = some .privilege ∧
     ¬(((0x013 : Word).toNat % 2 ^ 12 = 0x0C1 ∨ (0x013 : Word).toNat % 2 ^ 12 = 0x0C2) ∧ 15 < (on k).here.barSel.toNat % 64)) :=
  ⟨⟨by decide, by decide, by decide, ok_val (by decide), by decide, by decide, by decide⟩, ⟨by decide, ok_unit (by decide)⟩, by decide⟩

theorem wit_registerPrivileges :
    0xB00 ≤ 0xB00 ∧ regAccess 0x000 ≠ none ∧ (0x018 ≤ 0x01B ∧ 0x01B ≤ 0x01B) ∧
    ∃ n, regAccess n = some .supOnly := ⟨by decide, by decide, by decide, 0x1F2, by decide⟩

/-- A user tile: a register that it may write, one that it may not (which enters its handler), and a store's page. -/
theorem wit_userTilesKeepOut :
    (on aCore).here.tile = some aTile ∧ aTile.reg.supv = false ∧ aTile.nrec.entryHalf .ctl 3 ≠ 0 ∧
    (on aCore).here.trap.mode = false ∧
    (let o : RL := ⟨0, 1, 0, 0x018⟩
     (on (inTrap 2)).here.trap.mode = true ∧ fieldsOk .ctl (.sysw o) = true ∧ (0x018 : Word).toNat % 2 ^ 12 = 0x018 ∧
     regTrap false true true 0x018 = none) ∧
    (∃ loc u, translate (aTile.reg.ctx (some (clusterOf 0))) .write 0x2000 (on aCore) = .ok loc u) ∧
    (1 : Nat) ≠ aTile.reg.id :=
  ⟨rfl, rfl, by decide, rfl, by decide, ⟨_, _, rfl⟩, by decide⟩

theorem wit_coreRegisterViews : 127 < 128 ∧ (on aCore).devId < 256 ∧ ∀ i < 8, SMap.get 0 (on tokenCore).here.tk i < 256 := by decide

/-! The scheduler. -/

theorem wit_schedulerAnswers :
    (let s := sched {} (regs [(1, 0x80)])
     s.here.tile = some aTile ∧ (s.here.sreg 1).toNat % 128 = 0 ∧
     (∃ l u, spLoad s.core 0x80 128 s = .ok l u) ∧ (∃ l u, loadRange s.core 0x80 128 s = .ok l u) ∧
     (∃ x v, enqueue (outsideSubtree aTile.reg) (some aRecord) 0 s = .ok x v) ∧
     (1 : BitVec 8).toNat < 2 ∧ (3 : BitVec 8).toNat < 4 ∧ (7 : Word).toNat < 8) :=
  ⟨by decide, by decide, ok_val (by decide +kernel), ok_val (by decide +kernel), ok_val (by decide +kernel), by decide⟩

theorem wit_enqueueEntersTheNest :
    let s := { sched {} {} with }
    let r := nestRecOf aRecord
    let reg := effRegion s r.region
    reg.valid = true ∧ freeSlot s = some 0 ∧ (∃ u, recordBad aRecord s = .ok false u) ∧ r.cohort = false ∧ 0 < r.tiles :=
  ⟨by decide, by decide, ⟨_, rfl⟩, by decide, by decide⟩

/-- A nest flushed whose last tile only has still to run. -/
def flushedNest : NestSlot := { aSlot with run := .flushed, f := 1 }

theorem wit_flushAndRestart :
    (let s := sched aSlot {}
     namedNest aRegion s 256 = .ok 0 ∧ nestState s 0 ≠ 0 ∧ nestState s 0 ≠ 5 ∧ isProducer s 256 = false ∧ 256 ≠ aTile.nid) ∧
    (let t : Tile := { aTile with nid := 256 }
     let x : Saved := { kind := .yield, base := 0x1_0000, slot := 0, nid := 256, ord := 1, core := { aCore with tile := some t } }
     let s := sched aSlot { cores := [(1, { aCore with tile := some t })] }
     let s : State := { s with ns := { s.ns with saved := [x] } }
     let u := (flushNest aTile 256 false s).2
     namedNest aRegion s 256 = .ok 0 ∧ nestState s 0 ≠ 0 ∧ nestState s 0 ≠ 5 ∧ inFlight s 256 = 2 ∧ inFlight u 256 = 0 ∧
     (∀ e ∈ tilesOnCores s 256, ((s.coreOf e.1).tile.map fun T => !T.committed && T.exchanges.isEmpty) = some true ∧
       (s.coreOf e.1).copies = []) ∧
     (∀ x ∈ savedTiles s 256, (x.core.tile.map (·.exchanges)).getD [] = [] ∧ x.slotAt = 0) ∧
     (s.clusterAt 0).near = [] ∧ tilesOnCores s 256 ≠ [] ∧ savedTiles s 256 ≠ []) ∧
    (let s := sched { aSlot with run := .done } {}
     namedNest aRegion s 256 = .ok 0 ∧ nestState s 0 = 5) ∧
    (let s := sched flushedNest {}
     namedNest aRegion s 256 = .ok 0 ∧ nestState s 0 = 6 ∧ 0 < (s.slot 0).nrec.tiles ∧ (s.slot 0).f < (s.slot 0).nrec.tiles) :=
  ⟨⟨rfl, by decide +kernel⟩, ⟨rfl, by decide +kernel⟩, ⟨rfl, by decide +kernel⟩, rfl, by decide +kernel⟩

theorem wit_dispatchStartsTheTile :
    let s := sched { aSlot with nrec := { aSlot.nrec with args := [1, 2, 3, 4] } } {}
    topSlot s (servable s) = some 0 ∧ firstSaved s (slotNid s 0) = none ∧ dispatchSet s 0 = [0] ∧
    pickCore s (slotNid s 0) (idleCores s (s.slot 0).nrec) = some 0 ∧ (s.slot 0).nrec.tmpl = 0 ∧ portOf s 0 = none ∧
    (s.slot 0).nrec.args.length = 4 := by
  decide +kernel

theorem wit_stageChanges :
    let r := aNest
    (0x1000 : Nat) ≠ r.entryAt .ctl 1 ∧ r.trip ≠ 0 ∧ r.entryAt .ctl 1 ≠ r.entryAt .ctl 2 ∧ r.entryAt .ctl 2 = 0x100C ∧
    0 + 1 < r.trip ∧ r.trip ≤ 1 + 1 ∧ r.entryAt .ld 2 ≠ r.endAt .ld ∧ Seq.ld ≠ .ctl ∧ r.endAt .ld = 0x1028 := by decide

theorem wit_schedulerEventsComplete :
    (let s := evt { idx := 0 } { sched aSlot {} with cycle := 0x4650 }
     s.ns.age ≠ 0 ∧ dispatchSet s 0 ≠ [] ∧ (s.slot 0).ageSince + s.ns.age ≤ s.cycle ∧
     (s.slot 0).effPrio < (effRegion s (s.slot 0).nrec.region).maxPrio) ∧
    (let t : Tile := { aTile with committed := true, nid := 256 }
     let s := sched aSlot (on { aCore with tile := some t })
     (s.coreOf 0).tile = some t ∧ t.committed = true ∧ slotOfNid s t.nid = some 0) ∧
    (let s := sched { aSlot with effPrio := 2, nrec := { aSlot.nrec with aff := 1 } }
        { cores := (List.range 8).map fun c => (c, { aCore with tile := some { aTile with prio := if c = 7 then 1 else 2 } }) }
     topSlot s (fun j => starved s j && (yieldVictim s j).isSome) = some 0 ∧ yieldVictim s 0 = some 7) ∧
    (let t : Tile := { aTile with yieldReq := some 0 }
     let x : SeqState := { stage := .kernel, run := .atBackEdge, iters := 1, edge := true }
     let t := { t with nrec := { t.nrec with trip := 3 } }
     let s := on { aCore with tile := some t, ctl := x, ld := x, cmp := x, st := x }
     (s.coreOf 0).tile = some t ∧ t.yieldReq.isSome = true ∧ t.saving = none ∧
     ∀ q ∈ allSeqs, ((s.coreOf 0).seq q).run = .atBackEdge ∧ stillHeld (s.coreOf 0) q = true) := by
  decide +kernel

theorem wit_deadlinesPass :
    (let t : Tile := { aTile with yieldReq := some 0 }
     let s : State := { on { aCore with tile := some t } with cycle := 20000 }
     (s.coreOf 0).tile = some t ∧ t.saving = none ∧ t.committed = false ∧ (s.coreOf 0).ctl.remote = none ∧
     0 + t.reg.yieldDl ≤ s.cycle ∧
     t.reg.watchdog ≠ 0 ∧ t.lastIssue + t.reg.watchdog ≤ s.cycle) ∧
    (let t : Tile := { aTile with saving := some (.yield, 0) }
     let s : State := { on { aCore with tile := some t } with cycle := Config.saveBound }
     (s.coreOf 0).tile = some t ∧ 0 + Config.saveBound ≤ s.cycle) ∧
    (let t : Tile := { aTile with press := some 0 }
     let s : State := { on { aCore with tile := some t } with cycle := 0x1_86A0 }
     (s.coreOf 0).tile = some t ∧ s.ev.flag = false ∧ 0 + s.m.pressDeadline ≤ s.cycle ∧ t.committed = false) := by decide

theorem wit_snapshotPressureMarks :
    pressed (on aCore) 0 = false ∧
    (let s : State := { on aCore with m := { pubCount := 2 ^ 47 } }
     (s.coreOf 0).tile = some aTile ∧ pressed s aTile.start = true) ∧
    (let x : Saved := { kind := .yield, base := 0, slot := 0, nid := 0, ord := 0, core := aCore }
     let s : State := { m := { pubCount := 2 ^ 47 }, ns := { saved := [x] } }
     x ∈ s.ns.saved ∧ savedPressed s x = true) := by decide

theorem wit_saveAndRestore :
    (let t : Tile := { aTile with saving := some (.forced, 0), nid := 256 }
     let s := sched aSlot (on { ending with tile := some t })
     (s.coreOf 0).tile = some t ∧ freeSave s t.reg = some 0 ∧ drained s 0 = true ∧ SaveKind.forced = .forced) ∧
    (let t : Tile := { aTile with nid := 256, ord := 1 }
     let x : Saved := { kind := .yield, base := 0, slot := 0, nid := 256, ord := 1, core := { ending with tile := some t } }
     let s := sched aSlot {}
     let s : State := { s with ns := { s.ns with saved := [x] } }
     s.m.wf = true ∧ topSlot s (servable s) = some 0 ∧ firstSaved s (slotNid s 0) = some x ∧ pickCore s (slotNid s 0) (openCores s 0) = some 0 ∧
     portOf s 0 = none) := by decide +kernel


/-! What memory does on its own. -/

def aHold : Hold := { asid := 0, page := 0, va := 0x2000, lane := 5, since := 0 }

/-- CTL holds an access, and so does the binding of Q0. -/
def holding : Core :=
  { aCore with
    ctl := { aCore.ctl with hold := some aHold, run := .stalled .memory }
    lds := { binds := [(0, { kind := .once, shape := {}, org := [], hold := some aHold })] } }
def refusing : Core :=
  { aCore with
    ctl := { aCore.ctl with refused := some aHold, run := .stalled .memory }
    lds := { binds := [(0, { kind := .once, shape := {}, org := [], refused := some aHold })] } }

theorem wit_heldAndRefusedAccesses :
    (let s := evt { core := 0, num := 0, sq := .ctl } (mapped (on holding))
     (waitsAt (s.coreOf 0) 0 .ctl 0).hold = some aHold ∧ deviceOwned s aHold.asid aHold.page = true) ∧
    (let s := evt { num := 1, idx := 0 } { on holding with cycle := 0x1B_7740 }
     (∃ b, (s.coreOf 0).binding 0 = some b) ∧ (waitsAt (s.coreOf 0) 1 .ctl 0).hold = some aHold ∧
     aHold.since + s.m.flipLimit ≤ s.cycle) ∧
    (let s := evt { num := 1, idx := 0 } { on refusing with cycle := 0x1_0000 }
     (∃ b, (s.coreOf 0).binding 0 = some b) ∧ (waitsAt (s.coreOf 0) 1 .ctl 0).refused = some aHold ∧
     aHold.since + s.m.scopeHold ≤ s.cycle) ∧
    (let s := on holding
     (s.coreOf 0).tile = some aTile ∧ (s.coreOf 0).trap.mode = false ∧ aTile.nrec.entryHalf .ctl 3 ≠ 0 ∧
     (s.coreOf 0).ctl.remote = none ∧ (waitsAt (s.coreOf 0) 0 .ctl 0).hold = some aHold ∧
     (waitsAt ((on refusing).coreOf 0) 0 .ctl 0).refused = some aHold) :=
  ⟨by decide +kernel, ⟨⟨_, rfl⟩, by decide⟩, ⟨⟨_, rfl⟩, by decide⟩, by decide⟩

def walksTo (x : Nat × DWord × Nat) (r : Except Stop (Nat × DWord × Nat)) : Bool :=
  match r with
  | .ok y => y = x
  | .error _ => false

theorem walksTo_spec {x : Nat × DWord × Nat} {r : Except Stop (Nat × DWord × Nat)} (h : walksTo x r = true) : r = .ok x := by
  cases r with
  | ok y => exact congrArg _ (of_decide_eq_true h)
  | error e => cases h

theorem wit_flipToHostFinishes :
    let f : Flip := { asid := 0, va := 0, since := 0 }
    let s := evt { idx := 0 } (mapped (on aCore))
    let s : State := { s with m := { s.m with hostFlips := [f] } }
    s.m.hostFlips[s.ev.idx]? = some f ∧ walk s.m (effRegion s f.asid).xroot f.va = .ok (3, 0x1F, 0x3_0000) ∧
    versionHolds s (locOf s.devId 3 0x1F (f.va / 2 ^ pageLog 3 * 2 ^ pageLog 3)) (2 ^ pageLog 3) = false ∧
    infuserReads (HeldPage.covers f.asid f.va) s = false :=
  ⟨rfl, walksTo_spec (by decide +kernel), by decide, by decide⟩

theorem wit_fillsAndWritebacks :
    (let c : Chunk := { run := .filling, fill := [1] }
     let s := evt { core := 0, num := 511 } (on { aCore with chunks := [(511, c)] })
     ((s.coreOf 0).chunk 511).run = .filling ∧ ((s.coreOf 0).chunk 511).fault = none) ∧
    (let c : Chunk := { run := .filling, fault := some .poisonConsumed }
     (((on { aCore with chunks := [(511, c)] }).coreOf 0).chunk 511).fault.isSome = true) ∧
    (let w : Window := { desc := rwDesc }
     let s := evt { core := 0, idx := 31 } (on { aCore with windows := [(31, w)] })
     SMap.find (s.coreOf 0).windows 31 = some w ∧ winMode w.desc = modeRw ∧
     ∃ u, writeBackChunks 0 w.desc (upto (winSoff w.desc) (winLen w.desc)) s = .ok () u) ∧
    (let s : State := { m := { writer := [(5, 2)] } }
     SMap.find s.m.writer 5 = some 2) :=
  ⟨by decide, by decide, ⟨rfl, by decide, ok_unit (by decide)⟩, by decide⟩

theorem wit_agentWrites :
    (let s := evt { agent := .samovar, idx := 0x1F2, value := 5 } {}
     agentMay s s.ev.idx = true ∧ ∃ u, writeReg none false s.ev.core s.ev.idx s.ev.value s = .ok () u) ∧
    (let s := evt { agent := .samovar, value := 5 } {}
     agentMay s 0x0C1 = true ∧ ∃ u, writeReg none false s.ev.core 0x0C1 s.ev.value s = .ok () u) ∧
    (vbits (0x0000 : DWord) 14 2 = 0 ∧ vbits (0x4000 : DWord) 14 2 = 1 ∧ vbits (0x8000 : DWord) 14 2 = 2 ∧
     vbits (0xC000 : DWord) 14 2 = 3 ∧ bits (0 : DWord) 12 1 = 0 ∧ bits (0x1000 : DWord) 12 1 = 1) ∧
    (let h : HeldPage := { asid := 0, va := 0, log := 30, loc := 0 }
     let e : TagEnt := { key := 0, held := [h] }
     let s : State := { cd := { tags := [(0, e)], fetches := [{ tag := 0, sec := false, started := true }] } }
     infuserReads (HeldPage.covers 0 0x2_0000) s = true ∧ infuserReads (HeldPage.covers 0 0x2_0000) {} = false) ∧
    (let s := sched {} {}
     SMap.find s.ns.regions 0 = some aBlock ∧ SMap.find s.ns.regions 1 = none) :=
  ⟨⟨by decide, ok_unit (by decide)⟩, ⟨by decide, ok_unit (by decide)⟩, by decide, by decide, by decide⟩

theorem wit_samovarRegisters :
    (let s := sched {} {}
     mayAccess s = true ∧ ∃ x u, enqueueAs s.sv.nqReg (0x80 : DWord).toNat id 0 s = .ok x u) ∧
    (let s : State := { hl := { tdi := .run }, ev := { agent := .host } }
     mayAccess s = false ∧ barAllowed s s.ev.flag = false) ∧
    (let s : State := {}
     barAllowed s true = true ∧ (regAccess (0x900 + 0x118)).isSome = true ∧ (∃ v u, readReg 0 false (0x900 + 0x118) s = .ok v u) ∧
     regAccess (0x900 + 0x0FF) = none ∧ (0x0FF : Nat) < 0x200) ∧
    (let s : State := { sv := { ndone := [256], flip := [(4095, 2 ^ 56 - 1)] } }
     mayAccess s = true ∧ s.sv.ndone = 256 :: [] ∧ s.sv.owed = [] ∧ s.sv.flip = (4095, 2 ^ 56 - 1) :: [] ∧ 4095 < 2 ^ 12 ∧
     2 ^ 56 - 1 < 2 ^ 56) ∧
    (let s : State := {}
     s.sv.ndone = [] ∧ s.sv.flip = [] ∧ s.sv.s2hFull = false ∧ s.sv.h2sFull = false ∧ s.sv.claim = false ∧
     s.sv.wdraw = false) ∧
    (2 : DWord).toNat % 256 = 2 ∧ (0x102 : DWord).toNat % 256 = 2 ∧ (3 : DWord).toNat % 256 ≠ 2 ∧
    (let s : State := { sv := { s2hFull := true, h2sFull := true, claim := true } }
     s.sv.s2hFull = true ∧ s.sv.h2sFull = true ∧ s.sv.claim = true) :=
  ⟨⟨rfl, ok_val (by decide +kernel)⟩, by decide, ⟨rfl, by decide, ok_val (by decide), by decide, by decide⟩, by decide, by decide,
    by decide, by decide, by decide, by decide⟩

/-! Copies and leases. -/

theorem wit_copiesAccepted :
    (let c : Copy := { kind := .plain, src := 0, srcSp := true, dst := 0, space := 1, n := 1 }
     let s := on { aCore with copies := List.replicate 16 c }
     fieldsOk .ctl (.cpy ⟨0, 61, 0x05, 0⟩) = true ∧ s.here.tile = some aTile ∧ 16 ≤ s.here.copies.length) ∧
    (let s := regs [(1, 0), (2, 0x1000), (3, 0x20)]
     let o : Cmd := ⟨0, 1, 0x05, 0⟩
     s.here.copies.length < 16 ∧ fieldsOk .ctl (.cpy o) = true ∧ (s.here.sreg 3).toNat < 2 ^ 40 ∧
     ∀ e ∈ copyTraps s s.here aTile (copyOf s.here aTile .plain o), e.1 = false) := by decide

/-- A copy of the last byte of two chunks, the first landed: into the scratchpad with an arrival bitmap, and into memory. -/
def aCopy : Copy := { kind := .plain, src := 0, srcSp := true, dst := 0x1000, space := 1, n := 513, landed := [0], arv := some (3, 2) }

/-- Core 0 with a copy of which the last byte goes to 0x2000, and its tile once that has landed. -/
def copying : Core := { aCore with copies := [{ aCopy with dst := 0x1E00, space := 0 }] }
def landedTile : Tile := { aTile with ver := { bytes := [(0x2000, 0)], via := [(0, 0)] } }

theorem wit_copyLands :
    (let s := evt { core := 0, idx := 0, num := 1 } (on { aCore with copies := [aCopy] })
     (s.coreOf 0).tile = some aTile ∧ (s.coreOf 0).copies[s.ev.idx]? = some aCopy ∧ aCopy.fault = none ∧ aCopy.released = true ∧
     aCopy.bytes = [] ∧ s.ev.num < aCopy.chunks ∧ s.ev.num ∉ aCopy.landed ∧ (s.coreOf 0).windows = [] ∧ aCopy.src + aCopy.n ≤ aCopy.dst ∧
     (let n := min 512 (aCopy.n - 512 * 1)
      n = 1 ∧ aCopy.dst + 512 + n ≤ aTile.reg.spTile ∧ aCopy.dst + 512 + n ≤ Config.scratchBytes ∧
      ∀ i < n, (s.coreOf 0).spPoison.contains ((aCopy.src + 512 + i) / 128) = false)) ∧
    ((0x2000 : Nat) % 0x1_0000 + 1 ≤ 0x1_0000 ∧
     (∃ v, translate (aTile.reg.ctx (some (clusterOf 0))) .write 0x2000 (on copying) = .ok 0x2000 v ∧
       overflowAllows v (v.updCore 0 fun k => { k with tile := some landedTile }) = true) ∧
     (let s := fullL2.setCore 0 copying
      (∃ v, translate (aTile.reg.ctx (some (clusterOf 0))) .write 0x2000 s = .ok 0x2000 v ∧ v.cores = s.cores ∧ v.ns = s.ns ∧ v.m = s.m) ∧
      overflowAllows (fullL2.setCore 0 copying) (fullL2.setCore 0 { copying with tile := some landedTile }) = false)) := by
  refine ⟨by decide, by decide, ⟨_, rfl, by decide⟩, ⟨_, rfl, rfl, rfl, rfl⟩, ?_⟩
  rw [overflowAllows, fullL2_spill copying aTile 0 rfl rfl, fullL2_spill { copying with tile := some landedTile } landedTile 1 rfl rfl]
  decide

theorem wit_copyEvents :
    (let x : Copy := { aCopy with landed := [1, 0], done := 1 }
     (∀ j < x.chunks, j ∈ x.landed) ∧ x.done = 1 ∧ ((on aCore).semOf 0 false x.num).toNat + x.n < 2 ^ 48) ∧
    (let x : Copy := { aCopy with landed := [1, 0], done := 2, num := 63 }
     let s : State := { on aCore with clusters := [(0, { xsem := [(63, BitVec.ofNat 48 (2 ^ 48 - 513))] })] }
     let r := s.setSem 0 true 63 (BitVec.ofNat 48 (2 ^ 48 - 1))
     x.done = 2 ∧ 2 ^ 48 ≤ (s.semOf 0 true x.num).toNat + x.n ∧ x.kind ≠ .shadow ∧
     okThen (fun _ _ => true) (postEvent aTile.reg.id .semOverflow 0 r) = true) ∧
    (let x : Copy := { aCopy with landed := [1, 0], done := 3, num := 3 }
     let s : State := { on aCore with clusters := [(0, { bar := [(3, { e := 1, a := 1, b := 513 })] })] }
     let b := s.barrier (clusterOf 0) x.device x.num
     x.done = 3 ∧ 0 < b.e ∧ b.a = b.e ∧ b.b - x.n = 0) ∧
    (let x : Copy := { aCopy with kind := .tagged, n := 0, landed := [] }
     (∀ j < x.chunks, j ∈ x.landed) ∧ x.done = 0 ∧ x.n = 0) ∧
    (let x : Copy := { aCopy with kind := .tagged, landed := [1, 0], extra := 0x3000 }
     let s := on { aCore with copies := [x] }
     x.kind = .tagged ∧ 0 < x.n ∧ x.done = 0 ∧ x.space ≠ 0 ∧
     okThen (fun loc _ => loc = 0x3000) (translate (aTile.reg.ctx (some (clusterOf 0))) .write x.extra s) = true ∧
     isLocal 0x3000 = true ∧ s.m.poison.contains (0x3000 / 128) = false ∧ pinnedElsewhere s none 0x3000 = false ∧
     s.m.shadows.contains (0x3000 / 0x1_0000) = false) ∧
    (let x : Copy := { kind := .shadow, src := 0, srcSp := true, dst := 0, space := 0, n := 1, released := false, pages := [5] }
     x.released = false ∧ stillRead (on { aCore with copies := [x] }) x.pages = false) ∧
    (let x : Copy := { aCopy with fault := some (.poisonConsumed, 0) }
     x.fault = some (.poisonConsumed, 0)) := by decide

theorem oneLineFits (s : State) (r : Region) (x : Nat) (hl : liveLeases s = []) (hr : 256 ≤ r.leaseBytes) :
    leaseResult s r (some [x]) = .ok 0 := by
  have h : ((upto 0 16).any fun i =>
      decide (((([] : List Lease).flatMap (·.lines) ++ [x]).eraseDups.filter fun y => (Config.l2Slice y).toNat = i).length * 256 > 3 * 2 ^ 20)) = false := by
    rw [List.any_eq_false]
    intro i _
    have := List.length_filter_le (fun y => decide ((Config.l2Slice y).toNat = i)) (([] : List Lease).flatMap (·.lines) ++ [x]).eraseDups
    have e : (([] : List Lease).flatMap (·.lines) ++ [x]).eraseDups = [x] := rfl
    rw [e] at this ⊢
    simp only [List.length_singleton] at this
    simp only [decide_eq_true_eq]
    omega
  unfold leaseResult
  simp only [hl, List.filter_nil, List.all_nil]
  rw [h]
  have e : (([] : List Lease).flatMap (·.lines) ++ [x]).eraseDups.length = 1 := rfl
  have : ¬((([] : List Lease).flatMap (·.lines) ++ [x]).eraseDups.length * 256 > r.leaseBytes) := by rw [e]; omega
  rw [show List.find? (fun (_ : Nat) => true) (upto 0 8) = some 0 from rfl]
  dsimp only
  rw [if_neg this]
  rfl

theorem wit_leasesComplete :
    (let s := regs [(1, 0x2000), (2, 1)]
     let o : Cmd := ⟨3, 1, 0, 5⟩
     s.here.tile = some aTile ∧ fieldsOk .ctl (.lease o) = true ∧ (s.here.sreg 2).toNat = 1 ∧
     (∃ u, leaseLines (aTile.reg.ctx (some (clusterOf 0))) 0x2000 1 s = .ok (some [0x20]) u ∧
       leaseResult u aTile.reg (some [0x20]) = .ok 0) ∧
     leaseResult s aTile.reg none = .error 4) ∧
    (let s := regs [(2, 8 * 2 ^ 20 + 1)]
     (s.here.sreg 1).toNat = 0 ∧ 8 * 2 ^ 20 < (s.here.sreg 2).toNat) ∧
    (let x : Lease := { region := 0, handle := 7, lines := [1], since := 0, life := 2 }
     let s : State := { on aCore with m := { leases := [x] }, cycle := 16384 }
     fieldsOk .ctl (.lrel ⟨3, 0, 1, 7⟩) = true ∧
     ((liveLeases s).find? fun x => x.region = aTile.reg.id && x.handle = (7 : BitVec 24).toNat % 8) = some x ∧
     ((liveLeases s).find? fun x => x.region = aTile.reg.id && x.handle = (6 : BitVec 24).toNat % 8) = none ∧
     (1 : BitVec 8).getLsbD 0 = true) ∧
    (let x : Lease := { region := 0, handle := 7, lines := [1], since := 0, life := 1 }
     (decide (x.since + x.life * 16384 ≤ 16384)) = true) :=
  ⟨⟨by decide, by decide, by decide, ⟨_, rfl, oneLineFits _ _ _ rfl (by decide)⟩, rfl⟩, by decide, by decide, by decide⟩

/-! Streams. -/

theorem wit_indexInstructionsComplete :
    indexer (on aCore) = .ld ∧ fieldsOk .ld (.nli ⟨15, 1, 0, 0xFFFF_FFFF⟩) = true ∧ fieldsOk .ld (.nadd ⟨15, 1, 2, 63⟩) = true ∧
    fieldsOk .ld (.naddi ⟨1, 2, 0x80⟩) = true ∧ fieldsOk .ld (.ncmpEq ⟨40, 1, 2⟩) = true ∧
    fieldsOk .ld (.ncmpNe ⟨43, 1, 2⟩) = true ∧ fieldsOk .ld (.ncmpLt ⟨40, 1, 2⟩) = true ∧
    fieldsOk .ld (.ncmpLe ⟨40, 1, 2⟩) = true ∧ fieldsOk .ld (.ncmpLtu ⟨40, 1, 2⟩) = true ∧
    fieldsOk .ld (.ncmpLeu ⟨40, 1, 2⟩) = true ∧ fieldsOk .ld (.nbr ⟨0x8_0000⟩) = true ∧
    fieldsOk .ld (.nloop ⟨1, 0, 0, 2⟩) = true ∧ indexer (turnOf .st (on aCore)) = .st ∧
    fieldsOk .st (.ncmpEq ⟨47, 1, 2⟩) = true := by decide

/-- A shape of one entry of 128 words at scratchpad offset 0x2000, resolved by handle H0. -/
def aShape : Shape := { base := 0x2000, esz := 2, sp := true, ndim := 1, ext := [128, 1], stride := [4, 512], box := [128, 1] }
def shaped : Core := { aCore with h := [(0, 1)], shapeCache := [⟨0, 1, aShape⟩] }

theorem wit_streamBindingsComplete :
    (let s := on shaped
     s.here.tile = some aTile ∧ (∃ s', resolve s.core 0 s = .ok aShape s' ∧
       (s'.coreOf s.core).binding 8 = none) ∧
     fieldsOk .ld (.sbindLd ⟨7, 0, 0, 1⟩) = true ∧ fieldsOk .ld (.gath ⟨7, 0, 0, 1⟩) = true ∧ fieldsOk .ld (.sunbLd ⟨7, 0, 0, 0⟩) = true ∧
     fieldsOk .st (.sbindSt ⟨8, 0, 0, 0⟩) = true ∧ fieldsOk .st (.scat ⟨15, 0, 0, 1⟩) = true ∧ fieldsOk .st (.sunbSt ⟨8, 0, 0, 0⟩) = true ∧
     (0 % 4 = 0 ∧ 0 + 4 * 0 ≤ aTile.reg.spTile ∧ 1 ≤ aShape.ndim)) ∧
    (let b : Binding := { kind := .once, shape := aShape, org := [], issued := 1, deliv := 0 }
     let k : Core := { shaped with sts := { binds := [(8, b)] } }
     k.binding 8 = some b ∧ b.deliv < b.issued ∧ b.held = none) :=
  ⟨⟨by decide, ⟨_, rfl, rfl⟩, by decide, by decide, by decide, by decide, by decide, by decide, by decide⟩, by decide⟩

theorem wit_directOperationsEnter :
    (let s := on shaped
     s.here.tile = some aTile ∧ fieldsOk .ld (.pref ⟨0, 0, 0, 1⟩) = true ∧ s.here.lds.direct.length < 8 ∧
     (∃ s', resolve s.core 0 s = .ok aShape s' ∧ (s'.coreOf s.core).queue 0 = s.here.queue 0) ∧
     fieldsOk .ld (.ldq ⟨0, 0, 0, 0⟩) = true ∧ s.here.binding 0 = none ∧ (s.here.queue 0).length < 4 ∧
     fieldsOk .ld (.ldt ⟨0, 0, 0, 512⟩) = true ∧ (s.here.nreg .ld 0).toNat % 32 = 0 ∧
     (Walk.mk aShape [0, 0, 0, 0] 0 0 0).entries * ((512 : Word).toNat % 2 ^ 10) = 512) ∧
    (let w : Window := { desc := rwDesc }
     let s := on { aCore with windows := [(31, w), (3, { desc := mqDesc })] }
     fieldsOk .ld (.mfill ⟨31, 0, 0, 1⟩) = true ∧ SMap.find s.here.windows 31 = some w ∧
     (s.here.nreg .ld 0).toNat + (1 : Word).toNat % 2 ^ 10 ≤ winLen w.desc ∧ winMode w.desc = modeRw ∧
     winMode mqDesc ≠ modeSnap ∧ winMode mqDesc ≠ modeRw ∧
     fieldsOk .st (.mwb ⟨31, 0, 0, 1⟩) = true ∧ (1 : Word).toNat % 2 ^ 10 ≠ 0 ∧ (0 : Word).toNat % 2 ^ 10 = 0) ∧
    (let e : QEnt := { id := 0, data := some (bytesOf 512 7) }
     let s := on { shaped with q := [(8, [e]), (9, [e])] }
     s.here.sts.direct.length < 8 ∧ fieldsOk .st (.stq ⟨8, 0, 0, 0⟩) = true ∧ s.here.binding 8 = none ∧ 0 < bufferFree s.here ∧
     (s.here.queue 8).head? = some e ∧ fieldsOk .st (.stt ⟨0, 0, 0, 512⟩) = true ∧
     fieldsOk .st (.atomvAdd ⟨0, 0, 0x8, 0⟩) = true ∧ (s.here.nreg .st 0).toNat % 512 = 0 ∧
     1536 ≤ aTile.reg.spTile ∧ fieldsOk .st (.atomvOr ⟨0, 8, 0x0, 0x108⟩) = true ∧ (0x108 : Word).getLsbD 8 = true ∧
     s.here.binding 0 = none ∧ (s.here.queue 0).length < 4 ∧ 2 ≤ bufferFree s.here) :=
  ⟨⟨by decide, by decide, by decide, ⟨_, rfl, rfl⟩, by decide, by decide, by decide, by decide, by decide, by decide⟩,
   by decide, by decide +kernel⟩

/-- Q0 bound to the shape. -/
def bound : Binding := { kind := .once, shape := aShape, org := [0, 0, 0, 0] }

theorem wit_streamEventsComplete :
    (let s := evt { core := 0, num := 0 } (on { shaped with lds := { binds := [(0, bound)] } })
     (s.coreOf 0).tile = some aTile ∧ aTile.saving = none ∧ (s.coreOf 0).binding 0 = some bound ∧
     mayRead (s.coreOf 0) 0 bound = true ∧
     ∃ l s', readEntry 0 bound.walk (bound.issued % bound.walk.entries) s = .ok (.ok l) s') ∧
    (let b : Binding := { bound with shape := { aShape with base := 0x20_0000 } }
     let s := evt { core := 0, num := 0 } (on { shaped with lds := { binds := [(0, b)] } })
     mayRead (s.coreOf 0) 0 b = true ∧
     ∃ s', readEntry 0 b.walk (b.issued % b.walk.entries) s = .ok (.error (0, .trap .scratchRange 0x20_0000)) s') ∧
    (let b : Binding := { bound with issued := 1, reading := [bytesOf 512 7] }
     let k : Core := { shaped with lds := { binds := [(0, b)] } }
     k.binding 0 = some b ∧ b.reading = bytesOf 512 7 :: [] ∧ ∀ e ∈ k.queue 0, e.id ≠ k.nextId) ∧
    (let o : DirectOp := { kind := .ldq, d := 0, shape := aShape, org := [0, 0, 0, 0], rid := some 0 }
     let s := on { shaped with lds := { direct := [o] }, q := [(0, [{ id := 0, data := none }])] }
     aTile.saving = none ∧ (s.coreOf 0).lds.direct = o :: [] ∧ o.kind = .ldq ∧ o.held = none ∧ o.done = 0 ∧ (Walk.mk o.shape o.org 0 0 0).entries ≠ 0 ∧
     ∃ l s', readEntry 0 ⟨o.shape, o.org, 0, 0, 0⟩ 0 s = .ok (.ok l) s') ∧
    (let e : QEnt := { id := 0, data := some (bytesOf 512 7) }
     let s := evt { core := 0, num := 8 } (on { shaped with sts := { binds := [(8, bound)] }, q := [(8, [e])] })
     (s.coreOf 0).binding 8 = some bound ∧ (s.coreOf 0).queue 8 = e :: [] ∧ bound.walk.entries = 1 ∧ bound.deliv + 1 = 1 ∧
     ∃ s', writeEntry 0 bound.walk (bound.deliv % bound.walk.entries) (fun n => pure (laneOf bound.shape (bytesOf 512 7) n))
       bound.shape.lanes s = .ok (.ok ()) s') ∧
    (let o : DirectOp := { kind := .stq, d := 8, shape := aShape, org := [0, 0, 0, 0], data := [bytesOf 512 7] }
     let s := on { shaped with sts := { direct := [o] } }
     (s.coreOf 0).sts.direct = o :: [] ∧
     ∃ s', writeEntry 0 ⟨o.shape, o.org, 0, 0, 0⟩ 0 (fun n => pure (laneOf o.shape (o.data.getD 0 []) n)) o.shape.lanes s =
       .ok (.ok ()) s') ∧
    (let h : HeldFault := { code := .align, va := 3, lane := 2, entry := 0 }
     let s := evt { core := 0, sq := .ld } (on { shaped with lds := { binds := [(0, { bound with held := some h })] } })
     heldQueue (s.coreOf 0) .ld = some (0, h) ∧ ((s.coreOf 0).seq .ld).run ≠ .trapped ∧ (s.coreOf 0).trap.mode = false ∧
     aTile.nrec.entryHalf .ctl 3 ≠ 0 ∧ (s.coreOf 0).ctl.remote = none) := by
  refine ⟨⟨by decide, by decide, by decide, by decide, ?_⟩, ⟨by decide, ?_⟩, by decide +kernel,
    ⟨by decide, by decide, by decide, by decide, by decide, by decide, ?_⟩,
    ⟨by decide, by decide +kernel, by decide, by decide, ?_⟩, ⟨by decide +kernel, ?_⟩, by decide⟩
  · exact ok_ok (by decide +kernel)
  · exact ok_error _ (by decide +kernel)
  · exact ok_ok (by decide +kernel)
  · exact ok_done (by decide +kernel)
  · exact ok_done (by decide +kernel)

/-- Core 0 once the destination of its RPUT has granted an entry. -/
def grantedTo (s : State) : State :=
  s.updCore 0 fun k => { k with
    mqWait := if k.st.granted.isSome then k.mqWait else s.cycle - k.st.grantSince.getD s.cycle
    st := { k.st with grantSince := none, put := none, granted := some 0 } }

theorem wit_remotePutsComplete :
    (let k1 : Core := { aCore with windows := [(31, mqWindow)] }
     let s : State := { cores := [(0, { aCore with sts := { n := [(2, 1)] } }), (1, k1)] }
     s.here.tile = some aTile ∧ fieldsOk .st (.rput ⟨1, 2, 0, 31⟩) = true ∧ (s.here.nreg .st 1).toNat % 64 = 0 ∧
     (s.here.nreg .st 2).toNat = 1 ∧ mqFree s aTile.reg.id 1 31 = true ∧
     (∃ l s', spLoad s.core 0 64 (grantedTo s) = .ok l s' ∧ SMap.find (s'.coreOf 1).windows 31 = some mqWindow) ∧
     mqFree s aTile.reg.id 2 31 = false ∧ s.here.st.grantSince = none) ∧
    (let s : State := { on { aCore with st := { aCore.st with grantSince := some 0 } } with cycle := 0x1B_7740 }
     mqFree s aTile.reg.id 2 31 = false ∧ s.here.st.grantSince = some 0 ∧ max 1 s.here.mqBound ≤ s.cycle - 0) ∧
    (let s := evt { core := 1, num := 0, idx := 31, flag := true } { cores := [(1, { aCore with windows := [(31, mqWindow)] })] }
     mqFree s s.ev.num s.ev.core s.ev.idx = true) ∧
    (let p : PutAsk := { core := 1, win := 31, src := 0, size := 64, sem := none }
     let s := evt { core := 0, sq := .st }
       { cores := [(0, { aCore with st := { aCore.st with put := some p, grantSince := some 0 } }), (1, { aCore with windows := [(31, mqWindow)] })] }
     (s.coreOf 0).tile = some aTile ∧ aTile.saving = none ∧ (s.coreOf 0).st.put = some p ∧ (s.coreOf 0).st.grantSince.isSome = true ∧
     mqFree s aTile.reg.id p.core p.win = true ∧ ∃ l s', spLoad 0 p.src p.size (grantedTo s) = .ok l s') ∧
    (let p : PutAsk := { core := 1, win := 31, src := 0, size := 64, sem := none }
     let w : SeqState := { aCore.st with put := some p, grantSince := some 0 }
     let k : Core := { aCore with ctl := w, st := w }
     k.tile = some aTile ∧ aTile.saving = none ∧ (k.seq .ctl).put = some p ∧ (k.seq .st).put = some p ∧
     max 1 k.mqBound ≤ 0x1B_7740 - (k.seq .st).grantSince.getD 0x1B_7740 ∧ k.trap.mode = false ∧
     aTile.nrec.entryHalf .ctl 3 ≠ 0 ∧ k.ctl.remote = none) ∧
    (let m : MqMsg := { s := 0, data := some (bytesOf 64 7) }
     let w : Window := { mqWindow with mq := { mqWindow.mq with res := 1, msgs := [m] } }
     aCore.tile = some aTile ∧ SMap.find ({ aCore with windows := [(31, w)] } : Core).windows 31 = some w ∧ w.mq.msgs = [m] ∧ m.landed = false ∧
     m.sent = none ∧ 64 ≤ w.mq.esz ∧ m.job = none ∧ m.sem = none ∧ w.mq.tail = m.s) :=
  ⟨⟨by decide, by decide, by decide, by decide, by decide, ⟨_, _, rfl, rfl⟩, by decide, rfl⟩, by decide,
   by decide, ⟨by decide, by decide, by decide, by decide, by decide, _, _, rfl⟩, by decide, by decide +kernel⟩


/-! Compute. -/

/-- VADD of V1 and V2 to V3 on S32 lanes, an MLS from scratchpad offset 0, an MMA of 8 rows and 2 K steps, VPEN. -/
def vaddU : VUnit :=
  { slot := .a, t := { dst := 3, sa := 1, sb := 2, sc := 0, fmt := 3, rm := 0, sat := 0, mask := 0, pk := 0, std := 0, sta := 0
                       stb := 0, stc := 0, aux := 0, imm := 0, rsv := 0 } }
def mmaT : MTmpl :=
  { acc := 0, row := 0, dst := 0, sa := 0, sc := 0, fmt := 9, fw := 9, opt := 6, str := 0, std := 0, sta := 0, stc := 0
    addr := 0, xtra := 2, aux := 0, rsv := 0 }
def mlsT : MTmpl := { mmaT with fmt := 0, fw := 0, opt := 1, xtra := 0 }
def vpenWord : QWord := 0x2E00_0040_D000_0000_0008_FE80_0000_0000

theorem wit_reservedFieldsTrap : fieldsOk (seqFor (on aCore) (.shri ⟨1, 2, 64⟩)) (.shri ⟨1, 2, 64⟩) = false ∧
    fieldsOk (seqFor (on aCore) (.sbindSt ⟨7, 0, 0, 0⟩)) (.sbindSt ⟨7, 0, 0, 0⟩) = false := by decide

theorem wit_templatesIssue :
    (on aCore).here.tile = some aTile ∧
    ∀ i ∈ [Instr.vadd vaddU, .mls mlsT, .mmaM8K2 mmaT, .mnop],
      opAccepts i = true ∧ opReady aCore i = true ∧
      (∀ e ∈ issueTraps aCore aTile i ++ queueTraps aCore [⟨0, i, none⟩], e.1 = false) ∧ queuesReady aCore [⟨0, i, none⟩] = true ∧
      ∀ ch ∈ opChunks aCore [⟨0, i, none⟩], touchChunks 0 (ch * 4096) 1 (on aCore) = .ok () (on aCore) := by
  refine ⟨rfl, fun i h => ?_⟩
  simp only [List.mem_cons, List.not_mem_nil, or_false] at h
  rcases h with rfl | rfl | rfl | rfl <;> refine ⟨by decide, by decide, by decide +kernel, by decide, fun ch _ => ?_⟩ <;>
    exact Laws.touchChunks_bare fun y => Laws.windowAt_nil rfl y

theorem wit_vectorIntegerResults : vaddU.t.fmt.toNat ∈ [1, 2, 3, 5, 6, 7] ∧ vaddU.t.sat = 0 ∧ vaddU.t.mask = 0 ∧
    vaddU.t.aux.getLsbD 15 = false := by decide

/-- The largest code of E4M3, the lowest subnormal of FP16, and the first power of two beyond FP16's range. -/
theorem wit_floatRounding :
    (let p := Fmt.e4m3.params
     Fmt.e4m3.isFloat = true ∧ 0xFE < 2 ^ (p.eb + p.mb + 1) ∧ 0xFE % 2 ^ (p.eb + p.mb) ≤ p.max) ∧
    (let p := Fmt.fp16.params
     Fmt.fp16.isFloat = true ∧ 1 < 2 ^ (p.eb + p.mb + 1) ∧ 1 % 2 ^ (p.eb + p.mb) ≤ p.max ∧ p.inf ≠ 0 ∧
     (0 < 1 ∧ (p.bias : Int) + 1 < Nat.log2 1 + 17)) := by decide

theorem wit_floatingLaneResults :
    (∀ u ∈ [{ vaddU with t := { vaddU.t with fmt := 0xD } }, { vaddU with t := { vaddU.t with fmt := 0x9, rm := 1, sat := 1 } }],
      (∃ F, fmtOf u.t.fmt.toNat = some F ∧ F.isFloat = true ∧ 8 ≤ F.width) ∧
      (∃ rm, rmOf u.t.rm.toNat = some rm ∧ rm ≠ .stoch) ∧ u.t.mask = 0) ∧
    (0 < 4095 ∧ 4095 < 4096 ∧ 320 ≤ 320) := by
  refine ⟨fun u h => ?_, by decide⟩
  simp only [List.mem_cons, List.not_mem_nil, or_false] at h
  rcases h with rfl | rfl <;> exact ⟨⟨_, rfl, by decide, by decide⟩, ⟨_, rfl, by decide⟩, rfl⟩

theorem wit_reductionsAndScans :
    ∀ x ∈ [((3 : BitVec 4), 32), (0xD, 32), (0x9, 8)],
      (∃ F, fmtOf x.1.toNat = some F ∧ F.width = x.2 ∧ (F.isInt = true ∨ F.isFloat = true ∧ 8 ≤ F.width)) ∧
      (lanesOf x.2 (aCore.source 1)).length = 4096 / x.2 := by
  intro x h
  simp only [List.mem_cons, List.not_mem_nil, or_false] at h
  rcases h with rfl | rfl | rfl <;> exact ⟨⟨_, rfl, by decide, by decide⟩, by decide +kernel⟩

/-- Between formats of one width, to a wider one and to a narrower one; a row of an accumulator to FP16. -/
theorem wit_conversionsAndAccumulatorReads :
    (∀ x ∈ [((3 : BitVec 4), (0xD : Nat), (0 : Nat)), (0x9, 0xD, 3), (0xD, 0x9, 3)],
      ∃ F D, fmtOf x.1.toNat = some F ∧ fmtOf x.2.1 = some D ∧ (lanesOf F.width (aCore.source 1)).length = 4096 / F.width ∧
        (F.width = D.width ∨ F.width < D.width ∧ x.2.2 < D.width / F.width ∨ D.width < F.width ∧ x.2.2 < F.width / D.width)) ∧
    ∃ D, fmtOf 0xD = some D ∧ rmOf 0 = some .rne ∧ (aCore.accRow 0 63).length = 128 ∧ (0 + 1) * 128 * D.width ≤ 4096 := by
  refine ⟨fun x h => ?_, _, rfl, rfl, by decide +kernel, by decide⟩
  simp only [List.mem_cons, List.not_mem_nil, or_false] at h
  rcases h with rfl | rfl | rfl <;> exact ⟨_, _, rfl, rfl, by decide +kernel, by decide⟩

/-- No valid logit; two of them with a temperature of 0, and with one of 1. -/
theorem wit_drawResults :
    (∀ i : Nat, ¬∃ v : Val, [Val.nan, .inf true][i]? = some v ∧ v ≠ .nan ∧ v ≠ .inf true) ∧
    (let x : List Val := [.nan, .num false 1 0, .num true 1 0]
     (∃ v : Val, x[1]? = some v ∧ v ≠ .nan ∧ v ≠ .inf true ∧
       (∀ w ∈ x, v.lt w = false) ∧ (∀ w ∈ x.take 1, w ≠ .nan → w.lt v = true)) ∧
     (Val.num false 0 0).isZero = true ∧
     ¬((Val.num false 1 0) = .nan ∨ (Val.num false 1 0) = .inf false ∨ (Val.num false 1 0).neg? = true ∨ (Val.num false 1 0).isZero = true)) := by
  refine ⟨fun i h => ?_, ⟨_, rfl, by decide, by decide, by decide, by decide⟩, by decide, by decide⟩
  obtain ⟨v, h, h1, h2⟩ := h
  match i with
  | 0 => cases h; exact h1 rfl
  | 1 => cases h; exact h2 rfl
  | n + 2 => cases h

/-- A bundle with its A slot present, unconditional or guarded by P1. -/
def aHeader (g : BitVec 6) : BundleHdr :=
  { hold := 0, g := g, popSrc := 0, popN := 0, pushDst := 0, pushN := 0, lbs := 0, lbe := 0, rsv := 0 }
def plainPatch : Patch := { idx := 0, field := 0, mode := 0, rsv := 0, val := 0 }

theorem wit_bundlesComplete :
    let k : Core := { aCore with comp := { tmpl := [(64, vpenWord)] } }
    let s := on k
    let ps : List (Option Patch) := [none, some plainPatch, none, none]
    let forms := (slotted ps).map fun e => e.2.map (formCopy k e.1)
    let copies := forms.map fun x => x.bind okCopy
    s.here.tile = some aTile ∧ s.here.comp.lateVa = none ∧ hdrBad (aHeader 47) (ps.map Option.isSome) = false ∧
    (∀ p ∈ ps, ∀ x, p = some x → patchBad x = false) ∧ loopBad k aTile (aHeader 0) 8 = false ∧
    (∀ x ∈ forms, ∀ e, x ≠ some (.error e)) ∧ Reg.p 47 ∉ busyRegs k true ∧ k.preg 47 = false ∧ k.preg 0 = true ∧
    ∃ u, issueOps 0 (aHeader 0) (slotOps (bundleSlots k (aHeader 0) copies)) (advanceTraps (bundleSlots k (aHeader 0) copies)) s =
      .ok () u := by
  refine ⟨by decide, by decide, by decide, ?_, by decide, ?_, by decide, by decide, by decide, ok_unit (by decide +kernel)⟩
  · intro p hp x hx
    subst hx
    simp only [List.mem_cons, Option.some.injEq, List.not_mem_nil, or_false, reduceCtorEq, false_or] at hp
    subst hp
    decide
  · intro x hx e he
    have h : ∀ y ∈ (slotted [none, some plainPatch, none, none]).map fun e =>
        e.2.map (formCopy { aCore with comp := { tmpl := [(64, vpenWord)] } } e.1),
        (match y with
         | some (.error _) => false
         | _ => true) = true := by decide
    have := h x hx
    rw [he] at this
    cases this

theorem wit_engineEventsComplete :
    (∀ w ∈ [EngWrite.vreg 31 [some 1], .kreg 7 1 1, .pred 47 true, .acc 3 63 [], .slice 511, .maskTile 1 [], .queue 15 0 []],
      let o : EngOp := { id := 4, bundle := 0, slot := 1, writes := [w] }
      let k : Core := { aCore with ops := [o] }
      (k.ops.find? fun o => o.id = 4) = some o ∧ opMayEnd k o = true ∧ o.writes = [w] ∧ o.late = none) ∧
    (let p : TokenPush := ⟨0, .ctl, 8⟩
     bundleDone { aCore with comp := { pushes := [p] } } p.bundle = true) ∧
    (let k : Core := { aCore with comp := { lateVa := some 0x80 } }
     k.tile = some aTile ∧ k.comp.lateVa = some 0x80 ∧ k.cmp.run ≠ .trapped ∧ k.trap.mode = false ∧
     aTile.nrec.entryHalf .ctl 3 ≠ 0 ∧ k.ctl.remote = none) ∧
    (let x : MlsRun := ⟨0, mlsT, 0, true, false, false, 0⟩
     let k : Core := { aCore with mx := { load := [x] } }
     k.mx.load = x :: [] ∧ k.mx.shadowRun = .empty ∧ x.started = false ∧ x.sp = true ∧ mlsPoison (on k) k x = none) ∧
    (let x : MmaRun := { id := 0, bundle := 0, copy := mmaT, m := 64, steps := 2 }
     let k : Core := { aCore with mx := { mmas := [x], shadowRun := .full } }
     k.mx.mmas = x :: [] ∧ (∀ p ∈ k.ops, p.compute = true → x.id ≤ p.id) ∧ takesPlane x = true ∧ k.mx.shadowRun = .full ∧
     stepPoison k x = none ∧ x.m ≤ 64 ∧ ({} : Core).mx.shadowRun ≠ .full ∧ (∀ t, k.tile = some t → t.saving = none) ∧
     ({ aTile with saving := some (.yield, 0) } : Tile).saving.isSome = true) ∧
    (let k : Core := { aCore with mx := { shadowRun := .loading } }
     k.mx.shadowRun = .loading) := by
  refine ⟨fun w h => ?_, by decide, by decide, by decide +kernel,
    ⟨by decide, by decide, by decide, by decide, by decide +kernel, by decide, by decide, fun t h => by cases h; rfl, rfl⟩, by decide⟩
  simp only [List.mem_cons, List.not_mem_nil, or_false] at h
  rcases h with rfl | rfl | rfl | rfl | rfl | rfl | rfl <;> decide


/-! The fabric. -/

/-- A job of this device alone, number 5, that a supervisor region owns. -/
def aJob : JobEntry := { valid := true, period := 100, job := 5, dev := [(0, 1)] }
def jobbed (s : State) : State := { s with fab := { s.fab with jobs := [(63, aJob)] } }

theorem wit_fabricCommandsComplete :
    (let k : Core := { aCore with windows := [(0, mqWindow)] }
     let s := on k
     s.here.tile = some aTile ∧ fieldsOk .ctl (.msendP ⟨0, 1, 0, 5⟩) = true ∧ putReserved (k.sreg 1) = false ∧
     putSem (k.sreg 1) = 0 ∧ (k.sreg 2).toNat % 64 = 0 ∧ (k.sreg 2).toNat + 64 ≤ aTile.reg.spTile ∧
     (k.sreg 2).toNat + 64 ≤ Config.scratchBytes ∧ putDev (k.sreg 1) = s.devId ∧ mqFree s aTile.reg.id 0 0 = true ∧
     ∃ l s', spLoad s.core 0 64 (s.updSeq s.core .ctl fun x => { x with grantSince := none, put := none, granted := none }) = .ok l s' ∧
       SMap.find (s'.coreOf 0).windows 0 = some mqWindow) ∧
    (let s := on aCore
     mqFree s aTile.reg.id 0 0 = false ∧ s.here.ctl.grantSince = none) ∧
    (let s := on aCore
     fieldsOk .ctl (.msendH ⟨0, 59, 1, 5⟩) = true ∧ (s.here.sreg 59).toNat < 2 ^ 24 ∧ (s.here.sreg 59).toNat / 2 ^ 16 = s.devId ∧
     ¬256 ≤ (s.fi 0).inbox.length + (s.fi 0).promised ∧
     256 ≤ (({ clusters := [(0, { fi := { promised := 256 } })] } : State).fi 0).inbox.length +
       (({ clusters := [(0, { fi := { promised := 256 } })] } : State).fi 0).promised) ∧
    (fieldsOk .ctl (.disp ⟨0, 60, 0, 5⟩) = true ∧ dispReserved aCore 60 = false ∧ ((on aCore).gate 0 0).run = 0 ∧
     (({ clusters := [(0, { fi := { sets := [(0, { run := 1 })] } })] } : State).gate 0 0).run = 1 ∧
     (let s : State := { cores := [(0, aCore)], clusters := [(0, { fi := { sets := [(0, { run := 2, h := 64, fmt := 9 })] } })] }
      (s.gate 0 0).run = 2 ∧ (s.here.sreg 60).toNat % 64 = 0 ∧ (s.here.sreg 63).toNat % 64 = 0 ∧
      0 + 1 * 64 * gateZ 9 ≤ aTile.reg.spTile)) ∧
    (let s := regs [(2, 64 * 2 ^ 16)]
     fieldsOk .ctl (.cmb ⟨0, 1, 0xC, 0⟩) = true ∧ combH ((s.here.sreg 2).toNat / 2 ^ 16 % 2 ^ 14) = true ∧
     (s.here.sreg 2).toNat % 2 ^ 7 = 0 ∧ (s.here.sreg 2).toNat < 2 ^ 30 ∧ (s.here.sreg 3).toNat % 64 = 0 ∧
     combRows s.core aTile 0 0 0 0xC 64 0 0 s = .ok ([], none) s ∧ each [] (sendComb 0) s = .ok () s) ∧
    (fieldsOk .ctl (.qwait ⟨30, 1, 23, 5⟩) = true ∧
     (let k : Core := { aCore with ctl := { aCore.ctl with remote := some (.done [1, 0, 0, 0, 0, 0, 1]) } }
      k.ctl.remote = some (.done [1, 0, 0, 0, 0, 0, 1])) ∧
     (on aCore).here.ctl.remote = none ∧ (on aCore).here.ctl.qwait = none ∧ jobEntryOf (on aCore) 5 = none ∧
     jobEntryOf (jobbed (on aCore)) 5 = some 63 ∧
     (let k : Core := { aCore with ctl := { aCore.ctl with qwait := some (5, 0), remote := some (.failed .watchdog) } }
      k.ctl.qwait ≠ none ∧ k.ctl.remote = some (.failed .watchdog)) ∧
     (let s : State := { jobbed (regs [(1, 10)]) with cycle := 10 }
      (s.here.sreg 1).toNat ≠ 0 ∧ (some 0).getD s.cycle + (s.here.sreg 1).toNat ≤ s.cycle)) ∧
    (∀ imm ∈ [(0x1F0005 : BitVec 24), 0x1F1005, 0x1F2005, 0x1F3005, 0x1F4005, 0x1F5005, 0x1F6005], fieldsOk .ctl (.qread ⟨1, 0, 0, imm⟩) = true) := by
  refine ⟨⟨by decide, by decide, by decide, by decide, by decide, by decide, by decide, by decide, by decide, _, _, rfl, rfl⟩,
    by decide, by decide, by decide,
    ⟨by decide, by decide, by decide, by decide, by decide, rfl, rfl⟩, ⟨by decide, by decide, by decide, by decide, by decide, by decide +kernel, by decide, by decide⟩, fun imm h => ?_⟩
  simp only [List.mem_cons, List.not_mem_nil, or_false] at h
  rcases h with rfl | rfl | rfl | rfl | rfl | rfl | rfl <;> decide

theorem wit_fabricEventsComplete :
    (let a : HostAtom := { core := 0, sq := .ctl, op := .add, size := 8, loc := 0, v := 1, w := 0, fallback := true, since := 0 }
     let s : State := { on aCore with hostAtoms := [a], cycle := 0x1B_7740 }
     s.hostAtoms.filter (fun a => a.core = 0 && a.sq = .ctl) = [a] ∧ a.live = true ∧ a.fallback = true ∧
     a.since + max s.hl.hatom 1 ≤ s.cycle ∧ s.sv.claim = false ∧
     ¬(a.fallback = false ∨ a.seq.isSome = true ∧ s.sv.claim = true) ∧
     (let b := { a with seq := some 1 }
      let s : State := { on aCore with hostAtoms := [b], sv := { claim := true } }
      b.fallback = false ∨ b.seq.isSome = true ∧ s.sv.claim = true) ∧
     (evt { core := 0, sq := .ctl, reply := .value 7 } s).ev.reply = .value 7 ∧
     (evt { core := 0, sq := .ctl, reply := .unsupported } s).ev.reply = .unsupported) ∧
    (let s := evt { idx := 1, flag := true } { clusters := [(1, { fi := { promised := 255 } })] }
     s.ev.flag = true ∧ (s.fi s.ev.idx).inbox.length + (s.fi s.ev.idx).promised < 256) ∧
    (let m : HandlerMsg := { hidx := 3, pay := [0, 0, 0, 0], job := 5 }
     let s := sched {} { clusters := [(1, { fi := { inbox := [m], inboxFull := true } })] }
     (s.fi 1).inbox = m :: [] ∧ (∃ x u, enqueueHandler 1 m s = .ok x u) ∧ (s.fi 1).inboxFull = true ∧ (freeSlot s).isSome = true ∧
     m.sent.any (sentBefore s) = false ∧
     (({ clusters := [(1, { fi := { inbox := [m] } })] } : State).fi 1).inboxFull = false) ∧
    (let m : CombMsg := { handle := 0, weight := 0, mask := 1, fy := 0xC, h := 64, row := some (bytesOf 256 0), job := 5, srcDev := 0, srcCore := none }
     let s : State := { fab := { combs := [m, { m with srcCore := some 3, row := none }] } }
     s.fab.combs[0]? = some m ∧ firstOfSender s 0 m = true ∧ (∃ u, applyComb m s = .ok () u) ∧ m.row.isSome = true ∧
     firstOfSender s 1 { m with srcCore := some 3, row := none } = true) ∧
    (let s : State := { jobbed {} with cycle := 100 }
     let j := s.jobAt 63
     jobEntryOf s j.job = some 63 ∧ j.valid = true ∧ j.period ≠ 0 ∧ jobLeader j = some s.devId ∧ j.since + j.period ≤ s.cycle ∧ (∀ w ∈ s.fab.waves, w.entry ≠ 63) ∧
     (let w : Wave := { entry := 63, began := 0, first := some (1, 1, 0) }
      (({ s with fab := { s.fab with waves := [w] } } : State).fab.waves.find? fun w => w.entry = 63) = some w) ∧
     (let w : Wave := { entry := 63, began := 0 }
      (({ s with fab := { s.fab with waves := [w] } } : State).fab.waves.find? fun w => w.entry = 63) = some w ∧ w.first = none)) ∧
    (let k : Core := { aCore with ctl := { aCore.ctl with qwait := some (5, 10), grantSince := some 0 } }
     let s : State := { on k with cycle := 10 }
     (s.coreOf 0).ctl.qwait = some (5, 10) ∧ (s.coreOf 0).ctl.remote = none ∧
     (s.coreOf 0).ctl.grantSince.getD s.cycle + 10 ≤ s.cycle) := by
  refine ⟨by decide, by decide, ⟨by decide, ok_val (by decide +kernel), by decide, by decide, by decide, by decide⟩,
    ⟨by decide +kernel, by decide +kernel, ok_unit (by decide +kernel), by decide, by decide +kernel⟩, by decide +kernel, by decide⟩

/-- A gate of one expert and 64 elements of one byte, described at 0x100 (13 R391). -/
def gateMem (s : State) : State :=
  { mapped s with m := { s.m with mem := [(0x104, 64), (0x108, 1), (0x10A, 9), (0x10B, 1)] ++ tables } }

theorem wit_gateSetsComplete :
    (let a : GateAsk := { va := 0x100, region := 0, free := true }
     let s : State := { clusters := [(2, { fi := { sets := [(15, { run := 1, ask := some a })] } })] }
     (s.gate 2 15).ask = some a ∧ (∀ d ∈ (s.fi 2).disps, d.set ≠ 15) ∧ a.free = true) ∧
    (let a : GateAsk := { va := 0x100, region := 0, free := false }
     let s := gateMem { clusters := [(2, { fi := { sets := [(15, { run := 1, ask := some a })] } })] }
     let s' := s.updGate 2 15 fun g => { g with off := 0, len := 0 }
     (s.gate 2 15).ask = some a ∧ (∀ d ∈ (s.fi 2).disps, d.set ≠ 15) ∧
     okThen (fun x u => match x with
       | .ok (some g) => gatePlace (u.fi 2) (gateBytes g.h g.e g.fmt) = some 0
       | _ => false) (unitTry (readGate ((effRegion s' a.region).ctx none) a.va) s') = true ∧
     okThen (fun x _ => match x with
       | .ok none => true
       | _ => false) (unitTry (readGate ((effRegion s' a.region).ctx none) 0x200) s') = true) ∧
    (let s := gateMem { clusters := [(2, { fi := { sets := [(15, { run := 2, e := 1 })] } })] }
     (s.gate 2 15).run = 2 ∧ ∃ b u, unitTry (do
       let l ← readSpan ((effRegion s 0).ctx none) 0x100 64
       readSpan ((effRegion s 0).ctx none) (ofBytes ((l.drop 0x18).take 8)) (4 * (s.gate 2 15).e)) s = .ok (.ok b) u) ∧
    (let d : Disp := { core := 0, off := 0, n := 2, set := 0, rstride := 1, seqId := 0, first := 0, handle := 0, job := 5 }
     let s : State := { clusters := [(2, { fi := { disps := [d] } })] }
     (s.fi 2).disps = d :: [] ∧ (∃ x v, tokenVec 2 d s = .ok x v) ∧ (∃ u, scoreToken 2 d [] s = .ok () u) ∧
     d.next + 1 < d.n ∧ (∃ x v, tokenVec 2 { d with next := 1 } s = .ok x v) ∧
     (∃ u, scoreToken 2 { d with next := 1 } [] s = .ok () u) ∧ d.n ≤ 1 + 1) := by
  refine ⟨by decide, ⟨by decide, by decide, by decide +kernel, by decide +kernel⟩, ⟨by decide, ok_ok (by decide +kernel)⟩,
    ⟨by decide, ok_val (by decide +kernel), ok_unit (by decide +kernel), by decide, ok_val (by decide +kernel), ok_unit (by decide +kernel), by decide⟩⟩

/-- A flit without payload, number 0, and its CRC-32C. -/
def aFlit : List Byte := bytesOf 124 0 ++ bytesOf 4 (crc32c (bytesOf 124 0))

theorem aFlit_good : flitGood aFlit = true := by
  have h : crc32c (bytesOf 124 0) < 2 ^ 32 := BitVec.isLt _
  have e1 : aFlit.take 124 = bytesOf 124 0 := List.take_left' (Laws.bytesOf_length ..)
  have e2 : aFlit.drop 124 = bytesOf 4 (crc32c (bytesOf 124 0)) := List.drop_left' (Laws.bytesOf_length ..)
  have e3 : aFlit.length = 128 := by rw [aFlit, List.length_append, Laws.bytesOf_length, Laws.bytesOf_length]
  simp only [flitGood, e1, e2, e3, Laws.ofBytes_bytesOf]
  rw [Nat.mod_eq_of_lt (by omega)]
  simp

/-- A read of 256 bytes at 0x1000 from device 3. -/
def aRead : PeerIn := ⟨3, 9, 0, ({ dst := 0, src := 3, kind := 4, target := 0x1000, tag := 9, special := 256 * 2 ^ 16 } : Packet).bytes, none⟩
/-- A write of 256 bytes there, with a window that lets it in and a line of its that cluster 1 pins. -/
def aWrite : PeerIn := ⟨3, 9, 0, ({ dst := 0, src := 3, kind := 4, target := 0x1000, tag := 9, special := 256 * 2 ^ 16 + 1 } : Packet).bytes, none⟩
def pinnedWrite (since : Option Nat) : State :=
  { fab := { peerIn := [{ aWrite with since := since }], wbase := [(0, 3 <<< 62)], wlim := [(0, 1 <<< 16)] }
    clusters := [(1, { near := [⟨0x10, 0, []⟩] })] }

/-- A link in reset with a message sent and not received, a request likewise, and a packet not sent yet. -/
def resetLink : Link :=
  let m : Packet := { dst := 3, src := 0, kind := 0, job := 5 }
  { run := 2, resync := true
    out := [⟨0, m.bytes, some 0⟩, ⟨1, { m with kind := 4 }.bytes, some 1⟩, ⟨0, m.bytes, none⟩] }

theorem wit_linkEventsComplete :
    (let s := evt { idx := 0, bytes := aFlit } { fab := { links := [(0, { run := 2 })] } }
     (s.link 0).run = 2 ∧ flitGood s.ev.bytes = true ∧ ofBytes ((s.ev.bytes.drop 120).take 2) % 2 ^ 12 = (s.link 0).rxNext) ∧
    flitGood [] = false ∧
    (let f : Flit := { seq := 4095, bytes := [], resent := 15 }
     let x : Link := { run := 2, replay := [f] }
     x.replay = f :: [] ∧ f.seq = (evt { num := 4095 } {}).ev.num ∧ (∃ f ∈ x.replay, max 1 0x10 ≤ f.resent + 1) ∧ x.replay ≠ [] ∧
     x.progress + ({} : Fabric).resetClk ≤ 0x1B_7740) ∧
    (let s := jobbed { fab := { links := [(0, resetLink)] } }
     let x := s.link 0
     let gone := (((x.out.filter fun p => p.last.isSome).drop 0).map fun p => packetOf p.bytes).filter Packet.isMessage
     x.run = 2 ∧ x.resync = true ∧ gone.map (·.job) = [5] ∧ jobEntryOf s 5 = some 63 ∧ (∃ p ∈ gone, p.job = 5) ∧
     okThen (fun _ _ => true) (postLosses [5] s) = true) ∧
    (let p := aRead.bytes
     (packetOf p).dst = 0 ∧ (packetOf p).isMessage = false ∧ (packetOf p).kind = 4 ∧
     (let a := ({ dst := 0, src := 3, kind := 5, tag := 9 } : Packet).bytes
      (packetOf a).dst = 0 ∧ (packetOf a).isMessage = false ∧ (packetOf a).kind = 5)) ∧
    (let s : State := { fab := { peerIn := [aRead], wbase := [(0, 1 <<< 63)], wlim := [(0, 1 <<< 16)] } }
     let p := packetOf aRead.bytes
     s.fab.peerIn[0]? = some aRead ∧ firstOfPeer s.fab.peerIn 0 aRead = true ∧ (∀ d ∈ s.fab.peerDone, ¬(d.1 = aRead.src ∧ d.2.1 = aRead.tag)) ∧ p.special % 2 ^ 8 = 0 ∧
     p.special / 2 ^ 16 % 2 ^ 32 = 256 ∧ p.target = 0x1000 ∧
     (∀ l ∈ upto (0x1000 / 256) ((0x1000 + 256 + 255) / 256 - 0x1000 / 256), pinnedElsewhere s none (l * 256) = false) ∧
     windowAllows s 0x1000 256 false = true ∧ 0x1000 + 256 ≤ Config.memBytes ∧ s.m.poison = [] ∧
     windowAllows {} 0x1000 256 false = false) ∧
    (∀ since ∈ [none, some 0],
      let s := pinnedWrite since
      let q := { aWrite with since := since }
      let p := packetOf q.bytes
      s.fab.peerIn[0]? = some q ∧ firstOfPeer s.fab.peerIn 0 q = true ∧ s.fab.peerDone = [] ∧ p.special % 2 ^ 8 ≠ 0 ∧
      windowAllows s p.target (p.special / 2 ^ 16 % 2 ^ 32) true = true ∧
      p.target / 256 ≤ 0x10 ∧ 0x10 * 256 < p.target + p.special / 2 ^ 16 % 2 ^ 32 ∧ pinnedElsewhere s none (0x10 * 256) = true ∧
      s.cycle < since.getD s.cycle + s.m.scopeHold ∧
      (let u : State := { pinnedWrite (some 0) with cycle := s.m.scopeHold }
       (some 0).getD u.cycle + u.m.scopeHold ≤ u.cycle)) ∧
    (let q : PeerIn := ⟨3, 9, 0, ({ dst := 0, src := 3, kind := 5, tag := 9, data := bytesOf 256 1 } : Packet).bytes, none⟩
     let a : PeerAsk := { loc := 5 * 2 ^ 56, tag := 9 }
     let s : State := { fab := { peerAnswers := [q] }, peerAsks := [a] }
     s.fab.peerAnswers[0]? = some q ∧ firstOfPeer s.fab.peerAnswers 0 q = true ∧ (s.peerAsks.find? fun a => a.tag = q.tag && peerDev a.loc = q.src) = some a ∧
     a.kind = .read ∧ (packetOf q.bytes).special = 0) ∧
    ({} : Fabric).linken.testBit 7 = false ∧ ({ linken := 128 } : Fabric).linken.testBit 7 = true := by
  refine ⟨⟨by decide, aFlit_good, ?_⟩, by decide, by decide, by decide +kernel, by decide +kernel, by decide +kernel, by decide +kernel,
    by decide +kernel, by decide, by decide⟩
  show ofBytes ((aFlit.drop 120).take 2) % 2 ^ 12 = 0
  have : (aFlit.drop 120).take 2 = bytesOf 2 0 := by
    rw [aFlit, List.drop_append_of_le_length (by rw [Laws.bytesOf_length]; omega), show (bytesOf 124 0).drop 120 = bytesOf 4 0 from rfl,
      List.take_append_of_le_length (by rw [Laws.bytesOf_length]; omega)]
    rfl
  rw [this]; rfl


/-! The caddy. -/

/-- Layer 0 of region 0 with one expert, 64 slots of 128 bytes, and its saucer at 0x10_0000 (14 R409). -/
def aLayer : Layer :=
  { region := 0, lcl := 3, pp := 0, sp := 0xF, vf := 9, e := 1, slices := 0, flush := 0, recP := bytesOf 128 0, recS := [],
    sbase := 0x10_0000, tgbase := 0x20_0000, slots := 64, slotb := 128, h := 64, nxSet := 0, nxCluster := 0, nxv := false }

/-- An entry of key 0 with a DRAM record at 0x30_0000 and a flash record on port 0, both in format 0 (14 R407). -/
def anEnt : TagEnt := { key := 0, dram := 1 <<< 63 ||| 0x30_0000, flash := 1 <<< 31 ||| 4, imgb := 12416 }

/-- Key 0 in entry 0, its layer loaded. -/
def brewed (e : TagEnt) (s : State) : State :=
  { mapped s with cd := { s.cd with tags := [(0, e)], layers := [(0, aLayer)], stage := [(0, 1 <<< 63 ||| 1)] } }

theorem wit_caddyCommandsComplete :
    (let s := on aCore
     s.here.tile = some aTile ∧ (s.here.sreg 0).toNat < 2 ^ 34 ∧ findTag s 0 = none ∧
     ∀ i ∈ [Instr.rlook ⟨1, 0, 0, 0⟩, .runpin ⟨1, 0, 0, 0⟩, .rfetch ⟨1, 0, 0, 0⟩, .revict ⟨1, 0, 0, 0⟩, .rpin ⟨1, 0, 0, 0⟩],
       fieldsOk .ctl i = true) ∧
    (let s := brewed anEnt (on aCore)
     findTag s 0 = some 0 ∧ layerOf s 0 = some aLayer ∧ outsideSubtree aTile.reg s aLayer.region = false ∧
     fieldsOk .ctl (.rlook ⟨1, 0, 0, 0⟩) = true ∧ fieldsOk .ctl (.rlook ⟨1, 0, 0, 1⟩) = true ∧ fieldsOk .ctl (.rlook ⟨1, 0, 0, 2⟩) = true ∧
     fieldsOk .ctl (.rlook ⟨1, 0, 0, 3⟩) = true ∧ fieldsOk .ctl (.rlook ⟨1, 0, 0, 4⟩) = true ∧
     (∃ x u, saucerItem (bowlOf s 0) s = .ok x u) ∧ SMap.find s.here.ctl.pinned s.here.ctl.pc.toNat = none ∧ sourceOf s (s.tag 0) (aLayer.fmt false) ≠ none ∧
     (s.tag 0).prim.run = 0 ∧ (s.tag 0).prim.pins = 0 ∧ fieldsOk .ctl (.rpin ⟨1, 0, 0, 0⟩) = true ∧
     fieldsOk .ctl (.rpin ⟨1, 0, 2, 0⟩) = true) ∧
    (let s := brewed { anEnt with prim := { run := 2, pins := 4094 } } (on { aCore with ctl := { aCore.ctl with pinned := [(0x1004, (0, false))] } })
     SMap.find s.here.ctl.pinned s.here.ctl.pc.toNat = some (0, false) ∧ (s.tag 0).key = 0 ∧ (s.tag 0).prim.run = 2 ∧
     (s.tag 0).prim.pins < 4095 ∧ 0 < (s.tag 0).prim.pins ∧ ∀ x ∈ s.cd.tags, x.2.stuck = none) ∧
    (let s := brewed { anEnt with prim := { run := 3 } } (on aCore)
     (s.tag 0).prim.run = 3 ∧ (s.tag 0).prim.pins = 0) ∧
    (let s := brewed { key := 0 } (on aCore)
     findTag s 0 = some 0 ∧ (s.tag 0).prim.run = 0 ∧ sourceOf s (s.tag 0) (aLayer.fmt false) = none) ∧
    (let s := brewed { anEnt with prim := { run := 1 } } (on aCore)
     (s.tag 0).prim.run = 1 ∧ (s.tag 0).prim.pins = 0) := by
  refine ⟨by decide +kernel, ⟨by decide +kernel, by decide +kernel, by decide +kernel, by decide, by decide, by decide, by decide, by decide, ok_val (by decide +kernel),
    by decide, by decide +kernel, by decide, by decide, by decide, by decide⟩, by decide, by decide, by decide +kernel, by decide⟩

/-- Core 0 with a tile of a supervisor. -/
def ruler (l : List (Nat × DWord)) : Core := { aCore with tile := some { aTile with reg := { aRegion with supv := true } }, s := l }

theorem wit_layersAndCatalogue :
    (let s := on aCore
     aTile.reg.supv = false ∧ s.here.tile = some aTile ∧
     ∀ i ∈ [Instr.rpolLayer ⟨1, 0, 0, 0⟩, .rpolUnlayer ⟨1, 0, 1, 0⟩, .rpolCat ⟨1, 1, 2, 0⟩, .rpolUncat ⟨1, 0, 3, 0⟩], fieldsOk .ctl i = true) ∧
    (let s := mapped (on (ruler []))
     (∃ t, s.here.tile = some t ∧ t.reg.supv = true) ∧ ((s.here.sreg 0).toNat % 128 = 0) ∧
     okThen (fun b u => okThen (fun x _ => x.toOption.isNone) (loadLayer b u)) (loadRange s.core 0 128 s) = true) ∧
    (let s := mapped (on (ruler []))
     ∃ w, initLayer 0 aLayer { s with cd := { s.cd with layers := [(0, aLayer)] } } = .ok () w) ∧
    (let s := brewed anEnt (on (ruler []))
     SMap.find ({} : State).cd.layers 0 = none ∧ SMap.find s.cd.layers 0 = some aLayer ∧ ∃ b u, layerBusy aLayer s = .ok b u) ∧
    (let s := mapped (on (ruler [(2, 1)]))
     (s.here.sreg 1).toNat % 64 = 0 ∧ 0 < (s.here.sreg 2).toNat ∧ (s.here.sreg 2).toNat ≤ 4096 ∧
     okThen (fun b u => (loadCats (pieces 64 1 b) u).1 = 1 && (findTag u 0).isNone) (loadRange s.core 0 64 s) = true) ∧
    (let s := brewed anEnt (on (ruler []))
     findTag (mapped (on (ruler []))) 0 = none ∧ findTag s 0 = some 0 ∧ layerOf s 0 = some aLayer ∧ fetching s 0 false = false ∧ fetching s 0 true = false ∧
     ∃ b h u, bowlOf s 0 = some b ∧ b.read s = .ok h u) ∧
    (let s : State := { on (ruler []) with cd := { tags := [(16, { anEnt with key := 1 })], layers := [(0, aLayer)] } }
     findTag s 1 = some 16 ∧ layerOf s 1 = some aLayer ∧ bowlOf s 16 = none ∧ fetching s 16 false = false ∧ fetching s 16 true = false) ∧
    (let s : State := { on (ruler []) with cd := { tags := [(0, anEnt)] } }
     findTag s 0 = some 0 ∧ layerOf s 0 = none) := by
  refine ⟨by decide, ⟨⟨_, rfl, by decide⟩, by decide, by decide +kernel⟩, ok_unit (by decide +kernel),
    ⟨by decide, by decide, ok_val (by decide +kernel)⟩, by decide +kernel,
    ⟨by decide, by decide, by decide, by decide, by decide, ?_⟩, by decide, by decide⟩
  obtain ⟨h, u, e⟩ := ok_val (r := (⟨aLayer, 0, 0⟩ : Bowl).read (brewed anEnt (on (ruler [])))) (by decide +kernel)
  exact ⟨⟨aLayer, 0, 0⟩, h, u, by decide, e⟩

/-- A tile of expert 0: one slot, from slot 63 on, on the primary copy. -/
def xTile : ExpertTile := { saucer := 0, tag := 0, sec := false, slice := 0, first := 63, count := 1, record := aRecord }

theorem wit_caddyEventsComplete :
    (let m : CopyMsg := { key := 1, vec := [], token := 0, seqId := 0, weight := 0, mask := 1, alt := 0, handle := 0, job := 5, srcDev := 0, srcCluster := 2 }
     let s : State := { cd := { arrivals := [m] } }
     s.cd.arrivals[0]? = some m ∧ (∀ y ∈ s.cd.arrivals.take 0, ¬(y.srcDev = m.srcDev ∧ y.srcCluster = m.srcCluster)) ∧
     ∃ x u, unitTry (arriveCopy m) s = .ok (.ok x) u) ∧
    (let s := { brewed { anEnt with prim := { run := 2 }, times := [0] } {} with cycle := 18000 }
     bowlOf s 0 = some ⟨aLayer, 0, 0⟩ ∧ ownCopy s 0 = some (false, false) ∧ waitedSlot s 0 18000 none = true ∧
     ∃ r u, decideTile ⟨aLayer, 0, 0⟩ 0 false howOwn false s = .ok r u) ∧
    (let s := { brewed { anEnt with times := [0], acted := some 10 } {} with cycle := 10 }
     bowlOf s 0 = some ⟨aLayer, 0, 0⟩ ∧ (s.tag 0).prim.run ≠ 2 ∧
     lostKey s ⟨aLayer, 0, 0⟩ = false ∧ waitedSlot s 0 (absThresh (effRegion s 0)) (s.tag 0).acted = true ∧
     ∃ u, absencePolicy ⟨aLayer, 0, 0⟩ (lostKey s ⟨aLayer, 0, 0⟩) s = .ok () u) ∧
    (let s := brewed { key := 0, times := [0] } {}
     bowlOf s 0 = some ⟨aLayer, 0, 0⟩ ∧ (s.tag 0).prim.run ≠ 2 ∧ lostKey s ⟨aLayer, 0, 0⟩ = true ∧ (s.tag 0).lost = false ∧
     waitedSlot s 0 0 (s.tag 0).acted = true ∧ ∃ u, absencePolicy ⟨aLayer, 0, 0⟩ (lostKey s ⟨aLayer, 0, 0⟩) s = .ok () u) ∧
    (let s := sched {} { cd := { tiles := [xTile] } }
     s.cd.tiles[0]? = some xTile ∧ (freeSlot s).isSome = true ∧
     ∃ u, enqueueTile xTile { s with cd := { s.cd with tiles := s.cd.tiles.eraseIdx 0 } } = .ok () u) ∧
    (let s := brewed anEnt { cd := { tiles := [{ xTile with gone := some true }] } }
     s.cd.tiles[0]? = some { xTile with gone := some true } ∧
     ∃ u, freeTile { xTile with gone := some true } true { s with cd := { s.cd with tiles := s.cd.tiles.eraseIdx 0 } } = .ok () u ∧
       ∀ y ∈ u.cd.tags, y.2.stuck = none) ∧
    (let s : State := { cd := { steep := some (0, []), layers := [(0, aLayer)] } }
     s.cd.steep = some (0, []) ∧ ∀ l, SMap.find s.cd.layers 0 = some l → l.nxv = false) ∧
    (let l : Layer := { aLayer with nxv := true }
     let g : GateSet := { run := 2, h := 64, e := 1, fmt := 9, k := 1 }
     let b := { aBlock with xsBytes := 0x1_0000, prefetch := 1 <<< 32 ||| 1 }
     let m (e : TagEnt) : State :=
       { cd := { tags := [(0, e)], layers := [(0, l)], steep := some (0, bytesOf 64 0), stage := [(0, 1 <<< 63 ||| 1)] }
         ns := { regions := [(0, b)] }, clusters := [(0, { fi := { sets := [(0, g)] } })] }
     let s := m { anEnt with dram := 0 }
     let r := effRegion s 0
     let ch := (gateChoice g (bytesOf 64 0) (Nat.min (if preKp r = 0 then g.k else preKp r) g.e)).1
     s.cd.steep = some (0, bytesOf 64 0) ∧ SMap.find s.cd.layers 0 = some l ∧ l.nxv = true ∧ s.gate l.nxCluster l.nxSet = g ∧ g.layer = 0 ∧
     g.run = 2 ∧ ch = [0] ∧ g.expert 0 = 0 ∧ findTag s 0 = some 0 ∧ (s.tag 0).prim.run = 0 ∧ sourceOf s (s.tag 0) l.pp = some true ∧
     s.cd.fetches = [] ∧ 0 < preOut r ∧ aheadExtents s 0 + extentsOf (s.tag 0) ≤ preXsb r ∧ inFlightFetches s < 64 ∧
     placeFor s l (extentsOf (s.tag 0)) = some (0, 0) ∧ ((m { anEnt with prim := { run := 2 } }).tag 0).prim.run ≠ 0 ∧
     ∀ y ∈ ch, y = 0) ∧
    (let f : Fetch := { tag := 0, sec := false }
     let s := brewed { anEnt with dram := 0, prim := { run := 1 } } {}
     let s : State := { s with cd := { s.cd with fetches := [f] }, ns := { s.ns with regions := [(0, { aBlock with xsBytes := 0x1_0000 })] } }
     s.cd.fetches[0]? = some f ∧ inFlightFetches s < 64 ∧ layerOf s (s.tag 0).key = some aLayer ∧ sourceOf s (s.tag 0) f.fmt = some true ∧
     f.started = false ∧ f.steeper = false ∧ placeFor s aLayer (extentsOf (s.tag 0)) = some (0, 0) ∧
     (let u : State := { s with ns := {} }
      placeFor u aLayer (extentsOf (s.tag 0)) = none ∧ roomFor u aLayer (extentsOf (s.tag 0)) = none) ∧
     (let u : State := { s with cd := { s.cd with tags := s.cd.tags ++ [(16, { key := 1, prim := { run := 2, n := 1 } })] } }
      placeFor u aLayer (extentsOf (s.tag 0)) = none ∧ roomFor u aLayer (extentsOf (s.tag 0)) = some [(16, false)])) ∧
    (let f : Fetch := { tag := 0, sec := false, started := true, flash := true, data := [(0, bytesOf 128 0)], landed := [(0, bytesOf 128 1)] }
     let s : State := { cd := { tags := [(0, { anEnt with imgb := 128 })], fetches := [f] } }
     s.cd.fetches[0]? = some f ∧ f.cmds = [] ∧ s.ev.flag = false ∧
     storedImage (flashCmp (s.tag 0)) 128 ((f.data.map (·.2)).flatten) = { bytes := bytesOf 128 0 } ∧
     (SMap.find f.landed 0).getD [] = bytesOf 128 1 ∧ imageValid 0 0 128 (bytesOf 128 1) = false) ∧
    (let f : Fetch := { tag := 0, sec := false, started := true, failed := true }
     f.cmds = [] ∧
     let s := brewed anEnt { cd := { fetches := [f] } }
     let s : State := { s with cd := { s.cd with fetches := [f] } }
     okThen (fun _ u => decide (layerOf u (u.tag 0).key = some aLayer ∧ sourceOf u (u.tag 0) 0 = some true))
       (postEvent f.region .expertImageBad 0 (dropFetch 0 ((toAbsent 0 false s).updTag 0 fun e => { e with badd := true }))) = true) ∧
    (let c : NvmeCmd := { off := 0, len := 4, since := 0 }
     let f : Fetch := { tag := 0, sec := false, started := true, flash := true, cmds := [c] }
     let s : State := evt { bytes := [1, 2, 3, 4] } { cd := { tags := [(0, anEnt)], fetches := [f] }, cycle := 1800000 }
     s.cd.fetches[0]? = some f ∧ (f.cmds.find? fun c => c.off = s.ev.num) = some c ∧ s.ev.bytes.length = c.len ∧
     stageAddr s (flashPort (s.tag 0)) c.off + c.len ≤ Config.memBytes ∧
     (f.cmds.filter fun c => decide (c.since + 1800000 ≤ s.cycle)) ≠ []) := by
  refine ⟨⟨by decide, by decide, ok_ok (by decide +kernel)⟩,
    ⟨by decide +kernel, by decide, by decide, ok_val (by decide +kernel)⟩,
    ⟨by decide +kernel, by decide, by decide, by decide +kernel, ok_unit (by decide +kernel)⟩,
    ⟨by decide +kernel, by decide, by decide, by decide, by decide +kernel, ok_unit (by decide +kernel)⟩,
    ⟨by decide, by decide, ok_unit (by decide +kernel)⟩, ⟨by decide, ok_unit_and (by decide +kernel)⟩, ⟨by decide, ?_⟩,
    by decide +kernel, by decide +kernel, ⟨by decide, by decide, by decide, by decide +kernel, by decide, by decide +kernel⟩, by decide +kernel,
    by decide +kernel⟩
  intro l h
  cases h; rfl

/-- The image of expert 0 with one projection and one page `z`, with a word for its CRC (14 R412). -/
def imageWith (c : Nat) (z : List Byte) : List Byte :=
  [0x4C, 0x45, 0x41, 0x46] ++ bytesOf 12 0 ++ [0, 1, 0, 0, 1, 0, 0, 0] ++ (bytesOf 4 c ++ (bytesOf 100 0 ++ z))

theorem imageWith_fields (c : Nat) (z : List Byte) :
    ofBytes (((imageWith c z).drop 0).take 4) = 1178682700 ∧
    ofBytes (((imageWith c z).drop 4).take 4) = 0 ∧
    ofBytes (((imageWith c z).drop 8).take 8) = 0 ∧
    ofBytes (((imageWith c z).drop 16).take 1) = 0 ∧
    ofBytes (((imageWith c z).drop 17).take 1) = 1 ∧
    ofBytes (((imageWith c z).drop 18).take 2) = 0 ∧
    ofBytes (((imageWith c z).drop 20).take 4) = 1 ∧
    ofBytes (((imageWith c z).drop 28).take 4) = 0 ∧
    ofBytes (((imageWith c z).drop 32).take 8) = 0 ∧
    ofBytes (((imageWith c z).drop 72).take 56) = 0 :=
  ⟨congrArg ofBytes (show ((imageWith c z).drop 0).take 4 = [76, 69, 65, 70] from rfl) |>.trans (by decide),
    congrArg ofBytes (show ((imageWith c z).drop 4).take 4 = [0, 0, 0, 0] from rfl) |>.trans (by decide),
    congrArg ofBytes (show ((imageWith c z).drop 8).take 8 = [0, 0, 0, 0, 0, 0, 0, 0] from rfl) |>.trans (by decide),
    congrArg ofBytes (show ((imageWith c z).drop 16).take 1 = [0] from rfl) |>.trans (by decide),
    congrArg ofBytes (show ((imageWith c z).drop 17).take 1 = [1] from rfl) |>.trans (by decide),
    congrArg ofBytes (show ((imageWith c z).drop 18).take 2 = [0, 0] from rfl) |>.trans (by decide),
    congrArg ofBytes (show ((imageWith c z).drop 20).take 4 = [1, 0, 0, 0] from rfl) |>.trans (by decide),
    congrArg ofBytes (show ((imageWith c z).drop 28).take 4 = [0, 0, 0, 0] from rfl) |>.trans (by decide),
    congrArg ofBytes (show ((imageWith c z).drop 32).take 8 = [0, 0, 0, 0, 0, 0, 0, 0] from rfl) |>.trans (by decide),
    congrArg ofBytes (show ((imageWith c z).drop 72).take 56 = bytesOf 56 0 from rfl) |>.trans (by decide)⟩

theorem imageWith_valid (z : List Byte) (h : z.length = 12288) : imageValid 0 0 12416 (imageWith (crc32c (imageWith 0 z)) z) = true := by
  have hp (c : Nat) : patchBytes 0x18 (bytesOf 4 0) (imageWith c z) = imageWith 0 z := rfl
  have hl (c : Nat) : (imageWith c z).length = 12416 := by
    simp only [imageWith, List.length_append, Laws.bytesOf_length, List.length_cons, List.length_nil, h]
  have hc (c : Nat) (hc : c < 2 ^ 32) : ofBytes (((imageWith c z).drop 0x18).take 4) = c := by
    show ofBytes ((bytesOf 4 c ++ (bytesOf 100 0 ++ z)).take 4) = _
    rw [List.take_left' (Laws.bytesOf_length ..), Laws.ofBytes_bytesOf]
    exact Nat.mod_eq_of_lt hc
  have ⟨f0, f1, f2, f3, f4, f5, f6, f7, f8, f9⟩ := imageWith_fields (crc32c (imageWith 0 z)) z
  have hb : crc32c (imageWith 0 z) < 2 ^ 32 := BitVec.isLt _
  have hu : upto 0 1 = [0] := rfl
  simp only [imageValid, hp, hl, hc _ hb, f0, f1, f2, f3, f4, f5, f6, f7, f9, hu, List.all_cons, List.all_nil, Nat.mul_zero,
    Nat.add_zero, f8]
  generalize crc32c (imageWith 0 z) = c
  simp [nbits]

/-- The pieces of 4,096 bytes of an image of four are the image. -/
theorem pieces_join (l : List Byte) (h : l.length = 12416) :
    ((upto 0 ((l.length + 4095) / 4096)).map fun p => (l.drop (4096 * p)).take 4096).flatten = l := by
  have hu : upto 0 ((l.length + 4095) / 4096) = [0, 1, 2, 3] := by rw [h]; rfl
  have hd (n : Nat) : (l.drop n).take 4096 ++ l.drop (n + 4096) = l.drop n := by rw [← List.drop_drop]; exact List.take_append_drop ..
  have hl : (l.drop 12288).take 4096 = l.drop 12288 := List.take_of_length_le (by rw [List.length_drop]; omega)
  have h2 := hd 8192
  have h1 := hd 4096
  have h0 := hd 0
  simp only [Nat.zero_add, List.drop_zero, Nat.reduceAdd] at h0 h1 h2
  simp only [hu, List.map_cons, List.map_nil, List.flatten_cons, List.flatten_nil, List.append_nil, Nat.mul_zero, List.drop_zero,
    Nat.reduceMul, hl, h2, h1, h0]

theorem wit_fetchCompletes :
    ∃ l : List Byte, let f : Fetch := { tag := 0, sec := false, started := true, flash := true, data := [(0, l)] }
      let s : State := { cd := { tags := [(0, anEnt)], fetches := [f] } }
      s.cd.fetches[0]? = some f ∧ f.cmds = [] ∧ s.ev.flag = false ∧ bowlOf s 0 = none ∧
      ∃ m, storedImage (flashCmp (s.tag 0)) (s.tag 0).imgb ((f.data.map (·.2)).flatten) = m ∧ m.bad = false ∧
        imageValid (s.tag 0).key f.fmt (s.tag 0).imgb (((upto 0 ((m.bytes.length + 4095) / 4096)).map fun p =>
          (SMap.find f.landed p).getD ((m.bytes.drop (4096 * p)).take 4096)).flatten) = true := by
  have hv := imageWith_valid (bytesOf 12288 0) (Laws.bytesOf_length ..)
  revert hv
  generalize imageWith (crc32c (imageWith 0 (bytesOf 12288 0))) (bytesOf 12288 0) = l
  intro hv
  have h : l.length = 12416 := by
    simp only [imageValid, Bool.and_eq_true, decide_eq_true_eq] at hv
    exact hv.1.1.1.1.1.1.1.1.1.1.1.1
  refine ⟨l, rfl, rfl, rfl, rfl, { bytes := l }, ?_, rfl, ?_⟩
  · show storedImage (flashCmp anEnt) 12416 (l ++ []) = { bytes := l }
    rw [show flashCmp anEnt = false by decide]
    show ({ bytes := List.take 12416 (l ++ []) } : Brought) = { bytes := l }
    rw [List.append_nil, ← h, List.take_length]
  · have := pieces_join l h
    simp only [SMap.find, Option.getD_none, this]
    exact hv

/-! The sequence engine. -/

/-- An open context of region 0 in slot 0, incarnation 1, with one full-attention layer (15 R440, R441). -/
def aSeq : SqCtx :=
  { isOpen := true, inc := 1, maxpos := 128, nlayer := 1, kvb := 64, layers := [(0x5000, false)], pool := 0x6000, tokens := 0x7000
    tree := 0x8000, g := 63, s := 63, kvend := 63 }

/-- A tile with the operands of a command from S1 on; the pool holds one page. -/
def engaged (c : SqCtx) (l : List (Nat × DWord)) : State :=
  let s := mapped (on { aCore with s := (1, 1024) :: l, sp := [(0, 0xFF)] })
  { s with m := { s.m with mem := [(0x6000, 1), (0x6012, 2)] ++ tables }, eng := { ctxs := [(0, c)] } }

theorem wit_sequenceCommandsComplete :
    (let s := engaged aSeq []
     s.here.tile = some aTile ∧ fieldsOk .ctl (.sqopen ⟨1, 3, 0, 0⟩) = true ∧
     okThen (fun b u => okThen (fun y _ => match y with
       | .ok _ => false
       | .error n => n = 5) (openCtx 0 b u)) (loadRange s.core 0 256 s) = true ∧
     (let s : State := { s with m := { s.m with mem := [(0x4000, 0x40), (0x4004, 1), (0x4008, 0x40)] ++ tables } }
      okThen (fun b u => okThen (fun y _ => match y with
       | .ok v => v.2
       | .error _ => false) (openCtx 0 b u)) (loadRange s.core 0x4000 256 s) = true)) ∧
    ((∀ i ∈ [Instr.sqopenClose ⟨1, 1, 1, 0⟩, .sqcurRead ⟨1, 1, 0, 6⟩, .sqcurPlay ⟨1, 1, 1, 0⟩, .sqcurKv ⟨1, 1, 2, 0⟩, .sqtrunc ⟨1, 1, 0, 0⟩,
        .sqckpt ⟨1, 1, 0, 0⟩], fieldsOk .ctl i = true) ∧
     (let s := regs [(1, 1024)]
      (s.here.sreg 1).toNat < 2 ^ 16 ∧ (s.here.sreg 2).toNat < 2 ^ 24 ∧ namedCtx s aTile (s.here.sreg 1).toNat = .error 1) ∧
     (let s := engaged { aSeq with pages := [(0, true)] } []
      namedCtx s aTile (s.here.sreg 1).toNat = .ok 0 ∧
      ∃ c u, freePages (s.ctxAt 0) 0 s = .ok c u) ∧
     (let s := engaged { aSeq with p := 62, kvend := 62 } [(2, 62)]
      (s.ctxAt 0).p ≤ (s.here.sreg 2).toNat ∧ (s.ctxAt 0).kvend ≤ (s.here.sreg 2).toNat ∧ (s.here.sreg 2).toNat ≤ (s.ctxAt 0).g ∧
      (s.here.sreg 2).toNat < 64 ∧ ∃ c u, applyFrame (s.ctxAt 0) 62 [] s = .ok c u) ∧
     (let s := engaged { aSeq with rsb := 256, nsnap := 1, snaps := 0x9000, stags := 0xA000 } [(2, 48), (3, 0xB00)]
      let c := s.ctxAt 0
      (s.here.sreg 2).toNat % 16 = 0 ∧ 16 ≤ (s.here.sreg 2).toNat ∧ (s.here.sreg 2).toNat ≤ c.g ∧ (s.here.sreg 3).toNat % 256 = 0 ∧
      okThen (fun _ u => okThen (fun _ _ => true) (sqWrite c.region c.stags (bytesOf 8 (2 ^ 63 + 48)) u))
        (sqCopy c.region 0xB00 c.snaps c.rsb s) = true)) ∧
    (fieldsOk .ctl (.sqframe ⟨1, 1, 23, 0⟩) = true ∧
     (let s := engaged { aSeq with maxpos := 64 } [(2, 2 ^ 32 + 63)]
      let x := (s.here.sreg 2).toNat
      x / 2 ^ 24 % 2 ^ 8 = 0 ∧ x < 2 ^ 45 ∧ x / 2 ^ 32 = 1 ∧ ¬x % 2 ^ 24 < (s.ctxAt 0).p ∧ min (max (x % 2 ^ 24) 0) 63 + 1 ≤ 64 ∧
      okThen (fun l u => okThen (fun _ _ => true) (applyFrame (u.ctxAt 0) 63 l u)) (sqOperand s.core 0 4 s) = true) ∧
     (let s := engaged { aSeq with p := 1 } []
      let s' : State := { s with ns := { s.ns with regions := [(0, { aBlock with flags := 11 })] } }
      decide (0 < (s.ctxAt 0).p) = true ∧ (effRegion s' 0).late = true ∧ (effRegion s 0).late = false ∧
      sqOperand s.core 3 0 s = .ok [] s)) ∧
    (fieldsOk .ctl (.sqspec ⟨1, 1, 0, 0⟩) = true ∧
     (let s := engaged aSeq [(2, 2)]
      let c := s.ctxAt 0
      c.w = 0 ∧ c.kvend = c.g ∧ c.g + 2 ≤ c.maxpos ∧
      okThen (fun l s' => parentsOk (l.map (·.toNat)) && okThen (fun need s1 => need = 1 &&
        okThen (fun free s2 => (match free with
          | .ok n => n = 1
          | .error _ => false) && okThen (fun _ s3 => okThen (fun _ _ => true)
          (sqWrite c.region c.tree (treeArea (l.map (·.toNat))) s3)) ((each [1] fun q => each c.full fun b => allocPage c q b) s2))
          (attemptUndo (sqNat c.region c.pool 4) s1)) (pagesNeeded c [1] s')) (sqOperand s.core 0 2 s) = true) ∧
     (let s := engaged { aSeq with g := 65, kvend := 65, s := 65 } []
      let c := s.ctxAt 0
      c.kvend = c.g ∧ c.g + 0 ≤ c.maxpos ∧ parentsOk [] = true ∧
      ((upto (c.g / 64) ((c.g + 0 + 63) / 64 - c.g / 64)).filter fun q => (SMap.find c.pages q).isNone) = [1] ∧
      okThen (fun need s1 => okThen (fun free _ => match free with
        | .ok n => n ≥ need
        | .error _ => false) (attemptUndo (sqNat c.region c.pool 4) s1)) (pagesNeeded c [1] s) = true) ∧
     (0 < ({ aSeq with w := 4, m := 1 } : SqCtx).w ∧ ({ aSeq with w := 4, m := 1 } : SqCtx).m < 2)) ∧
    (fieldsOk .ctl (.sqcmit ⟨1, 1, 23, 0⟩) = true ∧
     (let s := engaged { aSeq with s := 66, parents := [255, 0, 0] } [(2, 2 * 2 ^ 32), (3, 8)]
      let s : State := { s with cores := [(0, { s.here with sp := [(20, 2)] })] }
      let x := (s.here.sreg 2).toNat
      x / 2 ^ 24 % 2 ^ 8 = 0 ∧ x < 2 ^ 39 ∧ x % 2 ^ 24 = (s.ctxAt 0).gen ∧
      okThen (fun b s' => let l := (pieces 8 2 b).map pathEntry
        pathOk [255, 0, 0] (l.map fun e => e.2.1) && l.all (fun e => e.2.2 = 0) &&
        okThen (fun _ s1 => okThen (fun _ _ => true) (sqWrite 0 0x70FC (bytesOf 8 0) s1)) (relocate (s'.ctxAt 0) [0, 2] s')) (sqOperand s.core 8 16 s) = true)) ∧
    (let s := engaged aSeq []
     (s.ctxAt s.eng.sel).isOpen = true ∧ (s.ctxAt s.eng.sel).p ≤ 63 ∧ 63 ≤ (s.ctxAt s.eng.sel).g) := by
  refine ⟨⟨by decide, by decide, by decide +kernel, by decide +kernel⟩, ⟨by decide, ⟨by decide, by decide, rfl⟩, ⟨rfl, ok_val (by decide +kernel)⟩,
    ⟨by decide, by decide, by decide, by decide, ok_val (by decide +kernel)⟩, by decide +kernel⟩,
    ⟨by decide, by decide +kernel, by decide +kernel, by decide +kernel, by decide +kernel, rfl⟩,
    by decide +kernel, by decide +kernel, by decide⟩

/-! The stream ports. -/

/-- Port 1 of region 0 with two slots of 128 bytes at the start of core 0's scratchpad, not enabled, its link up (16 R482). -/
def aPort : Port :=
  { ring := 128 <<< 48 ||| 2 <<< 32, tags := 0x10_0000, peer := 1 <<< 48, e0 := 0, lastSeq := 2 ^ 32 - 1, link := 2,
    cells := some [] }
def portOn : Port := { aPort with cfg := 1 <<< 63 }

/-- A port in a state. -/
def ported (p : Port) (s : State) : State := evt { idx := 1 } { mapped s with ports := [(1, p)] }

/-- A line frame of one sample for address 0, number 0 (16 R465, R466); its FCS worked out with zlib's CRC-32. -/
def aFrame : List Byte :=
  bytesOf 12 0 ++ [0x88, 0xB5, 1, 1, 1] ++ bytesOf 43 0 ++ [0xE0, 0xF1, 0x41, 0xBB]

theorem wit_portCommands :
    (let s := ported aPort (on aCore)
     s.here.tile = some aTile ∧ ((1 : BitVec 24).toNat % 4 = 1) ∧ aTile.reg.id ∈ (effRegion s (s.port 1).region).chain ∧ (s.port 1).en = false ∧
     aTile.reg.id ∉ (effRegion s 1).chain ∧ (effRegion s ({ aPort with cfg := 1 <<< 48 } : Port).region).chain = (effRegion s 1).chain ∧
     fieldsOk .ctl (.prel ⟨1, 2, 0, 1⟩) = true ∧ fieldsOk .ctl (.pstat ⟨1, 0, 0, 0x51⟩) = true) ∧
    (let s := ported { portOn with deliv := 2 } (regs [(2, 3)])
     aTile.reg.id ∈ (effRegion s (s.port 1).region).chain ∧ (s.port 1).en = true ∧ (s.port 1).used < (s.here.sreg 2).toNat ∧
     (s.here.sreg 2).toNat < 2 ^ 11 ∧
     ∃ u, (each (upto 0 2) fun h => writeTag (s.port 1) (h % 2 ^ 32 % 2) 0 0) s = .ok () u) := by
  refine ⟨by decide +kernel, ⟨by decide, by decide, by decide, by decide, ok_unit (by decide +kernel)⟩⟩

theorem aFrame_sound : frameSound aFrame = true := by decide +kernel

theorem aFrame_line : ∃ h, lineHeader ((aFrame.take (aFrame.length - 4)).drop 14) = some h ∧ h.seq = 0 ∧ h.nsamp = 1 :=
  ⟨⟨1, 0, 0, 0⟩, rfl, rfl, rfl⟩

theorem wit_portEvents :
    (let s := ported portOn {}
     let p := s.port 1
     s.ev.idx < 4 ∧ p.en = true ∧ p.link = 2 ∧ forPort p aFrame = true ∧ frameSound (aFrame ++ [0]) = false ∧
     forPort p (aFrame ++ [0]) = true ∧ (startAccepting 1 s).port 1 = p ∧ seqAfter 0 p.lastSeq = true ∧ seqAfter 0 0 = false ∧
     (∀ h : LineHdr, h.nsamp = 1 → 64 + p.outBytes h ≤ p.slotb) ∧
     p.accepts s = true ∧ p.free ≠ 0 ∧ (s.coreOf p.core).tile = none ∧
     (∃ w, writeTag p 0 2 66 s = .ok () w) ∧ ({ portOn with deliv := 2 } : Port).free = 0 ∧ (effRegion s p.region).overrun = false) ∧
    (let s : State := { ported { portOn with advSince := 5 } {} with cycle := 1029 }
     (s.port 1).advper ≠ 0 ∧ (s.port 1).advSince + (s.port 1).advper * 1024 ≤ s.cycle) ∧
    (let s := ported { portOn with owed := true } (on aCore)
     (s.port 1).en = true ∧ (s.port 1).owed = true ∧ (s.port 1).accepts s = true) ∧
    (let s := ported aPort {}
     let s : State := { s with hl := { s.hl with fixed := true, facc0 := 256 } }
     accepted s 8 = true ∧ accepted ({} : State) 8 = false ∧ (1 <<< 63 : DWord).getLsbD 63 = true ∧ (0 : DWord).getLsbD 63 = false ∧
     (let w := s.updPort 1 fun p => { p with cfg := 0, heldSem := 0, heldArv := 0 }
      let v := keepBlocks (w.port 1).region { w with ns := { w.ns with regions := [(0, { aBlock with spTile := 256, xroot := 0x1_0000 })] } }
      mayEnable ({} : State) 1 {} = false ∧ mayEnable v 1 (w.port 1) = true ∧
      ∃ x, (each (upto 0 (w.port 1).n) fun t => writeTag (w.port 1) t 0 0) v = .ok () x)) ∧
    (let s := ported aPort {}
     let x := (effRegion s (s.port 1).region).ctx none
     (s.port 1).en = false ∧ okThen (fun b _ => (cellsOf b).zipIdx.all fun e => cellOk e.2 e.1) (readAs x 0 256 s) = true ∧
     okThen (fun _ u0 => okThen (fun _ _ => true) (readAs x 0x2_0000 0x1_0000 u0)) (readAs x 0x1_0000 0x1_0000 s) = true ∧
     okThen (fun b _ => (cellsOf b).zipIdx.any fun e => !cellOk e.2 e.1)
       (readAs x 0 256 { s with m := { s.m with mem := (7, 0xFF) :: tables } }) = true) := by
  refine ⟨⟨by decide, by decide, by decide, by decide, by decide +kernel, by decide, by decide, by decide, by decide, fun h e => ?_, by decide,
    by decide, by decide, ok_unit (by decide +kernel), by decide, by decide +kernel⟩, by decide, by decide,
    ⟨by decide, by decide, by decide, by decide, by decide, by decide +kernel, ok_unit (by decide +kernel)⟩,
    by decide, by decide +kernel, by decide +kernel, by decide +kernel⟩
  show 64 + (if _ then h.nsamp else 2 * h.nsamp) ≤ 128
  rw [e]; split <;> decide

/-! The host link. -/

/-- Ring 0 of region 0 with the entry whose bytes at given places of 64 are not zero; its features are accepted, and
region 0's tables map the first GiB. -/
def ringed (l : List (Nat × Byte)) (hl : HostLink) : State :=
  let s := mapped { ev := {}, rv := { on := true }, hl := { hl with fixed := true, facc0 := 0x107, rings := [(0, { en := true, logn := 4, tail := 1 })] } }
  { s with ns := { s.ns with en := true }, m := { s.m with mem := [(2, 0xE4), (64, 1)] ++ tables, remote := l.map fun e => (2 ^ 56 + e.1, e.2) } }

/-- The entry is taken. -/
def ringTaken (s : State) (l : List Byte) : State :=
  s.updRing 0 fun g => { g with head := 1, ops := g.ops ++ [{ n := 0, entry := l }] }

/-- An entry with one byte set. -/
def entry (l : List (Nat × Byte)) : List Byte := l.foldl (fun b e => b.set e.1 e.2) (bytesOf 64 0)

theorem wit_ringEntriesComplete :
    (let s := ringed [] {}
     nextEntry s 0 = some (entry []) ∧ s.hl.tdi ≠ .locked ∧ s.hl.tdi ≠ .error ∧ entChain (entry []) = false ∧ entryOk s (entry []) = false ∧
     entChain (entry [(1, 2)]) = true ∧ nextEntry (ringed [(1, 2)] { tdi := .locked }) 0 = some (entry [(1, 2)])) ∧
    (let e := entry [(0, 1)]
     let s := ringed [(0, 1)] {}
     nextEntry s 0 = some e ∧ entryOk s e = true ∧ semAllowed s 0 (entSem e) = true ∧
     semAllowed s 0 (1 <<< 63) = false ∧ (effRegion s 0).valid = true ∧ entA e % 128 = 0 ∧
     okThen (fun b u => okThen (fun x w => x.isOk && okThen (fun _ _ => true) (entrySem 0 0 (entSem e) w))
       (enqueue (outsideSubtree (effRegion s 0)) (some b) 0 u)) (readAs ((effRegion s 0).ctx none) (entA e) 128 (ringTaken s e)) = true ∧
     okThen (fun x _ => !x.isOk) (enqueue (outsideSubtree (effRegion s 0)) (some (bytesOf 128 0xFF)) 0 (ringTaken s e)) = true) ∧
    (let e := entry [(0, 2), (0x18, 128)]
     let s := ringed [(0, 2), (0x18, 128)] {}
     nextEntry s 0 = some e ∧ entryOk s e = true ∧
     okThen (fun x _ => match x with
       | .ok l => l = [0]
       | .error _ => false) (destPlaces (effRegion s 0) (entB e) (entLen e) (ringTaken s e)) = true ∧
     okThen (fun x _ => match x with
       | .ok _ => false
       | .error va => va = 0x4000_0000) (destPlaces (effRegion s 0) 0x4000_0000 (entLen e) (ringTaken s e)) = true) ∧
    (let e := entry [(0, 3), (0x18, 128), (0x20, 1)]
     let s := ringed [(0, 3), (0x18, 128), (0x20, 1)] { keys := [(0, { full := true })] }
     nextEntry s 0 = some e ∧ entryOk s e = true ∧ (SMap.get {} s.hl.keys (entKey e)).region = (s.ring 0).region ∧
     (SMap.get {} s.hl.keys (entKey e)).full = true ∧ (SMap.get {} s.hl.keys (entKey e)).last < entCtr e ∧
     okThen (fun x _ => match x with
       | .ok l => l = [0]
       | .error _ => false) (destPlaces (effRegion s 0) (entB e) (entLen e) (ringTaken s e)) = true ∧
     ({} : KeySlot).full = false ∧ entCtr e ≤ ({ full := true, last := 1 } : KeySlot).last ∧ ({ region := 1 } : KeySlot).region ≠ (s.ring 0).region) ∧
    (let e := entry [(0, 4)]
     let s := ringed [(0, 4)] { q := 32767, reports := 1023 }
     nextEntry s 0 = some e ∧ entryOk s e = true ∧ s.hl.q < 32768 ∧ s.hl.reports < 1024 ∧ ∃ u, entrySem 0 0 (entSem e) s = .ok () u) ∧
    (let o : RingOp := { n := 0, entry := entry [(0, 2), (0x18, 128)], data := bytesOf 128 5, places := [0] }
     let s := (evt { flag := true, nums := [0] } (ringed [] {})).updRing 0 fun g => { g with ops := [o] }
     (s.ring 0).ops.find? (fun o => o.n = s.ev.nums.headD 0 && o.result.isNone && entKind o.entry = 2) = some o ∧ s.ev.num < o.places.length ∧
     s.ev.num ∉ o.landed ∧ ∃ u, landSector 0 o 0 s = .ok () u) ∧
    (let o : RingOp := { n := 0, entry := entry [(0, 3), (0x18, 128)], data := bytesOf 128 5, places := [0] }
     let s := (evt { flag := true, nums := [0] } (ringed [] {})).updRing 0 fun g => { g with ops := [o] }
     (s.ring 0).ops.find? (fun o => o.n = s.ev.nums.headD 0 && o.result.isNone && entKind o.entry = 3) = some o ∧
     ∃ u, landSector 0 o 0 s = .ok () u) ∧
    (let o : RingOp := { n := 0, entry := entry [(0, 3), (0x18, 0), (0x19, 1)], data := bytesOf 256 5, places := [0, 128] }
     let s := ringed [] {}
     0 + 1 < o.places.length ∧ o.landed = [] ∧ entKind o.entry = 3 ∧
     okThen (fun x _ => match x with
       | .ok (some loc) => loc = 0
       | _ => false) (portTry (destPlace (effRegion s (s.ring 0).region) (entB o.entry + 128 * 0)) s) = true ∧
     okThen (fun x _ => match x with
       | .ok none => true
       | _ => false) (portTry (destPlace (effRegion s (s.ring 0).region) 0x4000_0000) s) = true) ∧
    nextEntry { ringed [(0, 1)] {} with rv := {} } 0 = none := by
  refine ⟨by decide +kernel, by decide +kernel, by decide +kernel, by decide +kernel,
    ⟨by decide +kernel, by decide +kernel, by decide, by decide, ok_unit (by decide +kernel)⟩,
    ⟨by decide +kernel, by decide, by decide, ok_unit (by decide +kernel)⟩, ⟨by decide +kernel, ok_unit (by decide +kernel)⟩,
    by decide +kernel, by decide +kernel⟩

/-- An image of no code, with a key and a signature of zeros; the key's hash and the lowest version are the fuses'. -/
def anImage : Image :=
  { svn := 2 ^ 32 - 1, entry := 0, itcm := [], dtcm := []
    signed := [0x48, 0x4C, 0x42, 0x46] ++ bytesOf 4 (2 ^ 32 - 1) ++ bytesOf 24 0, key := bytesOf 60 0, sig := [] }

theorem wit_imageVerifies :
    ((imageOf (anImage.signed ++ anImage.key)).map fun m => (m.key, m.svn)) = some (anImage.key, 2 ^ 32 - 1) ∧
    ∀ l m, imageOf l = some m → sha256 m.key = Config.rootKeyHash → Config.minSvn ≤ m.svn → hssVerify m.key m.sig m.signed = true →
      verifyImage l = .ok m := by
  refine ⟨by decide +kernel, fun l m h hk hs hv => ?_⟩
  simp only [verifyImage, h, hk, ne_eq, not_true_eq_false, if_false, Nat.not_lt.2 hs, hv, Bool.not_true, Bool.false_eq_true]

theorem wit_hostEventsComplete :
    (({ hl := { hot := [(15, 8)] } } : State).off = false ∧ ∃ x ∈ ({ hl := { hot := [(15, 8)] } } : State).hl.hot, 8 ≤ x.2) ∧
    (let l : List Nat := [340, 1, 2, 3, 4, 5, 6, 7, 8, 9, 10, 11, 12, 13, 14, 15]
     let count (h : HostLink) (n x : Nat) : Nat := if max 340 (min h.trip 500) ≤ x then SMap.get 0 h.hot n + 1 else 0
     let cool : HostLink := { trip := 0, hot := [(0, 6), (3, 6)] }
     let warm : HostLink := { trip := 340, hot := [(0, 7), (3, 7)] }
     l.length = 16 ∧ l[0]? = some 340 ∧ 8 ≤ count warm 0 340 ∧ ∀ n < 16, count cool n (l.getD n 0) < 8) ∧
    ({ rv := { on := true } } : State).rv.on = true ∧ ({} : State).rv.on = false ∧
    ({} : State).hl.tdi = .unlocked ∧ ({ hl := { tdi := .locked } } : State).hl.tdi = .locked ∧
    (evt { doe := .copyInKey 63 5 1 2 } {}).ev.doe = .copyInKey 63 5 1 2 ∧
    barAllowed {} false = true ∧ barAllowed { hl := { tdi := .run } } true = true ∧ ({} : State).hl.bootState = 0 ∧
    0xF_FFFF + [(1 : Byte)].length ≤ 0x10_0000 ∧ (1 <<< 63 : DWord).getLsbD 63 = true ∧
    ({ hl := { bootState := 3 } } : State).hl.bootState = 3 ∧ ({ hl := { bootState := 2 } } : State).hl.bootState ≠ 0 ∧
    verifyImage (stagedImage {} 0) = .error 1 ∧ ({ hl := { fixed := true } } : State).hl.fixed = true ∧ ({} : State).hl.fixed = false ∧
    (let s : State := { hl := { fixed := true, facc0 := 1 } }
     accepted s 0 = true ∧ (1 <<< 63 ||| 4 <<< 32 : DWord).toNat / 2 ^ 32 % 2 ^ 5 = 4 ∧ (1 <<< 63 ||| 16 <<< 32 : DWord).toNat / 2 ^ 32 % 2 ^ 5 = 16) ∧
    (let s : State := { hl := { rings := [(15, { en := true, logn := 4, head := 2 ^ 32 - 1 })] } }
     (s.ring 15).en = true ∧ (15 + 2 ^ 32 - (s.ring 15).head) % 2 ^ 32 ≤ 2 ^ 4 ∧ 2 ^ 4 < (16 + 2 ^ 32 - (s.ring 15).head) % 2 ^ 32) ∧
    (2 ^ 32 - 1 + [(1 : Byte)].length ≤ 2 ^ 32 ∧ ({} : State).m.poison = [] ∧
     ∃ p ∈ ({ m := { poison := [1] } } : State).m.poison, 128 / 128 ≤ p ∧ p < (128 + 1 + 127) / 128) := by
  refine ⟨by decide, by decide, rfl, rfl, by decide, by decide, rfl, by decide, by decide, by decide, by decide, by decide, by decide, by decide, rfl,
    by decide, by decide, by decide, by decide, by decide⟩

/-! The samovar. -/

/-- The samovar at address 0 of its instruction memory. -/
def kettle (itcm : SMap Byte) : State := { rv := { on := true, itcm := itcm } }

theorem wit_samovarExecutes :
    (kettle []).rv.on = true ∧ (kettle []).off = false ∧
    (let s : State := { rv := { on := true, waiting := true } }
     s.rv.waiting = true ∧ meip s = false) ∧
    (let s : State := { rv := { on := true, mie := true, meie := true }, sv := { ien := 2, ipend := 2 } }
     meip s = true ∧ s.rv.meie = true ∧ s.rv.mie = true) ∧
    (let s : State := { rv := { on := true, pc := 0x100_0000 } }
     s.rv.waiting = false ∧ meip s = false ∧ (match rvFetch s with
       | .ok _ => false
       | .error a => a = 0x100_0000) = true) ∧
    (match rvFetch (kettle []) with
     | .ok (w, n) => decide (n = 2) && (decode16 w).isNone
     | .error _ => false) = true ∧
    (match rvFetch (kettle [(0, 0x33), (1, 0x85), (2, 0xC5)]) with
     | .ok (w, n) => decide (n = 4) && (match decode32 w with
       | some (.op _ false 10 11 12) => true
       | _ => false)
     | .error _ => false) = true := by
  decide +kernel

/-! The loader: the example of 04 R118, IMM8 against 100 with addend 40, and a value that fits. -/

/-- One ADDI word to relocate against an absolute symbol of value 100. -/
def anObject (a : Int) : BibexObject :=
  { sections := [{ kind := 1, align := 2, bytes := [0xFF, 0xC7, 0x01, 0x18] }]
    symbols := [{ place := some none, value := 100, global := true }], relocs := [⟨0, 0, 4, 0, a⟩] }

theorem test_reloc_range : loadObject [0x1000] (anObject 40) = .error ⟨0, 0, 4, 0, 40⟩ := by rfl
theorem test_reloc_fits : loadObject [0x1000] (anObject 27) = .ok [[0x7F, 0xC7, 0x01, 0x18]] := by rfl

end Sys2Proof.Tests
end

/-!
# Every step keeps memory canonical (O5)

Three predicates say it: `KeepsCanon` of an action, `MemCanonical` itself of a state (a function on the state keeps it where
its result is canonical whenever its argument is), `NextCanonical` of an outcome. Each has one lemma per way of putting
programs together, and then each function of the model that can reach memory has one lemma under its own name. That lemma's
proof is the shape of the function's body: a `bind` for each action, an `ite` or a `split` for each branch, and at each leaf
the hypothesis itself where the function leaves memory alone.
-/

namespace Sys2Proof
open Machine Laws

/-- However the action ends, it leaves memory canonical if it found it so. -/
def KeepsCanon {α : Type} (a : Act α) : Prop := Keeps (fun s t => MemCanonical s → MemCanonical t) a

/-- If there is a next state, memory is canonical in it. -/
def NextCanonical (o : Host.Outcome State Fault Refusal) : Prop := ∀ t, o = .next t → MemCanonical t

/-- If there is a state, memory is canonical in it. -/
def SomeCanonical (o : Option State) : Prop := ∀ t, o = some t → MemCanonical t

/-- To keep memory canonical is a relation that the `Keeps` lemmas can compose. -/
theorem canon_follows : Follows fun s t => MemCanonical s → MemCanonical t :=
  ⟨fun _ h => h, fun h1 h2 h => h2 (h1 h)⟩

/-! ### How actions are put together -/

section
variable {α β : Type} {s t : State}

theorem KeepsCanon.pure {a : α} : KeepsCanon (Pure.pure a) := keeps_pure canon_follows a

theorem KeepsCanon.throw {e : Stop} : KeepsCanon (MonadExcept.throw e : Act α) := keeps_throw canon_follows e

theorem KeepsCanon.bind {x : Act α} {f : α → Act β} (hx : KeepsCanon x) (hf : ∀ a, KeepsCanon (f a)) :
    KeepsCanon (x >>= f) := keeps_bind canon_follows hx hf

/-- A program that begins by reading the state may suppose that what it read is canonical. -/
theorem KeepsCanon.get {f : State → Act β} (hf : ∀ s, MemCanonical s → KeepsCanon (f s)) :
    KeepsCanon (MonadState.get >>= f) := fun s hs => hf s hs s hs

theorem KeepsCanon.set (ht : MemCanonical t) : KeepsCanon (MonadStateOf.set t : Act Unit) := fun _ _ => ht

theorem KeepsCanon.modify {f : State → State} (hf : ∀ s, MemCanonical s → MemCanonical (f s)) :
    KeepsCanon (modify f : Act Unit) := hf

theorem KeepsCanon.ite {c : Prop} [Decidable c] {x y : Act α} (hx : KeepsCanon x) (hy : KeepsCanon y) :
    KeepsCanon (if c then x else y) := keeps_ite c hx hy

theorem KeepsCanon.ofExcept {r : Except Stop α} : KeepsCanon (MonadExcept.ofExcept r : Act α) := by
  cases r with
  | error => exact .throw
  | ok => exact .pure

theorem KeepsCanon.each {l : List α} {f : α → Act Unit} (hf : ∀ a, KeepsCanon (f a)) :
    KeepsCanon (Machine.each l f) := keeps_each canon_follows l fun a _ => hf a

theorem KeepsCanon.collect {l : List α} {f : α → Act β} (hf : ∀ a, KeepsCanon (f a)) :
    KeepsCanon (Machine.collect l f) := keeps_collect canon_follows l fun a _ => hf a

theorem KeepsCanon.attempt {a : Act α} (ha : KeepsCanon a) : KeepsCanon (Machine.attempt a) := keeps_attempt ha

theorem KeepsCanon.attemptUndo {a : Act α} (ha : KeepsCanon a) : KeepsCanon (Machine.attemptUndo a) :=
  keeps_attemptUndo canon_follows ha

theorem KeepsCanon.ok {a : Act α} {v : α} (ha : KeepsCanon a) (hs : MemCanonical s) (e : a s = .ok v t) :
    MemCanonical t := by
  have := ha s hs
  rwa [e] at this

theorem KeepsCanon.error {a : Act α} {x : Stop} (ha : KeepsCanon a) (hs : MemCanonical s) (e : a s = .error x t) :
    MemCanonical t := by
  have := ha s hs
  rwa [e] at this

end

/-! ### How functions on the state are put together -/

section
variable {α : Type} {s t : State}

theorem MemCanonical.of_poison {p : List Nat} (hs : MemCanonical s) :
    MemCanonical { s with m := { s.m with poison := p } } := hs

theorem MemCanonical.of_hl {h : HostLink} (hs : MemCanonical s) : MemCanonical { s with hl := h } := hs

/-- Memory is canonical where its bytes are those of a state in which it is. -/
theorem MemCanonical.of_mem (hs : MemCanonical s) (e : t.m.mem = s.m.mem) : MemCanonical t := by
  unfold MemCanonical Memory.wf at *
  rwa [e]

theorem MemCanonical.ite {c : Prop} [Decidable c] (hs : MemCanonical s) (ht : MemCanonical t) :
    MemCanonical (if c then s else t) := by split <;> assumption

theorem MemCanonical.run {a : Act α} (ha : KeepsCanon a) (hs : MemCanonical s) : MemCanonical (leaves (a s)) := ha s hs

theorem MemCanonical.foldl {f : State → α → State} {l : List α} (hf : ∀ s a, MemCanonical s → MemCanonical (f s a))
    (hs : MemCanonical s) : MemCanonical (l.foldl f s) := foldl_wf f hf l hs

theorem MemCanonical.getD {o : Option State} (ho : SomeCanonical o) (hs : MemCanonical s) : MemCanonical (o.getD s) := by
  cases o with
  | none => exact hs
  | some t => exact ho t rfl

end

/-! ### The functions that write memory

The model's laws have these under their own names; here they are under those that the proofs below look them up by. -/

section
variable {s : State} {n : Nat}

theorem MemCanonical.commitAt {w l} (hs : MemCanonical s) : MemCanonical (Machine.commitAt n w l s) := commitAt_wf n w l hs

theorem MemCanonical.commitLocal {w l} (hs : MemCanonical s) : MemCanonical (Machine.commitLocal w l s) :=
  commitLocal_wf w l hs

theorem MemCanonical.releaseLines {p} (hs : MemCanonical s) : MemCanonical (Machine.releaseLines n p s) :=
  releaseLines_wf n p hs

theorem MemCanonical.exchangeAll {l} (hs : MemCanonical s) : MemCanonical (Machine.exchangeAll l s) := exchangeAll_wf l hs

theorem MemCanonical.writeUnstamped {w l} (hs : MemCanonical s) : MemCanonical (Machine.writeUnstamped w l s) :=
  writeUnstamped_wf w l hs

theorem MemCanonical.writeImage {r a l} (hs : MemCanonical s) : MemCanonical (Machine.writeImage r a l s) :=
  writeImage_wf r a l hs

theorem MemCanonical.garble {x} (hs : MemCanonical s) : MemCanonical (Machine.garble x s) := garble_wf x hs

theorem MemCanonical.freeHeader {r a} (hs : MemCanonical s) : MemCanonical (Machine.freeHeader r a s) :=
  freeHeader_wf r a hs

theorem MemCanonical.pressHeader {x} (hs : MemCanonical s) : MemCanonical (Machine.pressHeader s x) := pressHeader_wf x hs

theorem MemCanonical.dropRange {lo} (hs : MemCanonical s) : MemCanonical (Machine.dropRange lo n s) := dropRange_wf lo n hs

end

/-! ### How outcomes are put together -/

section
variable {s : State}

theorem NextCanonical.next (hs : MemCanonical s) : NextCanonical (.next s) := by
  rintro t ⟨⟩
  exact hs

theorem NextCanonical.fault {r} : NextCanonical (.fault r) := by rintro t ⟨⟩

theorem NextCanonical.refused {r} : NextCanonical (.refused r) := by rintro t ⟨⟩

theorem NextCanonical.ite {c : Prop} [Decidable c] {x y} (hx : NextCanonical x) (hy : NextCanonical y) :
    NextCanonical (if c then x else y) := by split <;> assumption

theorem NextCanonical.outcomeOf {r} (h : MemCanonical (leaves r)) : NextCanonical (Machine.outcomeOf r) := by
  intro t e
  rw [← outcomeOf_next e]
  exact h

theorem NextCanonical.event {p a} (ha : KeepsCanon a) (hs : MemCanonical s) : NextCanonical (Machine.event p a s) :=
  .ite (.outcomeOf (.run ha hs)) (.next hs)

end

/-! ### Canonical memory: `Machine/Act.lean` -/

section
variable {c va : Nat} {x : Ctx} {α : Type}

theorem KeepsCanon.trap {c : Machine.Code} : KeepsCanon (Machine.trap c va : Act α) := .throw
theorem KeepsCanon.trapIf {b : Bool} {c : Machine.Code} : KeepsCanon (Machine.trapIf b c va) := .ite .trap .pure
theorem KeepsCanon.waitFor {w : Wait} : KeepsCanon (Machine.waitFor w : Act α) := .throw
theorem KeepsCanon.thisCore : KeepsCanon Machine.thisCore := .get fun _ _ => .pure
theorem KeepsCanon.modCore {f : Core → Core} : KeepsCanon (Machine.modCore f) := .modify fun _ hs => hs
theorem KeepsCanon.modCoreAt {f : Core → Core} : KeepsCanon (Machine.modCoreAt c f) := .modify fun _ hs => hs

theorem KeepsCanon.modMem {f : Memory → Memory} (hf : ∀ m, m.wf = true → (f m).wf = true) : KeepsCanon (modMem f) :=
  fun s => hf s.m

theorem KeepsCanon.tileOf : KeepsCanon (Machine.tileOf c) :=
  .get fun _ _ => by
    split
    · exact .pure
    · exact .waitFor

theorem KeepsCanon.modTile {f : Tile → Tile} : KeepsCanon (Machine.modTile c f) := .modCoreAt
theorem KeepsCanon.drawByte : KeepsCanon Machine.drawByte := .get fun _ hs => .bind (.set hs) fun _ => .pure
theorem KeepsCanon.drawDWord : KeepsCanon Machine.drawDWord := .get fun _ hs => .bind (.set hs) fun _ => .pure

theorem KeepsCanon.eachWorst {l : List α} {f : α → Act Unit} (hf : ∀ x, KeepsCanon (f x)) :
    KeepsCanon (Machine.eachWorst l f) :=
  .bind (.collect fun _ => .bind (.attempt (hf _)) fun _ => by split <;> exact .pure) fun _ => by
    split
    · exact .throw
    · exact .pure

end

/-! ### Canonical memory: `Machine/Links.lean` -/

section
variable {s : State} {job loc ifc : Nat} {p : Packet}

theorem MemCanonical.countJob {f : JobCount → JobCount} (hs : MemCanonical s) :
    MemCanonical (Machine.countJob job ifc f s) := by
  unfold Machine.countJob
  split <;> exact hs

theorem MemCanonical.injected (hs : MemCanonical s) : MemCanonical (Machine.injected job ifc s) := .countJob hs
theorem MemCanonical.consumed (hs : MemCanonical s) : MemCanonical (Machine.consumed job ifc s) := .countJob hs
theorem MemCanonical.lost (hs : MemCanonical s) : MemCanonical (Machine.lost job ifc s) := .countJob hs

theorem SomeCanonical.sendPacket (hs : MemCanonical s) : SomeCanonical (sendPacket p s) := by
  unfold Machine.sendPacket
  split <;> rintro t ⟨⟩
  exact hs

theorem MemCanonical.askPeer {a : PeerAsk} (hs : MemCanonical s) : MemCanonical (askPeer a s) := by
  unfold Machine.askPeer
  dsimp only
  split
  · next t ht => exact SomeCanonical.sendPacket hs t ht
  · exact hs

theorem MemCanonical.requestPeer (hs : MemCanonical s) : MemCanonical (Machine.requestPeer loc s) :=
  .ite hs (.askPeer hs)

theorem MemCanonical.writePeers {tile : Option OnTile} {l : List (Nat × Byte)} (hs : MemCanonical s) :
    MemCanonical (Machine.writePeers tile l s) := .foldl (fun _ _ hs => .askPeer hs) hs

end

/-! ### Canonical memory: `Machine/Mem.lean` -/

section
variable {s : State} {c n va a region loc cluster : Nat} {l : List Byte} {x : Ctx} {t : Tile} {α : Type}

theorem KeepsCanon.lookup : KeepsCanon (Machine.lookup x va) :=
  .get fun _ hs => by
    split
    · split
      · exact .pure
      · exact .throw
    · split
      · exact .bind (.set hs) fun _ => .pure
      · split
        · exact .bind (.set hs) fun _ => .pure
        · exact .throw

theorem KeepsCanon.noteFault : KeepsCanon (Machine.noteFault x va) := by
  unfold Machine.noteFault
  split
  · exact .pure
  · exact .modify fun _ hs => hs

theorem KeepsCanon.xfault {c : Machine.Code} : KeepsCanon (Machine.xfault x c va : Act α) :=
  .ite (.bind .noteFault fun _ => .trap) .trap

theorem KeepsCanon.translate {acc : Machine.Acc} : KeepsCanon (Machine.translate x acc va) :=
  .ite .xfault
    (.bind (.attempt .lookup) fun _ => by
       split
       · exact .xfault
       · exact .throw
       · exact .get fun _ _ => .ite .xfault (.ite .throw (.ite .waitFor (.ite .throw .pure))))

theorem KeepsCanon.remoteByte {floor : Nat} : KeepsCanon (Machine.remoteByte floor va loc) :=
  .get fun _ hs => by
    dsimp only
    split
    · exact .pure
    · exact .ite (.bind (.set hs) fun _ => .pure) (by
          split
          · exact .bind (.set hs) fun _ => .trap
          · exact .ite .trap .throw)

theorem KeepsCanon.tileByte {floor : Nat} : KeepsCanon (Machine.tileByte floor t va loc) :=
  .get fun _ _ =>
  .ite .drawByte (by
    split
    · exact .pure
    · exact .ite (.ite .trap (by split <;> exact .pure)) .remoteByte)

theorem KeepsCanon.tilePlace {acc : Machine.Acc} : KeepsCanon (Machine.tilePlace c acc va) :=
  .bind .tileOf fun _ => .bind .translate fun _ => .get fun _ _ => .pure

theorem KeepsCanon.loadBytes : KeepsCanon (Machine.loadBytes c va n) :=
  .bind .tileOf fun _ => .bind .tilePlace fun _ => .get fun _ _ => .collect fun _ => .tileByte

theorem KeepsCanon.loadRange : KeepsCanon (Machine.loadRange c va n) :=
  .bind .loadBytes fun _ => .bind (.collect fun _ => .loadBytes) fun _ => .pure

theorem KeepsCanon.readPage : KeepsCanon (Machine.readPage x va n) :=
  .bind .translate fun _ => .get fun _ _ =>
  .ite
    (by
       split
       · exact .trap
       · exact .ite (.collect fun _ => .drawByte) .pure) (.collect fun _ => .remoteByte)

theorem KeepsCanon.readAs : KeepsCanon (Machine.readAs x va n) :=
  .bind .readPage fun _ => .bind (.collect fun _ => .readPage) fun _ => .pure

theorem KeepsCanon.takeRoom {u : State} (hu : MemCanonical u) : KeepsCanon (Machine.takeRoom u) :=
  .get fun _ _ => .ite (.set hu) .waitFor

theorem KeepsCanon.versionWrite {via : List (Nat × Nat)} {l : List (Nat × Byte)} :
    KeepsCanon (Machine.versionWrite c va via l) := .bind .tileOf fun _ => .get fun _ hs => .ite .trap (.takeRoom hs)

theorem KeepsCanon.storeBytes : KeepsCanon (Machine.storeBytes c va l) := .bind .tilePlace fun _ => .versionWrite

theorem MemCanonical.pinWrite {l : List (Nat × Byte)} (hs : MemCanonical s) :
    MemCanonical (Machine.pinWrite cluster region loc l s) := by
  unfold Machine.pinWrite
  dsimp only
  split
  · exact hs
  · split
    · exact .ite (.releaseLines hs) hs
    · exact hs

theorem KeepsCanon.atomicOld {near : Bool} : KeepsCanon (Machine.atomicOld cluster near loc n) :=
  .get fun _ _ => .ite (.bind (.collect fun _ => .drawByte) fun _ => .pure) .pure

theorem KeepsCanon.atomicLocal {scope : Scope} {f : Nat → Option Nat} :
    KeepsCanon (Machine.atomicLocal cluster region scope loc n va f) :=
  .get fun _ _ =>
  .ite .throw
    (.ite .trap
       (.ite (.bind .atomicOld fun _ => .bind (.modify fun _ hs => .pinWrite hs) fun _ => .pure)
          (.bind (.modify fun _ hs => .releaseLines hs) fun _ => .bind .atomicOld fun _ =>
           .bind (.modify fun _ hs => .commitLocal hs) fun _ => .pure)))

theorem MemCanonical.commitRemote {tile : Option OnTile} {l : List (Nat × Byte)} (hs : MemCanonical s) :
    MemCanonical (Machine.commitRemote tile l s) := .writePeers hs

theorem MemCanonical.committed (hs : MemCanonical s) : MemCanonical (Machine.committed c t s) :=
  .exchangeAll (.commitRemote (.commitLocal (.releaseLines hs)))

theorem KeepsCanon.commitVersion : KeepsCanon (Machine.commitVersion c) :=
  .bind .tileOf fun _ => .get fun _ hs => .ite .trap (.ite .throw (.takeRoom (.committed hs)))

theorem KeepsCanon.newPhase : KeepsCanon (Machine.newPhase c) := .get fun _ hs => .set hs
theorem KeepsCanon.pastEnd : KeepsCanon (Machine.pastEnd c va n) := .ite .xfault .pure

theorem KeepsCanon.startFill {d : QWord} {chunk : Nat} : KeepsCanon (Machine.startFill c d chunk) :=
  .bind .pastEnd fun _ => .bind (.attempt .loadRange) fun _ => by
    split
    · exact .modCoreAt
    · exact .modCoreAt
    · exact .trap
    · exact .throw

theorem KeepsCanon.touchChunks : KeepsCanon (Machine.touchChunks c a n) :=
  .each fun _ => .get fun _ _ => by
    dsimp only
    split
    · exact .pure
    · exact .ite
          (by
             split
             · exact .pure
             · exact .waitFor
             · split
               · exact .bind .modCoreAt fun _ => .trap
               · exact .bind .startFill fun _ => .waitFor) .pure

theorem KeepsCanon.spCheck : KeepsCanon (Machine.spCheck c a n) := .bind .tileOf fun _ => .trapIf

theorem KeepsCanon.spFetch : KeepsCanon (Machine.spFetch c a n) :=
  .bind .touchChunks fun _ => .get fun _ _ => by
    dsimp only
    split
    · exact .trap
    · exact .pure

theorem KeepsCanon.spLoad : KeepsCanon (Machine.spLoad c a n) := .bind .spCheck fun _ => .spFetch

theorem KeepsCanon.spStore : KeepsCanon (Machine.spStore c a l) :=
  .get fun _ _ => .bind .trapIf fun _ => .bind .spCheck fun _ => .bind .touchChunks fun _ => .modCoreAt

theorem KeepsCanon.writeBackSector {d : QWord} {chunk sec : Nat} :
    KeepsCanon (Machine.writeBackSector c d chunk sec) :=
  .get fun _ _ => .ite (.bind .pastEnd fun _ => .bind .storeBytes fun _ => .modCoreAt) .pure

theorem KeepsCanon.writeBackChunks {d : QWord} {chunks : List Nat} :
    KeepsCanon (Machine.writeBackChunks c d chunks) :=
  .ite (.eachWorst fun _ => .eachWorst fun _ => .writeBackSector) .pure

theorem KeepsCanon.writeBackAll : KeepsCanon (Machine.writeBackAll c) :=
  .get fun _ _ => .eachWorst fun _ => .writeBackChunks

end

/-! ### Canonical memory: `Machine/Regions.lean` -/

section
variable {s : State} {i va region : Nat} {l : List Byte} {x : Ctx} {α : Type}

theorem MemCanonical.keepChain {fuel : Nat} (hs : MemCanonical s) : MemCanonical (keepChain fuel i s) := by
  induction fuel generalizing i s with
  | zero => exact hs
  | succ n ih => exact .ite (.ite hs hs) (ih (.ite hs hs))

theorem MemCanonical.keepBlocks (hs : MemCanonical s) : MemCanonical (Machine.keepBlocks i s) :=
  .ite (.keepChain hs) hs

theorem KeepsCanon.useRegion : KeepsCanon (Machine.useRegion i) :=
  .bind (.modify fun _ hs => .keepBlocks hs) fun _ => .get fun _ _ => .pure

theorem KeepsCanon.writeAs : KeepsCanon (Machine.writeAs x region va l) :=
  .bind .translate fun _ => .get fun _ hs => .ite (.set (.commitLocal hs)) (.ite .trap (.set (.commitRemote hs)))

theorem MemCanonical.requestFlip {asid : Nat} (hs : MemCanonical s) : MemCanonical (Machine.requestFlip asid va s) :=
  .ite hs hs

theorem KeepsCanon.dropFlip {asid : Nat} : KeepsCanon (Machine.dropFlip asid va) := .modMem fun _ hm => hm

theorem KeepsCanon.portTry {a : Act α} (ha : KeepsCanon a) : KeepsCanon (Machine.portTry a) :=
  .bind (.attemptUndo ha) fun _ => by
    split
    · exact .pure
    · exact .pure
    · exact .get fun _ _ => .ite (.bind .dropFlip fun _ => .pure) .throw
    · exact .throw

end

/-! ### Canonical memory: `Machine/Nests.lean` -/

section
variable {s : State} {i va owner : Nat} {l : List Byte}

theorem KeepsCanon.recordBad : KeepsCanon (Machine.recordBad l) :=
  .get fun _ _ => .ite .pure (.ite .pure (.bind (.portTry .readAs) fun _ => by split <;> exact .pure))

theorem MemCanonical.pushNotices {k : Nat} (hs : MemCanonical s) : MemCanonical (pushNotices k s) := by
  induction k generalizing s with
  | zero => exact hs
  | succ k ih =>
    unfold Machine.pushNotices
    split
    · exact hs
    · exact .ite hs (ih (by
        split
        · exact .ite hs hs
        · exact hs))

theorem MemCanonical.notice (hs : MemCanonical s) : MemCanonical (Machine.notice i s) := .pushNotices hs

theorem MemCanonical.settleNest (hs : MemCanonical s) : MemCanonical (Machine.settleNest i s) :=
  .ite hs (by
    split
    · exact .ite (.notice hs) hs
    · exact .ite (.notice hs) (.notice hs)
    · exact hs)

theorem MemCanonical.enterNest {r : NestRec} (hs : MemCanonical s) : MemCanonical (Machine.enterNest i r owner s) :=
  .settleNest hs

theorem KeepsCanon.enqueue {deniedBy : State → Nat → Bool} {l : Option (List Byte)} :
    KeepsCanon (Machine.enqueue deniedBy l owner) :=
  .get fun _ hs => by
    split
    · exact .pure
    · exact .ite .pure (by
          split
          · exact .pure
          · exact .bind .recordBad fun _ =>
              .ite .pure
                (.ite .pure (.bind (.modify fun _ hs => .enterNest (.keepBlocks hs)) fun _ => .get fun _ _ => .pure)))

theorem KeepsCanon.enqueueAs {issuer : Nat} {patch : List Byte → List Byte} :
    KeepsCanon (Machine.enqueueAs issuer va patch owner) :=
  .bind .useRegion fun _ =>
  .ite .pure (.ite .pure (.bind (.portTry (.bind .readAs fun _ => .enqueue)) fun _ => by split <;> exact .pure))

end

/-! ### Canonical memory: `Machine/FaultQueue.lean` -/

section
variable {s : State} {n va region : Nat} {r : Region} {e : Stop} {α : Type}

theorem KeepsCanon.fqPut {rec_ : Record} : KeepsCanon (Machine.fqPut r rec_) :=
  .bind .readAs fun _ => .ite (.bind .writeAs fun _ => .pure) (.bind .writeAs fun _ => .bind .writeAs fun _ => .pure)

theorem KeepsCanon.fqTry {a : Act α} (ha : KeepsCanon a) : KeepsCanon (Machine.fqTry a) :=
  .bind (.attempt (.portTry ha)) fun _ => by
    split
    · exact .pure
    · exact .pure
    · exact .pure
    · exact .throw

theorem KeepsCanon.fqStep {j : FqJob} : KeepsCanon (Machine.fqStep j) := by
  unfold Machine.fqStep
  split
  · exact .ite (.bind (.fqTry .fqPut) fun _ => .ite (.bind (.modify fun _ hs => hs) fun _ => .pure) .pure)
        (.bind .pure fun _ => .ite (.bind (.modify fun _ hs => hs) fun _ => .pure) .pure)
  · exact .ite
        (.bind .pure fun _ => by
           dsimp only
           split <;> exact .pure)
        (.bind (.fqTry .enqueueAs) fun _ => by
           dsimp only
           split <;> exact .pure)
  · exact .ite (.bind (.fqTry (.bind .readAs fun _ => .writeAs)) fun _ => .pure) .pure

theorem MemCanonical.asked (hs : MemCanonical s) : MemCanonical (Machine.asked e s) := by
  unfold Machine.asked
  split
  · exact .requestFlip hs
  · exact .requestPeer hs
  · exact hs

theorem KeepsCanon.askFor : KeepsCanon (Machine.askFor e) := by
  unfold Machine.askFor
  split
  · exact .throw
  · exact .modify fun _ hs => .asked hs

theorem KeepsCanon.fqWork {j : FqJob} : KeepsCanon (fqWork n j) := by
  induction n generalizing j with
  | zero => exact .pure
  | succ n ih =>
    exact .bind (.attemptUndo .fqStep) fun _ => by
      split
      · exact .pure
      · exact ih
      · exact .bind (.modify fun _ hs => .asked hs) fun _ => .pure

theorem KeepsCanon.fqWorkAll {kept l : List FqJob} : KeepsCanon (fqWorkAll kept l) := by
  induction l generalizing kept with
  | nil => exact .pure
  | cons j r ih => exact .ite (.bind .pure fun _ => ih) (.bind .fqWork fun _ => ih)

theorem KeepsCanon.fqPump : KeepsCanon Machine.fqPump :=
  .get fun _ _ => .bind .fqWorkAll fun _ => .modify fun _ hs => hs

theorem KeepsCanon.fqSubmit {j : FqJob} : KeepsCanon (Machine.fqSubmit j) :=
  .bind (.modify fun _ hs => hs) fun _ => .fqPump

theorem KeepsCanon.postTo {rec_ : Record} : KeepsCanon (Machine.postTo r rec_) := .fqSubmit

theorem KeepsCanon.postRecord {rec_ : Record} : KeepsCanon (Machine.postRecord rec_) :=
  .bind .useRegion fun _ => .bind .useRegion fun _ => .postTo

theorem KeepsCanon.postEvent {c : Machine.Code} : KeepsCanon (Machine.postEvent region c va) := .postRecord

end

/-! ### Canonical memory: `Machine/Operands.lean` -/

section
variable {s : State} {c n region cluster : Nat}

theorem KeepsCanon.reserve {q : Nat} {st : Bool} : KeepsCanon (Machine.reserve c q st) :=
  .get fun _ hs => .bind (.set hs) fun _ => .pure

theorem KeepsCanon.land {q rid : Nat} {data : List Byte} : KeepsCanon (Machine.land c q rid data) := .modCoreAt

theorem KeepsCanon.pushEntry {q : Nat} {data : List Byte} : KeepsCanon (Machine.pushEntry c q data) :=
  .bind .reserve fun _ => .land

theorem KeepsCanon.headEntry {q : Nat} : KeepsCanon (Machine.headEntry c q) :=
  .get fun _ _ => by
    split
    · exact .trap
    · split
      · exact .pure
      · exact .waitFor

theorem KeepsCanon.dropHead {q : Nat} : KeepsCanon (Machine.dropHead c q) := .modCoreAt

theorem MemCanonical.setSem {cluster : Bool} {v : BitVec 48} (hs : MemCanonical s) :
    MemCanonical (s.setSem c cluster n v) := .ite hs hs

theorem KeepsCanon.semAdd {cluster : Bool} {v : Nat} : KeepsCanon (Machine.semAdd c cluster n v region) :=
  .get fun _ hs => .bind (.set (.setSem hs)) fun _ => .ite (.bind .postEvent fun _ => .pure) .pure

theorem KeepsCanon.semAddRemote {v : Nat} : KeepsCanon (Machine.semAddRemote c n v) :=
  .get fun _ _ => by
    split
    · exact .pure
    · exact .bind .semAdd fun _ => .pure

theorem KeepsCanon.arvSet {bit : Nat} : KeepsCanon (Machine.arvSet c n bit) := .modCoreAt

theorem MemCanonical.updBarrier {device : Bool} {f : Barrier → Barrier} (hs : MemCanonical s) :
    MemCanonical (s.updBarrier cluster device n f) := .ite hs hs

end

/-! ### Canonical memory: `Machine/Units.lean` -/

section
variable {s : State} {c n va region loc core : Nat} {x : Ctx}

theorem KeepsCanon.tagOld : KeepsCanon (Machine.tagOld loc) := .ite .atomicOld (.get fun _ _ => .pure)
theorem KeepsCanon.tagWrite : KeepsCanon (Machine.tagWrite loc n) := .bind .tagOld fun _ => .pure

theorem KeepsCanon.tagPlace : KeepsCanon (Machine.tagPlace x va) :=
  .bind .translate fun _ => .get fun _ _ => .bind .trapIf fun _ => .bind .trapIf fun _ => .pure

theorem KeepsCanon.tagPlaces : KeepsCanon (Machine.tagPlaces c) :=
  .bind .tileOf fun _ =>
  .bind
    (.collect fun _ => .bind (.attempt .tagPlace) fun _ => by
       split
       · exact .get fun _ _ => .ite .throw .pure
       · exact .pure
       · exact .throw) fun _ => .pure

theorem KeepsCanon.writeTags {l : List (Nat × Nat)} : KeepsCanon (Machine.writeTags region l) :=
  .each fun _ => .bind .tagWrite fun _ => .modify fun _ hs => .ite (.commitAt hs) (.commitRemote hs)

theorem MemCanonical.drainBarrier {x : Copy} (hs : MemCanonical s) : MemCanonical (Machine.drainBarrier c x s) :=
  .ite (.updBarrier hs) hs

theorem MemCanonical.cancelCopies (hs : MemCanonical s) : MemCanonical (Machine.cancelCopies c s) :=
  .foldl (fun _ _ hs => .garble hs) (.foldl (fun _ _ hs => .drainBarrier hs) hs)

theorem MemCanonical.tileGone {nid : Nat} {committed : Bool} (hs : MemCanonical s) :
    MemCanonical (Machine.tileGone nid committed s) := .foldl (fun _ _ hs => .consumed hs) hs

theorem MemCanonical.dropSaved {retire : Bool} {l : List Saved} (hs : MemCanonical s) :
    MemCanonical (dropSaved retire l s) :=
  .foldl (fun _ _ hs => .of_mem (.freeHeader (.foldl (fun _ _ => .garble) (.ite (.tileGone hs) hs))) rfl) hs

theorem KeepsCanon.spoilRing : KeepsCanon (Machine.spoilRing core) :=
  .get fun _ _ => .bind (.each fun _ => .bind .drawByte fun _ => .modCoreAt) fun _ => .bind .modCoreAt fun _ =>
  .modify fun _ hs => hs

theorem KeepsCanon.tileStarts : KeepsCanon (Machine.tileStarts core) :=
  .get fun _ hs => by
    split
    · exact .ite .pure
          (.ite (.bind (.modify fun _ hs => hs) fun _ => .modCoreAt)
             (.bind .semAdd fun _ => .bind (.modify fun _ hs => hs) fun _ => .modCoreAt))
    · exact .pure

end

/-! ### Canonical memory: `Machine/Ops.lean` -/

section
variable {s : State} {c n i va code : Nat} {q : Seq} {e : Stop}

theorem MemCanonical.goto {addr : DWord} (hs : MemCanonical s) : MemCanonical (s.goto c q addr) := by
  unfold State.goto
  dsimp only
  split <;> exact hs

theorem MemCanonical.advance (hs : MemCanonical s) : MemCanonical (s.advance c q n) := .goto hs

theorem MemCanonical.nextBundle (hs : MemCanonical s) : MemCanonical (s.nextBundle c n) := by
  unfold State.nextBundle
  dsimp only
  split
  · exact .advance hs
  · split
    · exact hs
    · exact .goto hs

theorem KeepsCanon.advance : KeepsCanon (Machine.advance q n) := .modify fun _ hs => .advance hs

theorem KeepsCanon.branchTo {addr : DWord} : KeepsCanon (Machine.branchTo q addr) :=
  .bind .trapIf fun _ => .modify fun _ hs => .goto hs

theorem MemCanonical.discardTile {retire : Bool} (hs : MemCanonical s) :
    MemCanonical (Machine.discardTile retire c s) := by
  unfold Machine.discardTile
  split
  · exact hs
  · exact .ite (.tileGone (.releaseLines (.cancelCopies hs))) (.releaseLines (.cancelCopies hs))

theorem MemCanonical.endTile (hs : MemCanonical s) : MemCanonical (Machine.endTile i c s) := by
  unfold Machine.endTile
  split
  · exact hs
  · exact .ite (.tileGone hs) (.discardTile hs)

theorem MemCanonical.stopNest {nid : Nat} (hs : MemCanonical s) : MemCanonical (Machine.stopNest nid s) := by
  unfold Machine.stopNest
  split
  · exact hs
  · exact .settleNest hs

theorem MemCanonical.abortCohort {nid : Nat} (hs : MemCanonical s) : MemCanonical (Machine.abortCohort nid s) := by
  unfold Machine.abortCohort
  split
  · exact hs
  · exact .ite (.dropSaved (.foldl (fun _ _ hs => .endTile hs) hs)) hs

theorem KeepsCanon.endWithRecord {handler : Bool} {seq pc : Nat} :
    KeepsCanon (Machine.endWithRecord handler c code seq va pc) :=
  .get fun _ hs => by
    split
    · exact .pure
    · exact .bind (.set (.stopNest (.abortCohort (.discardTile hs)))) fun _ => .fqSubmit

theorem KeepsCanon.abortTile {seq pc : Nat} : KeepsCanon (Machine.abortTile c code seq va pc) := .endWithRecord
theorem KeepsCanon.escalateTile {seq pc : Nat} : KeepsCanon (Machine.escalateTile c code seq va pc) := .endWithRecord

theorem KeepsCanon.enterHandler {code : Machine.Code} {imm : BitVec 8} :
    KeepsCanon (Machine.enterHandler c q code va imm) :=
  .get fun _ hs => by
    dsimp only
    split
    · exact .pure
    · exact .ite .escalateTile (.set hs)

theorem KeepsCanon.takeTrap {code : Machine.Code} {imm : BitVec 8} : KeepsCanon (Machine.takeTrap c q code va imm) :=
  .get fun _ hs => .ite (.ite .escalateTile (.set hs)) (.ite (.set hs) .enterHandler)

theorem MemCanonical.holdSeq (hs : MemCanonical s) : MemCanonical (Machine.holdSeq c q e s) := by
  unfold Machine.holdSeq
  split
  · exact hs
  · exact .requestFlip hs
  · exact hs
  · exact .requestPeer hs
  · exact hs

theorem NextCanonical.settle {r : EStateM.Result Stop State Unit} (hr : MemCanonical (leaves r)) :
    NextCanonical (settle c q r) := by
  unfold Machine.settle
  split
  · exact .next hr
  · exact .outcomeOf (.run .takeTrap hr)
  · exact .fault
  · exact .refused
  · exact .next (.holdSeq hr)

theorem NextCanonical.plain {i : Instr} {a : Act Unit} (ha : KeepsCanon a) (hs : MemCanonical s) :
    NextCanonical (Machine.plain q i a s) := .settle (.run (.bind .trapIf fun _ => ha) hs)

theorem KeepsCanon.publishWindows : KeepsCanon (Machine.publishWindows c) :=
  .bind (.attempt .writeBackAll) fun _ => by
    split
    · exact .pure
    · exact .get fun _ _ => .bind .tileOf fun _ => .ite .trap .throw

theorem KeepsCanon.publish {kind : PubKind} : KeepsCanon (Machine.publish c q kind) :=
  .get fun _ hs =>
  .ite (.bind (.set hs) fun _ => .waitFor)
    (.bind .publishWindows fun _ => .bind .tagPlaces fun _ => by
       split
       · exact .bind .escalateTile fun _ => .pure
       · exact .bind .tileOf fun _ => .bind .commitVersion fun _ => .bind .writeTags fun _ => .pure)

end

/-! ### Canonical memory: `Machine/CtlMem.lean` -/

section
variable {s : State} {c n va a loc size : Nat} {q : Seq} {v : DWord} {x : Ctx} {d : BitVec 6} {op : AtomOp}

theorem KeepsCanon.xsLoad {supv : Bool} : KeepsCanon (Machine.xsLoad supv a n) :=
  .bind .trapIf fun _ => .bind .trapIf fun _ => .bind .trapIf fun _ => .get fun _ _ => .bind .trapIf fun _ => .pure

theorem NextCanonical.execLds {o : RL} (hs : MemCanonical s) : NextCanonical (Machine.execLds o s) :=
  .plain
    (.bind .thisCore fun _ => .get fun _ _ => .bind .tileOf fun _ =>
     .ite (.bind .xsLoad fun _ => .bind .modCore fun _ => .advance)
       (.bind .trapIf fun _ =>
        .ite (.bind .loadBytes fun _ => .bind .modCore fun _ => .advance)
          (.bind .spLoad fun _ => .bind .modCore fun _ => .advance))) hs

theorem NextCanonical.execSts {o : RL} (hs : MemCanonical s) : NextCanonical (Machine.execSts o s) :=
  .plain
    (.bind .thisCore fun _ => .get fun _ _ => .bind .trapIf fun _ =>
     .ite (.bind .storeBytes fun _ => .advance) (.bind .spStore fun _ => .advance)) hs

theorem KeepsCanon.hostAtomic {haf : Bool} {v w : Nat} : KeepsCanon (Machine.hostAtomic c q haf op size va loc v w) :=
  .get fun _ hs => .ite (.set hs) .trap

theorem KeepsCanon.atomicProbe : KeepsCanon (Machine.atomicProbe c op size va) :=
  .bind .trapIf fun _ => .bind .tileOf fun _ => .bind .translate fun _ => .get fun _ _ =>
  .ite (.ite .throw .pure) (.ite .trapIf .trapIf)

theorem KeepsCanon.atomicAt {remote : Option Remote} {setRemote : Option Remote → Act Unit} {scope : Scope}
    {v w : Nat} (hsetRemote : ∀ x, KeepsCanon (setRemote x)) :
    KeepsCanon (Machine.atomicAt c q remote setRemote op scope size va v w) :=
  .bind .trapIf fun _ => by
    split
    · exact .bind (hsetRemote _) fun _ => .pure
    · exact .bind (hsetRemote _) fun _ => .trap
    · exact .waitFor
    · exact .bind .tileOf fun _ => .bind .translate fun _ =>
        .ite .atomicLocal
          (.ite (.bind .hostAtomic fun _ => .bind (hsetRemote _) fun _ => .waitFor)
             (.get fun _ hs => .ite .trap
                (.bind (.set (.askPeer hs)) fun _ => .bind (hsetRemote _) fun _ => .waitFor)))

theorem KeepsCanon.ctlAtomic {scope : Nat} {a : BitVec 6} {w : DWord} :
    KeepsCanon (Machine.ctlAtomic op size scope d a v w) :=
  .get fun _ _ => .bind (.atomicAt fun _ => .modCoreAt) fun _ => .bind .modCore fun _ => .advance

theorem KeepsCanon.atomOp {o : RL4} : KeepsCanon (Machine.atomOp op o) := .bind .thisCore fun _ => .ctlAtomic

theorem MemCanonical.answerAtomic {r : Remote} (hs : MemCanonical s) : MemCanonical (Machine.answerAtomic c q r s) :=
  .ite hs hs

theorem MemCanonical.finishHostAtom {a : HostAtom} {r : Remote} (hs : MemCanonical s) :
    MemCanonical (Machine.finishHostAtom a r s) := .ite (.answerAtomic hs) hs

theorem NextCanonical.execHostAtomicCompletion (hs : MemCanonical s) :
    NextCanonical (Machine.execHostAtomicCompletion s) :=
  .event
    (.get fun _ hs => by
       dsimp only
       split
       · exact .pure
       · split
         · exact .set (.finishHostAtom hs)
         · exact .ite (.set hs) (.set (.finishHostAtom hs))) hs

end

/-! ### Canonical memory: `Machine/CtlSync.lean` -/

section
variable {s : State} {c : Nat} {q : Seq}

theorem NextCanonical.execTkpost {o : RI} (hs : MemCanonical s) : NextCanonical (Machine.execTkpost o s) :=
  .plain (.bind .thisCore fun _ => .ite .waitFor (.bind .trapIf fun _ => .bind .modCore fun _ => .advance)) hs

theorem NextCanonical.execSemwait {o : RL} (hs : MemCanonical s) : NextCanonical (Machine.execSemwait o s) :=
  .plain (.get fun _ _ => .bind .thisCore fun _ => .ite .waitFor (.bind .modCore fun _ => .advance)) hs

theorem NextCanonical.execSemadd {o : RL} (hs : MemCanonical s) : NextCanonical (Machine.execSemadd o s) :=
  .plain
    (.get fun _ _ => .bind .thisCore fun _ => .bind .tileOf fun _ => .bind .semAdd fun _ => .bind .modCore fun _ =>
     .advance) hs

theorem NextCanonical.execSemset {o : RL} (hs : MemCanonical s) : NextCanonical (Machine.execSemset o s) :=
  .plain
    (.get fun _ _ => .bind .thisCore fun _ => .bind (.modify fun _ hs => .setSem hs) fun _ => .bind .modCore fun _ =>
     .advance) hs

theorem NextCanonical.execFence {o : R3F} (hs : MemCanonical s) : NextCanonical (Machine.execFence o s) :=
  .plain
    (.get fun _ _ => .ite (.ite (.bind (.modify fun _ hs => .releaseLines hs) fun _ => .advance) .advance) .waitFor)
    hs

theorem KeepsCanon.barArrive {device : Bool} {num : Nat} : KeepsCanon (Machine.barArrive c device num) :=
  .get fun _ hs =>
  .ite (.bind (.set hs) fun _ => .waitFor)
    (.bind (.set (.updBarrier hs)) fun _ => .bind .modTile fun _ => .modify fun _ hs => .advance hs)

theorem KeepsCanon.published {kind : PubKind} : KeepsCanon (Machine.published c q kind) := by
  unfold Machine.published
  split
  · exact .modify fun _ hs => .advance hs
  · exact .barArrive
  · exact .bind .modTile fun _ => .modify fun _ hs => hs

theorem KeepsCanon.publishFor {kind : PubKind} : KeepsCanon (Machine.publishFor c q kind) :=
  .bind .publish fun _ => .ite .published .pure

theorem NextCanonical.execPublicationCommit (hs : MemCanonical s) :
    NextCanonical (Machine.execPublicationCommit s) := by
  unfold Machine.execPublicationCommit
  dsimp only
  split
  · exact .next hs
  · exact .ite (.next hs) (.settle (.run .publishFor hs))

theorem NextCanonical.execBarw {o : R3F} (hs : MemCanonical s) : NextCanonical (Machine.execBarw o s) :=
  .plain
    (.get fun _ _ => .bind .trapIf fun _ => .bind .tileOf fun _ =>
     .ite (.bind .writeBackAll fun _ => .bind .newPhase fun _ => .bind .modTile fun _ => .advance)
       (.bind .modCore fun _ => .waitFor)) hs

theorem NextCanonical.execMqadv {o : R3F} (hs : MemCanonical s) : NextCanonical (Machine.execMqadv o s) :=
  .plain
    (.bind .thisCore fun _ => by
       split
       · exact .trap
       · exact .bind .trapIf fun _ => .bind (.modify fun _ hs => hs) fun _ => .bind .modCore fun _ => .advance) hs

theorem NextCanonical.execWset {o : R3F} (hs : MemCanonical s) : NextCanonical (Machine.execWset o s) :=
  .plain
    (.get fun _ _ => .bind .thisCore fun _ => .bind .tileOf fun _ => .bind .trapIf fun _ => .bind .trapIf fun _ =>
     .bind .modCore fun _ => .advance) hs

theorem NextCanonical.execWrel {o : R3F} (hs : MemCanonical s) : NextCanonical (Machine.execWrel o s) :=
  .plain
    (.get fun _ _ => .bind .thisCore fun _ => by
       split
       · exact .advance
       · exact .ite (.bind .writeBackChunks fun _ => .bind .modCore fun _ => .advance) .waitFor) hs

theorem NextCanonical.execTmpld {o : RL} (hs : MemCanonical s) : NextCanonical (Machine.execTmpld o s) :=
  .plain
    (.get fun _ _ => .bind .thisCore fun _ => .bind .trapIf fun _ => .bind .spLoad fun _ => .bind .modCore fun _ =>
     .bind .modTile fun _ => .advance) hs

theorem NextCanonical.execNop (hs : MemCanonical s) : NextCanonical (Machine.execNop s) := .plain .advance hs

end

/-! ### Canonical memory: `Machine/Stream.lean` -/

section
variable {s : State} {c n i a : Nat} {q : Seq} {x : Ctx} {t : Tile} {o : DirectOp} {e : Stop} {α β : Type}

theorem KeepsCanon.readShape : KeepsCanon (Machine.readShape t c i) :=
  .bind .readAs fun _ => .bind .trapIf fun _ => .bind .readAs fun _ => .pure

theorem KeepsCanon.resolve {h : Nat} : KeepsCanon (Machine.resolve c h) :=
  .get fun _ _ => .bind .tileOf fun _ => .bind .trapIf fun _ => .bind .trapIf fun _ => by
    dsimp only
    split
    · exact .bind .modCoreAt fun _ => .pure
    · exact .bind .readShape fun _ => .bind .modCoreAt fun _ => .pure

theorem KeepsCanon.walkLanes {w : Walk} {e : Nat} : KeepsCanon (Machine.walkLanes c w e) :=
  .ite .pure (.bind .spLoad fun _ => .ite .pure .pure)

theorem KeepsCanon.byLane {l : List α} {f : α → Act β} (hf : ∀ x, KeepsCanon (f x)) :
    KeepsCanon (Machine.byLane l f) :=
  .bind (.collect fun _ => .bind (.attempt (hf _)) fun _ => .pure) fun _ => by split <;> exact .pure

theorem KeepsCanon.laneRead {sh : Shape} {x : Lane} : KeepsCanon (Machine.laneRead c sh x) := by
  unfold Machine.laneRead
  split
  · exact .pure
  · exact .trap
  · exact .bind .trapIf fun _ => .ite .spLoad (.bind .trapIf fun _ => .loadBytes)

theorem KeepsCanon.readEntry {w : Walk} {e : Nat} : KeepsCanon (Machine.readEntry c w e) :=
  .bind (.attempt .walkLanes) fun _ => by
    split
    · exact .pure
    · exact .bind (.byLane fun _ => .laneRead) fun _ => by split <;> exact .pure

theorem KeepsCanon.lanePlace {sp : Bool} : KeepsCanon (Machine.lanePlace c sp a n) :=
  .bind .trapIf fun _ =>
  .ite (.get fun _ _ => .bind .trapIf fun _ => .bind .spCheck fun _ => .bind .touchChunks fun _ => .pure)
    (.bind .trapIf fun _ => .tilePlace)

theorem KeepsCanon.laneCheck {sh : Shape} {x : Lane} {src : Act (List Byte)} (hsrc : KeepsCanon src) :
    KeepsCanon (Machine.laneCheck c sh x src) := by
  unfold Machine.laneCheck
  split
  · exact .pure
  · exact .trap
  · exact .bind (.attempt .lanePlace) fun _ => .bind (.attempt hsrc) fun _ => by
        split
        · exact .pure
        · exact .throw
        · exact .throw
        · exact .throw

theorem KeepsCanon.overflowLane {l : List (List (Nat × Byte))} : KeepsCanon (overflowLane c l n) := by
  induction n with
  | zero => exact .pure
  | succ n ih =>
    exact .bind (.attemptUndo .versionWrite) fun _ => by
      split
      · exact .pure
      · exact ih

theorem KeepsCanon.overflowOf {ls : List Lane} {l : List (List (Nat × Byte))} :
    KeepsCanon (Machine.overflowOf c ls l) :=
  .bind (.attemptUndo .versionWrite) fun _ => by
    split
    · exact .bind .overflowLane fun _ => .pure
    · exact .pure

theorem KeepsCanon.putLanes {sp : Bool} {via : List (Nat × Nat)} {l : List (Nat × Byte)} :
    KeepsCanon (Machine.putLanes c sp via l) := .ite .modCoreAt .versionWrite

theorem KeepsCanon.laneDests {sh : Shape} {ls : List Lane} : KeepsCanon (Machine.laneDests c sh ls) :=
  .collect fun _ => by
    split
    · exact .bind (.attempt .lanePlace) fun _ => by split <;> exact .pure
    · exact .pure

theorem KeepsCanon.writeEntry {w : Walk} {e : Nat} {src : Nat → Act (List Byte)} {lanes : Nat}
    (hsrc : ∀ x, KeepsCanon (src x)) :
    KeepsCanon (Machine.writeEntry c w e src lanes) :=
  .bind (.attempt .walkLanes) fun _ => by
    split
    · exact .pure
    · exact .bind (.byLane fun _ => .laneCheck (hsrc _)) fun _ => by
          split
          · exact .ite (.bind .laneDests fun _ => .bind .overflowOf fun _ => .pure) .pure
          · exact .bind (.attempt .putLanes) fun _ => by
                split
                · exact .pure
                · exact .bind .overflowOf fun _ => .pure

theorem KeepsCanon.writeBelow {w : Walk} {e : Nat} {src : Nat → Act (List Byte)} {lanes : Nat}
    (hsrc : ∀ x, KeepsCanon (src x)) :
    KeepsCanon (Machine.writeBelow c w e src lanes) :=
  .bind (.attempt .walkLanes) fun _ => by
    split
    · exact .pure
    · exact .each fun _ => .bind (.attempt (.laneCheck (hsrc _))) fun _ => by
          split
          · exact .bind (.attempt .putLanes) fun _ => .pure
          · exact .pure

theorem KeepsCanon.headStop {lane entry : Nat} {old : HeadWait} : KeepsCanon (Machine.headStop lane entry e old) :=
  .get fun _ hs => by
    split
    · exact .pure
    · exact .bind (.modify fun _ hs => .requestFlip hs) fun _ => .pure
    · exact .pure
    · exact .bind (.modify fun _ hs => .requestPeer hs) fun _ => .pure
    · exact .pure
    · exact .throw
    · exact .throw

theorem KeepsCanon.reportHeld : KeepsCanon (Machine.reportHeld c q) :=
  .get fun _ _ => by
    dsimp only
    split
    · exact .pure
    · exact .ite .pure (.bind .modCoreAt fun _ => .takeTrap)

theorem NextCanonical.execHeldFaultTrap (hs : MemCanonical s) : NextCanonical (Machine.execHeldFaultTrap s) :=
  .event .reportHeld hs

theorem KeepsCanon.trapLowest {l : List (Bool × Machine.Code × Nat)} : KeepsCanon (Machine.trapLowest l) := by
  unfold Machine.trapLowest
  split
  · exact .throw
  · exact .pure

theorem KeepsCanon.resolveWith {h : Nat} {l : List (Bool × Machine.Code × Nat)}
    {m : Shape → List (Bool × Machine.Code × Nat)} :
    KeepsCanon (Machine.resolveWith c h l m) :=
  .bind (.attempt .resolve) fun _ => by
    split
    · exact .bind .trapLowest fun _ => .pure
    · exact .bind .trapLowest fun _ => .pure
    · exact .throw

theorem KeepsCanon.directRoom : KeepsCanon (Machine.directRoom q) := .bind .thisCore fun _ => .ite .waitFor .pure

theorem KeepsCanon.enterDirect {len : Nat} : KeepsCanon (Machine.enterDirect q len o) :=
  .bind .modCore fun _ => .advance

theorem KeepsCanon.ncmp {o : R3} {f : DWord → DWord → Bool} : KeepsCanon (Machine.ncmp q o f) :=
  .bind .modCore fun _ => .advance

theorem NextCanonical.execNloop {o : RL} (hs : MemCanonical s) : NextCanonical (Machine.execNloop o s) :=
  .plain
    (.bind .thisCore fun _ =>
     .ite (.bind .modCore fun _ => .advance) (.bind .trapIf fun _ => .bind .modCore fun _ => .branchTo)) hs

end

/-! ### Canonical memory: `Machine/Copy.lean` -/

section
variable {s : State} {c n i va a j : Nat} {l : List Byte} {x : Ctx} {e : Stop}

theorem KeepsCanon.acceptCopy {kind : CopyKind} {o : Cmd} : KeepsCanon (Machine.acceptCopy kind o) :=
  .bind .thisCore fun _ => .get fun _ _ => .bind .tileOf fun _ =>
  .ite .waitFor
    (.bind .trapIf fun _ => .bind .trapLowest fun _ => .bind (.modMem fun _ hm => hm) fun _ =>
     .ite
       (.bind .modTile fun _ =>
        .ite (.bind (.modify fun _ hs => .updBarrier hs) fun _ => .bind .modCore fun _ => .advance)
          (.bind .modCore fun _ => .advance))
       (.ite (.bind (.modify fun _ hs => .updBarrier hs) fun _ => .bind .modCore fun _ => .advance)
          (.bind .modCore fun _ => .advance)))

theorem KeepsCanon.copyPlace {start : Nat} {acc : Machine.Acc} : KeepsCanon (Machine.copyPlace c start acc va) :=
  .bind .tileOf fun _ => .bind .translate fun _ => .get fun _ _ => .pure

theorem KeepsCanon.spanLocs {start : Nat} {acc : Machine.Acc} : KeepsCanon (Machine.spanLocs c start acc va n) :=
  .bind .copyPlace fun _ => .ite (.bind .copyPlace fun _ => .bind .pure fun _ => .pure) (.bind .pure fun _ => .pure)

theorem KeepsCanon.copyLoad {x : Copy} : KeepsCanon (Machine.copyLoad c x va n) :=
  .bind .tileOf fun _ => .bind .spanLocs fun _ => .collect fun _ => .tileByte

theorem KeepsCanon.blockAt {x : Copy} : KeepsCanon (blockAt c x n) := by
  induction n with
  | zero => exact .pure
  | succ n ih =>
    exact .bind ih fun _ => .bind .copyLoad fun _ => by
      split
      · exact .pure
      · exact .trap

theorem KeepsCanon.chunkSource {x : Copy} : KeepsCanon (Machine.chunkSource c x j) :=
  .ite
    (.bind .blockAt fun _ => .bind .copyLoad fun _ => by
       split
       · exact .trap
       · exact .bind .copyLoad fun _ => by
             split
             · exact .trap
             · exact .pure) (.ite (.bind .spLoad fun _ => .pure) .copyLoad)

theorem KeepsCanon.overlapBytes {x : Copy} : KeepsCanon (Machine.overlapBytes x a l) :=
  .collect fun _ => .ite .drawByte .pure

theorem KeepsCanon.chunkLand {x : Copy} : KeepsCanon (Machine.chunkLand c x j l) :=
  .bind .tileOf fun _ =>
  .ite (.bind .spanLocs fun _ => .pure)
    (.ite (.bind .spanLocs fun _ => .get fun _ hs => .bind (.takeRoom hs) fun _ => .pure)
       (.ite
          (.bind .touchChunks fun _ => .get fun _ _ => .bind .overlapBytes fun _ => .bind .modCoreAt fun _ => .pure)
          (.bind (.modMem fun _ hm => hm) fun _ => .pure)))

theorem KeepsCanon.updCopy {f : Copy → Copy} : KeepsCanon (Machine.updCopy c i f) := .modCoreAt

theorem KeepsCanon.copyStop {x : Copy} : KeepsCanon (Machine.copyStop c i x e) :=
  .get fun _ hs => by
    split
    · exact .updCopy
    · exact .bind (.modify fun _ hs => .requestFlip hs) fun _ => .updCopy
    · exact .updCopy
    · exact .modify fun _ hs => .requestPeer hs
    · exact .pure
    · exact .throw
    · exact .throw

theorem KeepsCanon.countBlock {x : Copy} {bad : Bool} : KeepsCanon (Machine.countBlock c x j bad) :=
  .ite (.modify fun _ hs => hs) .pure

theorem NextCanonical.execCopyChunkArrival (hs : MemCanonical s) :
    NextCanonical (Machine.execCopyChunkArrival s) := by
  unfold Machine.execCopyChunkArrival
  dsimp only
  split
  · exact .next hs
  · exact .event
        (.bind (.attempt (.bind .chunkSource fun _ => .bind .chunkLand fun _ => .pure)) fun _ => by
           split
           · exact .bind .countBlock fun _ => .bind .updCopy fun _ => .bind (.modify fun _ hs => hs) fun _ => by
                 split
                 · exact .arvSet
                 · exact .pure
           · split
             · exact .bind .countBlock fun _ => .copyStop
             · exact .copyStop) hs

theorem NextCanonical.execShadowWriteRelease (hs : MemCanonical s) :
    NextCanonical (Machine.execShadowWriteRelease s) := by
  unfold Machine.execShadowWriteRelease
  dsimp only
  split
  · exact .next hs
  · exact .event .updCopy hs

theorem KeepsCanon.completeTag {x : Copy} : KeepsCanon (Machine.completeTag c x) :=
  .bind .tileOf fun _ =>
  .ite .pure
    (.ite .modTile
       (.bind .tagPlace fun _ => .get fun _ hs =>
        .ite
          (.ite
             (.bind (.set (.releaseLines hs)) fun _ => .bind .tagWrite fun _ => .modify fun _ h => by
                split
                · exact .commitLocal h
                · exact .commitRemote h)
             (.bind .throw fun _ => .bind .tagWrite fun _ => .modify fun _ h => by
                split
                · exact .commitLocal h
                · exact .commitRemote h))
          (.bind .tagWrite fun _ => .modify fun _ h => by
             split
             · exact .commitLocal h
             · exact .commitRemote h)))

theorem KeepsCanon.completeCopy {x : Copy} : KeepsCanon (Machine.completeCopy c x) :=
  .bind .completeTag fun _ => .bind .tileOf fun _ =>
  .ite (.bind .semAdd fun _ => .ite (.bind .modTile fun _ => .modCoreAt) .modCoreAt)
    (.bind (.modify fun _ hs => .drainBarrier hs) fun _ => .ite (.bind .modTile fun _ => .modCoreAt) .modCoreAt)

theorem NextCanonical.execCopyComplete (hs : MemCanonical s) : NextCanonical (Machine.execCopyComplete s) := by
  unfold Machine.execCopyComplete
  dsimp only
  split
  · exact .next hs
  · exact .event
        (.bind (.attempt .completeCopy) fun _ => by
           split
           · exact .pure
           · exact .copyStop) hs

theorem NextCanonical.execCopyFault (hs : MemCanonical s) : NextCanonical (Machine.execCopyFault s) := by
  unfold Machine.execCopyFault
  dsimp only
  split
  · exact .next hs
  · split
    · exact .next hs
    · exact .event .escalateTile hs

theorem KeepsCanon.leaseLines : KeepsCanon (Machine.leaseLines x a n) :=
  .get fun _ _ =>
  .bind
    (.collect fun _ =>
     .ite .pure
       (.bind (.attempt .lookup) fun _ => by
          split
          · exact .ite .pure .pure
          · exact .pure
          · exact .throw)) fun _ => .pure

theorem NextCanonical.execLease {o : Cmd} (hs : MemCanonical s) : NextCanonical (Machine.execLease o s) :=
  .plain
    (.bind .thisCore fun _ => .get fun _ _ => .bind .tileOf fun _ => .bind .trapIf fun _ => .bind .leaseLines fun _ =>
     .get fun _ _ => by
       dsimp only
       split
       · exact .bind (.modMem fun _ hm => hm) fun _ => .bind .modCore fun _ => .advance
       · exact .bind .modCore fun _ => .advance) hs

theorem NextCanonical.execLrel {o : Cmd} (hs : MemCanonical s) : NextCanonical (Machine.execLrel o s) :=
  .plain
    (.get fun _ _ => .bind .tileOf fun _ => by
       dsimp only
       split
       · exact .bind .modCore fun _ => .advance
       · exact .ite (.bind .modCore fun _ => .advance)
             (.bind (.modMem fun _ hm => hm) fun _ => .bind .modCore fun _ => .advance)) hs

theorem NextCanonical.execLeaseExpiry (hs : MemCanonical s) : NextCanonical (Machine.execLeaseExpiry s) := by
  unfold Machine.execLeaseExpiry
  exact .event (.modMem fun _ hm => hm) hs

end

/-! ### Canonical memory: `Machine/StreamLd.lean` -/

section
variable {s : State} {c n : Nat} {q : Seq} {o : DirectOp} {e : Stop}

theorem NextCanonical.execGath {o : R3F} (hs : MemCanonical s) : NextCanonical (Machine.execGath o s) :=
  .plain
    (.get fun _ _ => .bind .thisCore fun _ => .bind .tileOf fun _ => .bind .resolveWith fun _ =>
     .bind .modCore fun _ => .advance) hs

theorem NextCanonical.execLdq {o : R3F} (hs : MemCanonical s) : NextCanonical (Machine.execLdq o s) :=
  .plain
    (.get fun _ _ => .bind .thisCore fun _ => .bind .trapIf fun _ => .bind .directRoom fun _ =>
     .bind .resolveWith fun _ => .bind .reserve fun _ => .enterDirect) hs

theorem NextCanonical.execLdt {o : RL} (hs : MemCanonical s) : NextCanonical (Machine.execLdt o s) :=
  .plain
    (.get fun _ _ => .bind .thisCore fun _ => .bind .tileOf fun _ => .bind .directRoom fun _ =>
     .bind .resolveWith fun _ => .enterDirect) hs

theorem KeepsCanon.windowTraps {k : Core} {w first : Nat} : KeepsCanon (Machine.windowTraps k w first n) := by
  unfold Machine.windowTraps
  split
  · exact .trap
  · exact .bind .trapIf fun _ => .pure

theorem NextCanonical.execMfill {o : RL} (hs : MemCanonical s) : NextCanonical (Machine.execMfill o s) :=
  .plain
    (.bind .thisCore fun _ => .bind .windowTraps fun _ => .ite (.bind .directRoom fun _ => .enterDirect) .advance) hs

theorem KeepsCanon.streamRead {q : Nat} : KeepsCanon (Machine.streamRead c q) :=
  .get fun _ _ => by
    split
    · exact .pure
    · exact .bind .readEntry fun _ => by
          split
          · exact .modCoreAt
          · exact .bind .headStop fun _ => .modCoreAt

theorem NextCanonical.execStreamEntryRead (hs : MemCanonical s) : NextCanonical (Machine.execStreamEntryRead s) :=
  .event (.get fun _ _ => .streamRead) hs

theorem NextCanonical.execStreamEntryLand (hs : MemCanonical s) : NextCanonical (Machine.execStreamEntryLand s) :=
  .event
    (.get fun _ _ => by
       dsimp only
       split
       · exact .pure
       · split
         · exact .pure
         · exact .bind .pushEntry fun _ => .modCoreAt) hs

theorem KeepsCanon.directStop {lane entry : Nat} : KeepsCanon (Machine.directStop c q lane entry e) :=
  .get fun _ _ => by
    split
    · exact .pure
    · exact .bind .headStop fun _ => .modCoreAt

theorem KeepsCanon.directStep : KeepsCanon (Machine.directStep c q) := .modCoreAt
theorem KeepsCanon.directDone : KeepsCanon (Machine.directDone c q) := .modCoreAt

theorem KeepsCanon.ldPart : KeepsCanon (Machine.ldPart c o) := by
  unfold Machine.ldPart
  split
  · exact .ite
        (.bind .pure fun _ => by
           dsimp only
           split
           · exact .bind .land fun _ => .pure
           · exact .pure)
        (.bind .readEntry fun _ => by
           dsimp only
           split
           · exact .bind .land fun _ => .pure
           · exact .pure)
  · exact .bind (.ite .pure .readEntry) fun _ => by
        split
        · exact .bind (.attempt .spStore) fun _ => by split <;> exact .pure
        · exact .pure
  · exact .get fun _ _ => by
        dsimp only
        split
        · exact .pure
        · split
          · exact .pure
          · exact .pure
          · split
            · exact .bind .modCoreAt fun _ => .pure
            · exact .bind (.attempt .startFill) fun _ => by split <;> exact .pure

theorem KeepsCanon.ldStep : KeepsCanon (Machine.ldStep c) :=
  .get fun _ _ => by
    split
    · exact .pure
    · exact .bind .ldPart fun _ => by
          split
          · exact .bind .directStep fun _ => .pure
          · exact .bind .directStop fun _ => .pure

theorem KeepsCanon.ldRun : KeepsCanon (ldRun c n) := by
  induction n with
  | zero => exact .directDone
  | succ n ih => exact .bind .ldStep fun _ => .ite ih .pure

theorem KeepsCanon.startFills : KeepsCanon (Machine.startFills c o) :=
  .ite
    (.bind .modCoreAt fun _ => .each fun _ => .get fun _ _ => by
       dsimp only
       split
       · exact .pure
       · exact .ite (.bind (.attempt .startFill) fun _ => .pure) .pure) .pure

theorem NextCanonical.execLdDirectOpComplete (hs : MemCanonical s) :
    NextCanonical (Machine.execLdDirectOpComplete s) :=
  .event
    (.get fun _ _ => by
       dsimp only
       split
       · exact .pure
       · exact .bind .startFills fun _ => .ldRun) hs

theorem KeepsCanon.padHeld : KeepsCanon (Machine.padHeld c) :=
  .get fun _ _ =>
  .ite
    (by
       split
       · exact .ite (.bind .pushEntry fun _ => .modCoreAt) .pure
       · exact .pure) (by
    split
    · exact .ite
          (.ite
             (.bind .modCoreAt fun _ => .bind .ldStep fun _ => .get fun _ _ => by
                split
                · exact .ite .directDone .pure
                · exact .pure)
             (.ite
                (.bind .land fun _ => .bind .modCoreAt fun _ => .bind .directStep fun _ => .get fun _ _ => by
                   split
                   · exact .ite .directDone .pure
                   · exact .pure)
                (.bind .modCoreAt fun _ => .bind .directStep fun _ => .get fun _ _ => by
                   split
                   · exact .ite .directDone .pure
                   · exact .pure))) .pure
    · exact .pure)

end

/-! ### Canonical memory: `Machine/StreamSt.lean` -/

section
variable {s : State} {c n core j : Nat} {q : Seq} {o : DirectOp} {op : AtomOp}

theorem KeepsCanon.unbindSt {q : Nat} : KeepsCanon (Machine.unbindSt q) :=
  .bind .thisCore fun _ => by
    split
    · exact .pure
    · exact .ite .waitFor .modCore

theorem KeepsCanon.bindSt {q : Nat} {b : Binding} : KeepsCanon (Machine.bindSt q b) :=
  .bind .unbindSt fun _ => .modCore

theorem NextCanonical.execSbindSt {o : R3F} (hs : MemCanonical s) : NextCanonical (Machine.execSbindSt o s) :=
  .plain (.get fun _ _ => .bind .thisCore fun _ => .bind .resolve fun _ => .bind .bindSt fun _ => .advance) hs

theorem NextCanonical.execScat {o : R3F} (hs : MemCanonical s) : NextCanonical (Machine.execScat o s) :=
  .plain
    (.get fun _ _ => .bind .thisCore fun _ => .bind .tileOf fun _ => .bind .resolveWith fun _ =>
     .bind .bindSt fun _ => .advance) hs

theorem NextCanonical.execStq {o : R3F} (hs : MemCanonical s) : NextCanonical (Machine.execStq o s) :=
  .plain
    (.get fun _ _ => .bind .thisCore fun _ => .bind .trapIf fun _ => .bind .directRoom fun _ =>
     .ite
       (.bind .waitFor fun _ => .bind .resolveWith fun _ => .bind .headEntry fun _ =>
        .ite (.bind .dropHead fun _ => .enterDirect) .enterDirect)
       (.bind .resolveWith fun _ => .bind .headEntry fun _ =>
        .ite (.bind .dropHead fun _ => .enterDirect) .enterDirect)) hs

theorem NextCanonical.execStt {o : RL} (hs : MemCanonical s) : NextCanonical (Machine.execStt o s) :=
  .plain
    (.get fun _ _ => .bind .thisCore fun _ => .bind .tileOf fun _ => .bind .directRoom fun _ =>
     .bind .resolveWith fun _ => .enterDirect) hs

theorem NextCanonical.execMwb {o : RL} (hs : MemCanonical s) : NextCanonical (Machine.execMwb o s) :=
  .plain
    (.get fun _ _ => .bind .thisCore fun _ => .bind .windowTraps fun _ =>
     .ite (.bind .directRoom fun _ => .enterDirect) .advance) hs

theorem KeepsCanon.atomvIssueSp {o : RL4} {sel : BitVec 4} : KeepsCanon (Machine.atomvIssueSp op o sel) :=
  .get fun _ _ => .bind .thisCore fun _ => .bind .tileOf fun _ => .bind .trapIf fun _ => .bind .trapIf fun _ =>
  .bind .directRoom fun _ => .enterDirect

theorem KeepsCanon.atomvIssueQ {o : RL4} {sel : BitVec 4} : KeepsCanon (Machine.atomvIssueQ op o sel) :=
  .get fun _ _ => .bind .thisCore fun _ => .bind .trapLowest fun _ => .bind .directRoom fun _ =>
  .ite
    (.bind .waitFor fun _ => .bind .headEntry fun _ => .bind .headEntry fun _ => .bind .dropHead fun _ =>
     .ite
       (.bind .dropHead fun _ =>
        .ite (.bind (.bind .reserve fun _ => .pure) fun _ => .enterDirect) (.bind .pure fun _ => .enterDirect))
       (.ite (.bind (.bind .reserve fun _ => .pure) fun _ => .enterDirect) (.bind .pure fun _ => .enterDirect)))
    (.bind .headEntry fun _ => .bind .headEntry fun _ => .bind .dropHead fun _ =>
     .ite
       (.bind .dropHead fun _ =>
        .ite (.bind (.bind .reserve fun _ => .pure) fun _ => .enterDirect) (.bind .pure fun _ => .enterDirect))
       (.ite (.bind (.bind .reserve fun _ => .pure) fun _ => .enterDirect) (.bind .pure fun _ => .enterDirect)))

theorem KeepsCanon.atomvIssue {sel : BitVec 4} {o : RL4} : KeepsCanon (Machine.atomvIssue op sel o) :=
  .ite .atomvIssueSp .atomvIssueQ

theorem KeepsCanon.streamWrite {q : Nat} : KeepsCanon (Machine.streamWrite c q) :=
  .get fun _ _ => by
    dsimp only
    split
    · exact .ite
          (.bind .pure fun _ => by
             split
             · exact .bind .dropHead fun _ => .modCoreAt
             · exact .bind .headStop fun _ => .modCoreAt)
          (.bind (.writeEntry fun _ => .pure) fun _ => by
             split
             · exact .bind .dropHead fun _ => .modCoreAt
             · exact .bind .headStop fun _ => .modCoreAt)
    · exact .pure

theorem NextCanonical.execStStreamEntryWrite (hs : MemCanonical s) :
    NextCanonical (Machine.execStStreamEntryWrite s) := .event (.get fun _ _ => .streamWrite) hs

theorem KeepsCanon.atomvElem {value : Bool} : KeepsCanon (Machine.atomvElem c o value j) :=
  .ite (.bind .spLoad fun _ => .pure) .pure

theorem KeepsCanon.atomvLane : KeepsCanon (Machine.atomvLane c o j) :=
  .bind .atomvElem fun _ =>
  .ite .pure
    (.bind (.attempt .atomvElem) fun _ => by
       dsimp only
       split
       · exact .bind .pure fun _ => .atomicAt fun _ => .modCoreAt
       · exact .bind (.ite .pure (.attempt .atomicProbe)) fun _ => by
             split <;> exact .bind .throw fun _ => .atomicAt fun _ => .modCoreAt)

theorem KeepsCanon.atomvResult : KeepsCanon (Machine.atomvResult c o) :=
  .ite .spStore (by
    split
    · exact .land
    · exact .pure)

theorem KeepsCanon.sttSource {l : Nat} : KeepsCanon (Machine.sttSource c o l) := .spLoad

theorem KeepsCanon.stPart : KeepsCanon (Machine.stPart c o) := by
  unfold Machine.stPart
  dsimp only
  split
  · exact .ite .pure (.writeEntry fun _ => .pure)
  · exact .writeEntry fun _ => .sttSource
  · exact .ite
        (.bind (.attempt .atomvLane) fun _ => by
           split
           · exact .bind .modCoreAt fun _ => .pure
           · exact .pure) (.bind (.attempt .atomvResult) fun _ => by split <;> exact .pure)
  · exact .get fun _ _ => by
        split
        · exact .pure
        · exact .bind (.attempt .writeBackChunks) fun _ => by split <;> exact .pure

theorem KeepsCanon.stRun : KeepsCanon (stRun c n) := by
  induction n with
  | zero => exact .directDone
  | succ n ih =>
    exact .get fun _ _ => by
      split
      · exact .pure
      · exact .bind .stPart fun _ => by
          split
          · exact .bind .directStep fun _ => ih
          · exact .directStop

theorem NextCanonical.execStDirectOpComplete (hs : MemCanonical s) :
    NextCanonical (Machine.execStDirectOpComplete s) :=
  .event
    (.get fun _ _ => by
       split
       · exact .pure
       · exact .stRun) hs

theorem KeepsCanon.dropLanes {lane : Nat} : KeepsCanon (Machine.dropLanes c o lane) := by
  unfold Machine.dropLanes
  dsimp only
  split
  · exact .writeBelow fun _ => .pure
  · exact .writeBelow fun _ => .sttSource
  · exact .pure

theorem KeepsCanon.dropHeld : KeepsCanon (Machine.dropHeld c) :=
  .get fun _ _ =>
  .ite
    (by
       dsimp only
       split
       · split
         · exact .pure
         · split
           · exact .bind (.writeBelow fun _ => .pure) fun _ => .bind .dropHead fun _ => .modCoreAt
           · exact .bind .dropHead fun _ => .modCoreAt
       · exact .pure) (by
    split
    · split
      · exact .pure
      · exact .bind .dropLanes fun _ => .bind .modCoreAt fun _ => .bind .directStep fun _ => .ite .directDone .pure
    · exact .pure)

theorem KeepsCanon.retryHeads {dropping : Bool} : KeepsCanon (Machine.retryHeads c q dropping) :=
  .get fun _ _ =>
  .ite
    (.ite (.bind .dropHeld fun _ => .bind .modCoreAt fun _ => .modCoreAt)
       (.bind .padHeld fun _ => .bind .modCoreAt fun _ => .modCoreAt)) .modCoreAt

theorem KeepsCanon.tryPut {p : PutAsk} : KeepsCanon (Machine.tryPut c p) :=
  .bind .tileOf fun _ => .get fun _ _ =>
  .ite
    (.bind .modCoreAt fun _ => .bind .spLoad fun _ => .get fun _ _ => .bind (.modify fun _ hs => hs) fun _ =>
     .bind .modCoreAt fun _ => .modify fun _ hs => .advance hs)
    (.ite (.bind .modCoreAt fun _ => .trap) (.bind .modCoreAt fun _ => .waitFor))

theorem KeepsCanon.advanceTail {win : Nat} : KeepsCanon (advanceTail core win n) := by
  induction n with
  | zero => exact .pure
  | succ n ih =>
    exact .get fun _ hs => by
      split
      · exact .pure
      · split
        · exact .pure
        · refine .bind (.set hs) fun _ => ?_
          dsimp only
          split
          · refine .bind (.modify fun _ hs => .consumed hs) fun _ => ?_
            split
            · exact .bind .semAddRemote fun _ => ih
            · exact ih
          · split
            · exact .bind .semAddRemote fun _ => ih
            · exact ih

theorem KeepsCanon.landMsg {win : Nat} : KeepsCanon (Machine.landMsg core win n) :=
  .get fun _ hs => by
    split
    · exact .pure
    · split
      · exact .pure
      · split
        · exact .pure
        · exact .bind .modCoreAt fun _ => .bind (.modify fun _ hs => hs) fun _ => .bind .advanceTail fun _ =>
            .modCoreAt

theorem NextCanonical.execMqEntryLand (hs : MemCanonical s) : NextCanonical (Machine.execMqEntryLand s) :=
  .event .landMsg hs

end

/-! ### Canonical memory: `Machine/MemEvents.lean` -/

section
variable {s : State} {c i : Nat} {q : Seq}

theorem KeepsCanon.retryAt {kind : Nat} : KeepsCanon (Machine.retryAt c kind q i) := by
  unfold Machine.retryAt
  split
  · exact .modCoreAt
  · exact .modCoreAt
  · exact .modCoreAt
  · exact .updCopy

theorem KeepsCanon.faultAt {kind : Nat} {code : Machine.Code} {h : Hold} :
    KeepsCanon (Machine.faultAt c kind q i code h) :=
  .ite
    (.bind (.modify fun _ hs => hs) fun _ => by
       dsimp only
       split
       · exact .bind .retryAt fun _ => .takeTrap
       · exact .modCoreAt
       · exact .modCoreAt
       · exact .updCopy) (by
    split
    · exact .bind .retryAt fun _ => .takeTrap
    · exact .modCoreAt
    · exact .modCoreAt
    · exact .updCopy)

theorem NextCanonical.execHeldAccessRetry (hs : MemCanonical s) : NextCanonical (Machine.execHeldAccessRetry s) := by
  unfold Machine.execHeldAccessRetry
  dsimp only
  split
  · exact .next hs
  · exact .event (.bind .dropFlip fun _ => .retryAt) hs

theorem NextCanonical.execFlipLimitExpiry (hs : MemCanonical s) : NextCanonical (Machine.execFlipLimitExpiry s) :=
  .ite (.event (.modMem fun _ hm => hm) hs) (by
    split
    · exact .next hs
    · exact .event (.bind .dropFlip fun _ => .faultAt) hs)

theorem NextCanonical.execScopeRefusalTimeout (hs : MemCanonical s) :
    NextCanonical (Machine.execScopeRefusalTimeout s) := by
  unfold Machine.execScopeRefusalTimeout
  dsimp only
  split
  · exact .next hs
  · exact .event .faultAt hs

theorem KeepsCanon.mapInvalidate {p : TlbEnt → Bool} {h : HeldPage → Bool} : KeepsCanon (Machine.mapInvalidate p h) :=
  .get fun _ hs => .ite .waitFor (.set hs)

theorem NextCanonical.execFlipToHostFinish (hs : MemCanonical s) :
    NextCanonical (Machine.execFlipToHostFinish s) := by
  unfold Machine.execFlipToHostFinish
  split
  · exact .next hs
  · dsimp only
    split
    · exact .next hs
    · exact .event
          (.bind (.modify fun _ hs => .commitLocal (.dropRange hs)) fun _ => .bind .mapInvalidate fun _ =>
           .modify fun _ hs => hs) hs

theorem NextCanonical.execWindowFillDone (hs : MemCanonical s) : NextCanonical (Machine.execWindowFillDone s) := by
  unfold Machine.execWindowFillDone
  exact .event .modCoreAt hs

theorem NextCanonical.execDeviceWriteback (hs : MemCanonical s) : NextCanonical (Machine.execDeviceWriteback s) := by
  unfold Machine.execDeviceWriteback
  dsimp only
  split
  · exact .next hs
  · exact .event
        (.each fun _ => .each fun _ => .bind (.attemptUndo .writeBackSector) fun _ => by
           split
           · exact .throw
           · exact .pure) hs

theorem NextCanonical.execDirtyEvictUncorrectable (hs : MemCanonical s) :
    NextCanonical (Machine.execDirtyEvictUncorrectable s) := by
  unfold Machine.execDirtyEvictUncorrectable
  split
  · exact .next hs
  · exact .event (.bind .postEvent fun _ => .modMem fun _ hm => hm) hs

end

/-! ### Canonical memory: `Machine/Strainer.lean` -/

section
variable {s : State} {c n i va region job core : Nat} {x : Ctx} {p : Packet} {α : Type}

theorem KeepsCanon.postLoss : KeepsCanon (Machine.postLoss job) :=
  .get fun _ _ => by
    split
    · exact .pure
    · exact .postEvent

theorem KeepsCanon.discardAt : KeepsCanon (Machine.discardAt c job) :=
  .bind (.modify fun _ hs => .lost hs) fun _ => .get fun _ _ =>
  .ite .pure (.bind .postLoss fun _ => .modify fun _ hs => hs)

theorem KeepsCanon.sendFrom : KeepsCanon (sendFrom c p) :=
  .get fun _ hs => by
    split
    · next t ht => exact .set (SomeCanonical.sendPacket hs t ht)
    · exact .discardAt

theorem KeepsCanon.readSpan : KeepsCanon (Machine.readSpan x va n) :=
  .bind .readAs fun _ => .bind (.collect fun _ => .readAs) fun _ => .pure

theorem KeepsCanon.readGate : KeepsCanon (Machine.readGate x va) :=
  .bind .readSpan fun _ =>
  .ite .pure
    (.bind .readSpan fun _ => .bind .readSpan fun _ =>
     .ite (.bind .pure fun _ => .ite .pure .pure) (.bind .readSpan fun _ => .ite .pure .pure))

theorem KeepsCanon.unitTry {a : Act α} (ha : KeepsCanon a) : KeepsCanon (Machine.unitTry a) :=
  .bind (.attempt (.portTry ha)) fun _ => by
    split
    · exact .pure
    · exact .bind .askFor fun _ => .waitFor

theorem KeepsCanon.reloadBias : KeepsCanon (Machine.reloadBias c i va region) :=
  .get fun _ hs =>
  .ite .pure
    (.bind (.unitTry (.bind .readSpan fun _ => .readSpan)) fun _ => by
       split
       · exact .modify fun _ hs => hs
       · exact .postEvent)

theorem NextCanonical.execGateSetBiasReload (hs : MemCanonical s) : NextCanonical (Machine.execGateSetBiasReload s) :=
  .event .reloadBias hs

theorem NextCanonical.execGateSetLoad (hs : MemCanonical s) : NextCanonical (Machine.execGateSetLoad s) := by
  unfold Machine.execGateSetLoad
  dsimp only
  split
  · exact .next hs
  · exact .event
        (.bind (.modify fun _ hs => hs) fun _ => .get fun _ _ => .bind (.unitTry .readGate) fun _ => by
           split
           · exact .get fun _ hs => by split <;> exact .set hs
           · exact .modify fun _ hs => hs
           · exact .modify fun _ hs => hs) hs

theorem NextCanonical.execGateSetFree (hs : MemCanonical s) : NextCanonical (Machine.execGateSetFree s) := by
  unfold Machine.execGateSetFree
  dsimp only
  split
  · exact .next hs
  · exact .event (.modify fun _ hs => hs) hs

theorem KeepsCanon.emitCopy {dev : Nat} {m : CopyMsg} : KeepsCanon (Machine.emitCopy c dev core m) :=
  .bind (.modify fun _ hs => .injected hs) fun _ => .get fun _ hs => .ite (.set hs) .sendFrom

theorem KeepsCanon.scoreToken {d : Disp} {x : List Byte} : KeepsCanon (Machine.scoreToken c d x) :=
  .get fun _ _ => .bind (.each fun _ => .emitCopy) fun _ => .modify fun _ hs => .ite hs hs

theorem KeepsCanon.tokenVec {d : Disp} : KeepsCanon (Machine.tokenVec c d) := .get fun _ _ => .spFetch
theorem MemCanonical.endDisp {d : Disp} (hs : MemCanonical s) : MemCanonical (Machine.endDisp c d s) := .consumed hs

theorem KeepsCanon.dispFault {d : Disp} {code : Machine.Code} : KeepsCanon (Machine.dispFault c d code va) :=
  .bind (.modify fun _ hs => .endDisp hs) fun _ => .get fun _ _ => .ite .escalateTile .pure

theorem NextCanonical.execTokenScore (hs : MemCanonical s) : NextCanonical (Machine.execTokenScore s) := by
  unfold Machine.execTokenScore
  dsimp only
  split
  · exact .next hs
  · exact .event
        (.bind (.attempt .tokenVec) fun _ => by
           split
           · exact .bind .scoreToken fun _ => .ite (.modify fun _ hs => hs) (.modify fun _ hs => .endDisp hs)
           · exact .dispFault
           · exact .get fun _ _ => .ite (.bind .dropFlip fun _ => .dispFault) (.modify fun _ hs => .requestFlip hs)
           · exact .askFor) hs

end

/-! ### Canonical memory: `Machine/Fabric.lean` -/

section
variable {s : State} {c n job : Nat} {v : DWord} {t : Tile}

theorem KeepsCanon.acceptMsg : KeepsCanon (Machine.acceptMsg c job) :=
  .bind (.modify fun _ hs => .injected hs) fun _ => .modify fun _ hs => .advance hs

theorem KeepsCanon.source {p : PutAsk} {far : Option Nat} : KeepsCanon (trySend.source c p far) :=
  .bind .modCoreAt fun _ => .spLoad

theorem KeepsCanon.waitSend {p : PutAsk} : KeepsCanon (trySend.waitSend c p) :=
  .get fun _ _ => .ite .trap (.bind .modCoreAt fun _ => .waitFor)

theorem KeepsCanon.trySend {p : PutAsk} {far : Option Nat} : KeepsCanon (Machine.trySend c p far) :=
  .bind .tileOf fun _ => .get fun _ hs =>
  .ite
    (.ite
       (.bind .source fun _ => .get fun _ hs' => .bind (.set hs') fun _ => .bind (.modify fun _ hs => hs) fun _ =>
        .acceptMsg) .waitSend)
    (.ite (.bind .source fun _ => .bind .acceptMsg fun _ => .discardAt) (by
       split
       · exact .bind .source fun _ => .get fun _ _ => .bind .acceptMsg fun _ => .sendFrom
       · exact .waitSend))

theorem NextCanonical.execMsendP {o : Cmd} (hs : MemCanonical s) : NextCanonical (Machine.execMsendP o s) :=
  .plain (.get fun _ _ => .bind .thisCore fun _ => .bind .tileOf fun _ => .bind .trapLowest fun _ => .trySend) hs

theorem KeepsCanon.waitHand {h : HandAsk} : KeepsCanon (tryHand.waitHand c h) := .bind .modCoreAt fun _ => .waitFor

theorem KeepsCanon.tryHand {h : HandAsk} {far : Bool} : KeepsCanon (Machine.tryHand c h far) :=
  .get fun _ hs =>
  .ite (.ite (.bind (.set hs) fun _ => .acceptMsg) .waitHand)
    (.ite (.bind .acceptMsg fun _ => .discardAt) (.ite (.bind .acceptMsg fun _ => .sendFrom) .waitHand))

theorem NextCanonical.execDisp {o : Cmd} (hs : MemCanonical s) : NextCanonical (Machine.execDisp o s) :=
  .plain
    (.get fun _ _ => .bind .thisCore fun _ => .bind .tileOf fun _ => .bind .trapIf fun _ =>
     .ite .waitFor (.bind .trapLowest fun _ => .bind (.modify fun _ hs => hs) fun _ => .acceptMsg)) hs

theorem KeepsCanon.sendComb {m : CombMsg} : KeepsCanon (Machine.sendComb c m) :=
  .bind (.modify fun _ hs => .injected hs) fun _ => .get fun _ hs => .ite (.set hs) .sendFrom

theorem KeepsCanon.combRow {saucer slot row fy h : Nat} : KeepsCanon (Machine.combRow c t saucer slot row fy h) :=
  .bind .readAs fun _ => .bind .readSpan fun _ => .bind .spLoad fun _ => .get fun _ _ => .pure

theorem KeepsCanon.combRows {saucer first out fy h r : Nat} :
    KeepsCanon (combRows c t saucer first out fy h n r) := by
  induction n generalizing r with
  | zero => exact .pure
  | succ n ih =>
    exact .bind (.attempt .combRow) fun _ => by
      split
      · exact .bind ih fun _ => .pure
      · exact .pure
      · exact .get fun _ _ => .ite (.bind .dropFlip fun _ => .pure)
          (.bind (.modify fun _ hs => .requestFlip hs) fun _ => .waitFor)
      · exact .throw

theorem NextCanonical.execCmb {o : Cmd} (hs : MemCanonical s) : NextCanonical (Machine.execCmb o s) :=
  .plain
    (.get fun _ _ => .bind .thisCore fun _ => .bind .tileOf fun _ => .bind .trapLowest fun _ =>
     .bind .combRows fun _ => .bind (.each fun _ => .sendComb) fun _ => by
       split
       · exact .advance
       · exact .escalateTile) hs

theorem KeepsCanon.qwaitDone {o : Cmd} {p : Bool} : KeepsCanon (Machine.qwaitDone o v p) :=
  .bind .modCore fun _ => .advance

theorem NextCanonical.execQwait {o : Cmd} (hs : MemCanonical s) : NextCanonical (Machine.execQwait o s) :=
  .plain
    (.get fun _ _ => .bind .thisCore fun _ => by
       dsimp only
       split
       · exact .qwaitDone
       · exact .qwaitDone
       · exact .ite .qwaitDone (.ite .qwaitDone (.bind .modCore fun _ => .waitFor))) hs

end

/-! ### Canonical memory: `Machine/LinkEvents.lean` -/

section
variable {s : State} {i : Nat} {l : List Byte} {p : Packet}

theorem MemCanonical.countAcked {l : List OutPkt} (hs : MemCanonical s) : MemCanonical (Machine.countAcked i l s) :=
  .foldl (fun _ _ hs => .ite (.consumed hs) hs) hs

theorem NextCanonical.execShageanFlitReceive (hs : MemCanonical s) :
    NextCanonical (Machine.execShageanFlitReceive s) := by
  unfold Machine.execShageanFlitReceive
  exact .event (.modify fun _ hs => .ite hs (.countAcked hs)) hs

theorem NextCanonical.execShageanGoBack (hs : MemCanonical s) : NextCanonical (Machine.execShageanGoBack s) := by
  unfold Machine.execShageanGoBack
  exact .event (.modify fun _ hs => .ite hs hs) hs

theorem NextCanonical.execLinkAckTimeout (hs : MemCanonical s) : NextCanonical (Machine.execLinkAckTimeout s) := by
  unfold Machine.execLinkAckTimeout
  exact .event (.modify fun _ hs => hs) hs

theorem KeepsCanon.postLosses {jobs : List Nat} : KeepsCanon (Machine.postLosses jobs) := .each fun _ => .postLoss

theorem NextCanonical.execLinkResync (hs : MemCanonical s) : NextCanonical (Machine.execLinkResync s) := by
  unfold Machine.execLinkResync
  exact .event
      (.get fun _ hs' => .bind (.set (.foldl (fun _ _ hs => .lost hs) (.countAcked hs'))) fun _ =>
       .bind (.modify fun _ hs => hs) fun _ => .postLosses) hs

theorem MemCanonical.arrivePut (hs : MemCanonical s) : MemCanonical (Machine.arrivePut p s) := by
  unfold Machine.arrivePut
  dsimp only
  split
  · exact .consumed hs
  · exact .ite hs (.consumed hs)

theorem MemCanonical.deliver (hs : MemCanonical s) : MemCanonical (Machine.deliver i p s) := by
  unfold Machine.deliver
  split
  · exact .arrivePut hs
  · exact hs
  · exact hs
  · exact hs
  · exact hs
  · exact hs
  · exact .consumed hs

theorem KeepsCanon.forward : KeepsCanon (forward i p) :=
  .get fun _ hs => by
    split
    · next t ht => exact .set (SomeCanonical.sendPacket hs t ht)
    · exact .ite (.bind (.set (.lost hs)) fun _ => .postLoss) (.ite (.set (.getD (.sendPacket hs) hs)) .pure)

theorem NextCanonical.execShageanPacketReceive (hs : MemCanonical s) :
    NextCanonical (Machine.execShageanPacketReceive s) := by
  unfold Machine.execShageanPacketReceive
  dsimp only
  split
  · exact .next hs
  · exact .event
        (.bind (.modify fun _ hs => hs) fun _ => .bind (.modify fun _ hs => .ite (.injected hs) hs) fun _ =>
         .ite (.modify fun _ hs => .deliver hs) .forward) hs

theorem KeepsCanon.performPeer : KeepsCanon (Machine.performPeer p) :=
  .get fun _ hs =>
  .ite .pure
    (.ite .pure (by
       split
       · exact .pure
       · exact .bind (.set (.writeUnstamped hs)) fun _ => .pure
       · exact .bind (.set (.commitLocal hs)) fun _ => .pure))

theorem KeepsCanon.answerPeer {isNew : Bool} {q : PeerIn} : KeepsCanon (answerPeer i isNew q l) :=
  .modify fun _ hs => .getD (.sendPacket (.ite hs hs)) (.ite hs hs)

theorem NextCanonical.execPeerRequest (hs : MemCanonical s) : NextCanonical (Machine.execPeerRequest s) := by
  unfold Machine.execPeerRequest
  dsimp only
  split
  · exact .next hs
  · exact .event
        (by
           split
           · exact .answerPeer
           · exact .ite (.ite .answerPeer (.modify fun _ hs => hs))
                 (.bind .performPeer fun _ => .get fun _ _ => .answerPeer)) hs

theorem KeepsCanon.finishAsk {a : PeerAsk} : KeepsCanon (Machine.finishAsk a p) :=
  .get fun _ hs => by
    split
    · exact .ite (.set hs) (.set hs)
    · exact .ite .pure (by
          split
          · exact .pure
          · exact .postRecord)
    · split
      · exact .pure
      · exact .ite (.set (.answerAtomic hs)) .pure

theorem NextCanonical.execPeerResponse (hs : MemCanonical s) : NextCanonical (Machine.execPeerResponse s) := by
  unfold Machine.execPeerResponse
  split
  · exact .next hs
  · exact .event
        (.bind (.modify fun _ hs => hs) fun _ => .get fun _ hs => by
           split
           · exact .pure
           · exact .bind (.set hs) fun _ => .finishAsk) hs

end

/-! ### Canonical memory: `Machine/Combine.lean` -/

section
variable {s : State} {c n i a cluster off : Nat} {l : List Byte}

theorem NextCanonical.execMqGrant (hs : MemCanonical s) : NextCanonical (Machine.execMqGrant s) :=
  .ite (.ite (.next hs) (.next hs)) (by
    split
    · exact .ite (.next hs)
          (.ite (.ite (.ite (.settle (.run .trySend hs)) (.next hs)) (.settle (.run .trySend hs)))
             (.ite (.settle (.run .tryPut hs)) (.next hs)))
    · exact .next hs)

theorem NextCanonical.execHandlerInboxGrant (hs : MemCanonical s) : NextCanonical (Machine.execHandlerInboxGrant s) :=
  .ite (.ite (.next hs) (.next hs)) (by
    split
    · exact .settle (.run .tryHand hs)
    · exact .next hs)

theorem KeepsCanon.enqueueHandler {m : HandlerMsg} : KeepsCanon (Machine.enqueueHandler cluster m) :=
  .get fun _ _ => .bind .useRegion fun _ =>
  .ite .pure
    (.ite .pure
       (.bind (.unitTry .readAs) fun _ => by
          split
          · exact .pure
          · exact .ite .pure (.bind (.unitTry .enqueue) fun _ => by split <;> exact .pure)))

theorem KeepsCanon.takeHandler : KeepsCanon (Machine.takeHandler cluster) :=
  .get fun _ hs => by
    split
    · exact .pure
    · exact .bind .enqueueHandler fun _ => by
          split
          · exact .modify fun _ hs => hs
          · exact .modify fun _ hs => hs
          · exact .modify fun _ hs => .consumed hs

theorem NextCanonical.execHandlerMessage (hs : MemCanonical s) : NextCanonical (Machine.execHandlerMessage s) :=
  .event .takeHandler hs

theorem NextCanonical.execHandlerEnqueueRetry (hs : MemCanonical s) :
    NextCanonical (Machine.execHandlerEnqueueRetry s) := .event .takeHandler hs

theorem KeepsCanon.unitWrite : KeepsCanon (Machine.unitWrite c a l) := .modCoreAt

theorem KeepsCanon.finishCombine {r : CombineRec} : KeepsCanon (Machine.finishCombine c off l r) :=
  .ite (.get fun _ _ => .bind .unitWrite fun _ => .bind .unitWrite fun _ => .ite .semAddRemote .pure) .unitWrite

theorem KeepsCanon.applyArrival {r : CombineRec} {m : CombMsg} {j0 : Nat} {row : List Byte} :
    KeepsCanon (Machine.applyArrival c off l r m j0 row) := .ite .pure (.bind .unitWrite fun _ => .finishCombine)

theorem KeepsCanon.applyNotice {r : CombineRec} {m : CombMsg} {j0 : Nat} :
    KeepsCanon (Machine.applyNotice c off l r m j0) := .ite .pure .finishCombine

theorem KeepsCanon.applyComb {m : CombMsg} : KeepsCanon (Machine.applyComb m) :=
  .get fun _ _ => by
    dsimp only
    split
    · exact .ite .pure
          (.bind (.attempt .touchChunks) fun _ => by
             split
             · exact .throw
             · exact .pure
             · exact .throw
             · exact .get fun _ _ => by
                   split
                   · exact .pure
                   · exact .ite .pure
                         (.bind (.attempt .touchChunks) fun _ => by
                            split
                            · exact .pure
                            · exact .throw
                            · split
                              · exact .applyArrival
                              · exact .applyNotice))
    · exact .pure

theorem NextCanonical.takeComb {notice : Bool} (hs : MemCanonical s) : NextCanonical (Machine.takeComb notice s) := by
  unfold Machine.takeComb
  split
  · exact .next hs
  · exact .event
        (.bind (.attempt .applyComb) fun _ => by
           split
           · exact .modify fun _ hs => .consumed hs
           · exact .get fun _ _ =>
               .ite (.bind .dropFlip fun _ => .modify fun _ hs => .consumed hs) (.modify fun _ hs => .requestFlip hs)
           · exact .askFor) hs

theorem NextCanonical.execWaveStart (hs : MemCanonical s) : NextCanonical (Machine.execWaveStart s) := by
  unfold Machine.execWaveStart
  exact .event (.modify fun _ hs => hs) hs

theorem MemCanonical.waveResult {quiet : Bool} {number began l : Nat} (hs : MemCanonical s) :
    MemCanonical (Machine.waveResult i quiet number began n c l s) := .ite hs hs

theorem NextCanonical.execWavePass (hs : MemCanonical s) : NextCanonical (Machine.execWavePass s) := by
  unfold Machine.execWavePass
  dsimp only
  split
  · exact .event (.modify fun _ hs => .waveResult hs) hs
  · exact .event
        (.modify fun _ hs => by
           split
           · exact hs
           · exact .waveResult hs) hs

theorem NextCanonical.execQwaitTimeout (hs : MemCanonical s) : NextCanonical (Machine.execQwaitTimeout s) := by
  unfold Machine.execQwaitTimeout
  dsimp only
  split
  · exact .next hs
  · exact .event (.modify fun _ hs => hs) hs

end

/-! ### Canonical memory: `Machine/Sched.lean` -/

section
variable {s : State} {c i core : Nat} {r : Region} {t : Tile}

theorem KeepsCanon.loadImage {tmpl : Nat} : KeepsCanon (Machine.loadImage r tmpl) :=
  .bind .readAs fun _ => .bind .readAs fun _ => .pure

theorem KeepsCanon.loadTemplates {kept : Bool} : KeepsCanon (Machine.loadTemplates c kept) :=
  .bind .tileOf fun _ =>
  .ite .pure
    (.ite .modCoreAt
       (.bind .modCoreAt fun _ => .bind (.portTry .loadImage) fun _ => by
          split
          · exact .modCoreAt
          · exact .bind .modTile fun _ => .escalateTile))

theorem KeepsCanon.dispatchTile {t : Nat} : KeepsCanon (Machine.dispatchTile i t) :=
  .get fun _ hs => by
    dsimp only
    split
    · exact .waitFor
    · exact .bind (.set hs) fun _ => .bind .tileStarts fun _ => .loadTemplates

theorem NextCanonical.execTileDispatch (hs : MemCanonical s) : NextCanonical (Machine.execTileDispatch s) := by
  unfold Machine.execTileDispatch
  split
  · exact .next hs
  · exact .event
        (.bind (.attemptUndo (.each fun _ => .get fun _ _ => .ite .dispatchTile .pure)) fun _ => by
           split
           · exact .pure
           · exact .askFor) hs

theorem NextCanonical.execPriorityAging (hs : MemCanonical s) : NextCanonical (Machine.execPriorityAging s) := by
  unfold Machine.execPriorityAging
  exact .event (.modify fun _ hs => hs) hs

theorem NextCanonical.execTileCommit (hs : MemCanonical s) : NextCanonical (Machine.execTileCommit s) := by
  unfold Machine.execTileCommit
  dsimp only
  split
  · exact .next hs
  · exact .event
        (.modify fun _ hs =>
         .tileGone (by
           split
           · exact .settleNest hs
           · exact hs)) hs

theorem KeepsCanon.postTile {code : Machine.Code} : KeepsCanon (Machine.postTile t core code) := .postTo

theorem MemCanonical.runAgain {nid ord : Nat} (hs : MemCanonical s) : MemCanonical (Machine.runAgain nid ord s) := by
  unfold Machine.runAgain
  split
  · exact hs
  · exact .settleNest hs

theorem KeepsCanon.discardAgain {code : Machine.Code} : KeepsCanon (Machine.discardAgain c code) :=
  .get fun _ hs => by
    split
    · exact .pure
    · exact .bind .postTile fun _ => .modify fun _ hs => .runAgain (.discardTile hs)

theorem NextCanonical.execYieldRequest (hs : MemCanonical s) : NextCanonical (Machine.execYieldRequest s) := by
  unfold Machine.execYieldRequest
  split
  · exact .next hs
  · split
    · exact .next hs
    · exact .next (.foldl (fun _ _ hs => hs) hs)

theorem NextCanonical.execBoundaryYield (hs : MemCanonical s) : NextCanonical (Machine.execBoundaryYield s) := by
  unfold Machine.execBoundaryYield
  dsimp only
  split
  · exact .next hs
  · exact .event .modCoreAt hs

theorem NextCanonical.execYieldDeadline (hs : MemCanonical s) : NextCanonical (Machine.execYieldDeadline s) := by
  unfold Machine.execYieldDeadline
  dsimp only
  split
  · exact .next hs
  · exact .event (.bind .postTile fun _ => .modCoreAt) hs

theorem NextCanonical.execSaveBound (hs : MemCanonical s) : NextCanonical (Machine.execSaveBound s) := by
  unfold Machine.execSaveBound
  dsimp only
  split
  · exact .next hs
  · exact .event .discardAgain hs

theorem NextCanonical.execWatchdog (hs : MemCanonical s) : NextCanonical (Machine.execWatchdog s) := by
  unfold Machine.execWatchdog
  dsimp only
  split
  · exact .next hs
  · exact .event .escalateTile hs

theorem NextCanonical.execSnapshotExpired (hs : MemCanonical s) : NextCanonical (Machine.execSnapshotExpired s) :=
  .ite
    (by
       split
       · exact .next hs
       · exact .event
             (by
                dsimp only
                split
                · exact .bind .postTile fun _ => .modify fun _ hs => .runAgain (.dropSaved hs)
                · exact .modify fun _ hs => .runAgain (.dropSaved hs)) hs) (by
    split
    · exact .next hs
    · exact .event .discardAgain hs)

end

/-! ### Canonical memory: `Machine/SchedCmd.lean` -/

section
variable {s : State} {n i : Nat} {t : Tile} {d : BitVec 6}

theorem KeepsCanon.commandResult {x : Except NestErr Nat} : KeepsCanon (Machine.commandResult d x) :=
  .bind .modCore fun _ => .advance

theorem NextCanonical.execNestq {o : Cmd} (hs : MemCanonical s) : NextCanonical (Machine.execNestq o s) :=
  .plain
    (.get fun _ _ => .bind .thisCore fun _ => .bind .tileOf fun _ => .bind .trapIf fun _ =>
     .ite
       (.bind .spLoad fun _ => .bind (.attemptUndo .enqueue) fun _ => by
          split
          · exact .commandResult
          · exact .bind (.modify fun _ hs => .requestFlip hs) fun _ => .waitFor
          · exact .throw)
       (.bind .loadRange fun _ => .bind (.attemptUndo .enqueue) fun _ => by
          split
          · exact .commandResult
          · exact .bind (.modify fun _ hs => .requestFlip hs) fun _ => .waitFor
          · exact .throw)) hs

theorem MemCanonical.flushTiles (hs : MemCanonical s) : MemCanonical (Machine.flushTiles i s) :=
  .tileGone (.dropSaved (.foldl (fun _ _ hs => .endTile hs) hs))

theorem MemCanonical.flushNest {free : Bool} (hs : MemCanonical s) : MemCanonical (flushNest t n free s).2 := by
  unfold Machine.flushNest
  split
  · exact hs
  · dsimp only
    split
    · exact hs
    · split
      · exact hs
      · exact .ite (.settleNest (.flushTiles hs)) (.settleNest (.flushTiles hs))

theorem NextCanonical.execNestf {o : Cmd} (hs : MemCanonical s) : NextCanonical (Machine.execNestf o s) :=
  .plain
    (.get fun _ hs => .bind .thisCore fun _ => .bind .tileOf fun _ => .bind (.set (.flushNest hs)) fun _ =>
     .commandResult) hs

theorem MemCanonical.restartNest {zero : Bool} (hs : MemCanonical s) : MemCanonical (restartNest t n zero s).2 := by
  unfold Machine.restartNest
  split
  · exact hs
  · split
    · exact hs
    · exact .settleNest hs

theorem NextCanonical.execNestr {o : Cmd} (hs : MemCanonical s) : NextCanonical (Machine.execNestr o s) :=
  .plain
    (.get fun _ hs => .bind .thisCore fun _ => .bind .tileOf fun _ => .bind (.set (.restartNest hs)) fun _ =>
     .commandResult) hs

end

/-! ### Canonical memory: `Machine/Caddy.lean` -/

section
variable {s : State} {n i va region job ifc : Nat} {l : List Byte} {sec : Bool} {b : Bowl} {r : Region}

theorem MemCanonical.demandFetch {l : Layer} (hs : MemCanonical s) : MemCanonical (Machine.demandFetch l i sec s) :=
  .ite hs hs

theorem MemCanonical.endEvictions (hs : MemCanonical s) : MemCanonical (Machine.endEvictions n s) := .ite hs hs
theorem KeepsCanon.cdRead {l : Layer} : KeepsCanon (Machine.cdRead l va n) := .get fun _ _ => .readSpan

theorem KeepsCanon.cdWrite {l : Layer} {b : List Byte} : KeepsCanon (Machine.cdWrite l va b) :=
  .get fun _ _ => .ite .pure (.bind .writeAs fun _ => .each fun _ => .writeAs)

theorem KeepsCanon.read : KeepsCanon b.read := .bind .cdRead fun _ => .pure
theorem KeepsCanon.write {h : Saucer} : KeepsCanon (b.write h) := .cdWrite
theorem KeepsCanon.upd {f : Saucer → Saucer} : KeepsCanon (b.upd f) := .bind .read fun _ => .write
theorem KeepsCanon.tagState : KeepsCanon (b.tagState i) := .bind .cdRead fun _ => .pure
theorem KeepsCanon.setTag {st : Nat} {whole : Bool} : KeepsCanon (b.setTag i st whole) := .cdWrite
theorem KeepsCanon.slot : KeepsCanon (b.slot i) := .cdRead

theorem KeepsCanon.waiting : KeepsCanon b.waiting :=
  .bind .read fun _ => .bind (.collect fun _ => .bind .tagState fun _ => .pure) fun _ => .pure

theorem KeepsCanon.settle : KeepsCanon b.settle :=
  .bind .read fun _ => .bind (.collect fun _ => .tagState) fun _ => .bind (.collect fun _ => .tagState) fun _ =>
  .bind .write fun _ => .modify fun _ hs => hs

theorem KeepsCanon.sendNotice {handle : DWord} {w : Word} {mask : Nat} {rn : Bool} :
    KeepsCanon (Machine.sendNotice ifc handle w mask job rn) :=
  .get fun _ _ => .bind .sendComb fun _ => .modify fun _ hs => .consumed hs

theorem KeepsCanon.dropSlot {rn : Bool} : KeepsCanon (b.dropSlot ifc i rn) :=
  .bind .slot fun _ => .bind .sendNotice fun _ => .bind .upd fun _ => .setTag

theorem KeepsCanon.dropAll {rn : Bool} : KeepsCanon (b.dropAll rn) :=
  .bind .waiting fun _ => .bind (.each fun _ => .dropSlot) fun _ => .settle

theorem KeepsCanon.freeTile {x : ExpertTile} {committed : Bool} : KeepsCanon (Machine.freeTile x committed) :=
  .get fun _ hs => by
    dsimp only
    split
    · exact .pure
    · exact .bind
          (.each fun _ =>
           .ite (.bind .slot fun _ => .bind (.modify fun _ hs => .consumed hs) fun _ => .setTag) .dropSlot) fun _ =>
        .bind .settle fun _ => .modify fun _ hs => hs

theorem KeepsCanon.enqueueTile {x : ExpertTile} : KeepsCanon (Machine.enqueueTile x) :=
  .get fun _ hs => .bind .enqueue fun _ => by
    split
    · exact .modify fun _ hs => hs
    · exact .modify fun _ hs => hs
    · exact .freeTile

theorem KeepsCanon.decideTile {on how : Nat} {moved : Bool} : KeepsCanon (Machine.decideTile b on sec how moved) :=
  .bind .read fun _ => .get fun _ _ =>
  .bind (.collect fun _ => .bind .tagState fun _ => .bind .slot fun _ => .pure) fun _ =>
  .ite .pure
    (.ite (.bind (.modify fun _ hs => hs) fun _ => .pure)
       (.bind (.each fun _ => .bind .setTag fun _ => .cdWrite) fun _ => .bind .write fun _ =>
        .bind (.modify fun _ hs => hs) fun _ => .bind .enqueueTile fun _ => .bind .settle fun _ => .pure))

theorem KeepsCanon.decideAll {on how : Nat} : KeepsCanon (decideAll b on sec how n) := by
  induction n with
  | zero => exact .pure
  | succ n ih => exact .bind .decideTile fun _ => .ite ih .pure

theorem KeepsCanon.decideFull : KeepsCanon (decideFull b n) := by
  induction n with
  | zero => exact .pure
  | succ n ih =>
    exact .get fun _ _ => by
      split
      · exact .pure
      · exact .bind .waiting fun _ => .ite .pure (.bind .decideTile fun _ => .ite ih .pure)

theorem KeepsCanon.landSlot : KeepsCanon (b.landSlot l) :=
  .bind .read fun _ => .bind .write fun _ => .bind .setTag fun _ => .bind .cdWrite fun _ => .bind .setTag fun _ =>
  .bind .write fun _ => .modify fun _ hs => hs

theorem KeepsCanon.ringFull : KeepsCanon b.ringFull := .bind .read fun _ => .pure

theorem KeepsCanon.moveSlot : KeepsCanon (Machine.moveSlot b i) :=
  .get fun _ hs => .bind .slot fun _ => by
    dsimp only
    split
    · exact .pure
    · split
      · exact .pure
      · exact .bind .ringFull fun _ =>
          .ite .pure
            (.bind .cdRead fun _ => .bind .landSlot fun _ =>
             .bind (.modify fun _ hs => .consumed (.injected hs)) fun _ => .bind .setTag fun _ => .bind .upd fun _ =>
             .bind (.modify fun _ hs => hs) fun _ => .decideFull)

theorem KeepsCanon.substitute : KeepsCanon (Machine.substitute b r) :=
  .get fun _ _ =>
  .ite .decideAll
    (.ite
       (by
          split
          · exact .decideAll
          · exact .pure) (.ite (.bind .waiting fun _ => .bind (.each fun _ => .moveSlot) fun _ => .settle) .pure))

theorem KeepsCanon.fall : KeepsCanon (Machine.fall b r) :=
  .bind .waiting fun _ =>
  .ite .pure (by
    split
    · exact .pure
    · exact .dropAll
    · exact .dropAll
    · exact .bind .dropAll fun _ => .postEvent)

theorem KeepsCanon.fallUnlessStuck : KeepsCanon (Machine.fallUnlessStuck b r) := .get fun _ _ => .ite .pure .fall

theorem KeepsCanon.absencePolicy {lost : Bool} : KeepsCanon (Machine.absencePolicy b lost) :=
  .get fun _ hs => .bind (.modify fun _ hs => hs) fun _ => by
    split
    · exact .bind .substitute fun _ => .fallUnlessStuck
    · exact .dropAll
    · exact .dropAll
    · exact .pure
    · exact .ite .fall .pure

theorem KeepsCanon.caddyTry {a : Act Unit} (ha : KeepsCanon a) : KeepsCanon (Machine.caddyTry region a) :=
  .bind (.unitTry ha) fun _ => by
    split
    · exact .pure
    · exact .postEvent

theorem KeepsCanon.decideAgain {on how : Nat} {moved : Bool} : KeepsCanon (Machine.decideAgain b on sec how moved) :=
  .bind (.modify fun _ hs => hs) fun _ =>
  .ite (.bind .decideTile fun _ => .decideFull) (.bind .decideAll fun _ => .get fun _ _ => .fallUnlessStuck)

theorem KeepsCanon.pinReleased : KeepsCanon Machine.pinReleased :=
  .get fun _ _ => .each fun _ => by
    split
    · exact .bind (.attemptUndo (.caddyTry .decideAgain)) fun _ => by
          split
          · exact .pure
          · exact .askFor
    · exact .pure

end

/-! ### Canonical memory: `Machine/CaddyEvents.lean` -/

section
variable {s : State} {n i va region off : Nat} {l : List Byte} {x : Ctx} {sec : Bool} {b : Bowl} {r : Region}

theorem KeepsCanon.landCopy {m : CopyMsg} : KeepsCanon (Machine.landCopy b m) :=
  .bind .waiting fun _ => .bind .read fun _ => .bind .landSlot fun _ => .get fun _ _ =>
  .ite .decideFull
    (.ite
       (.bind (.modify fun _ hs => .demandFetch hs) fun _ =>
        .ite (.ite (.bind .postEvent fun _ => .bind .dropSlot fun _ => .settle) (.bind .dropSlot fun _ => .settle))
          (.ite .absencePolicy .decideFull))
       (.ite (.ite (.bind .postEvent fun _ => .bind .dropSlot fun _ => .settle) (.bind .dropSlot fun _ => .settle))
          (.ite .absencePolicy .decideFull)))

theorem KeepsCanon.arriveCopy {m : CopyMsg} : KeepsCanon (Machine.arriveCopy m) :=
  .get fun _ _ => by
    split
    · exact .sendNotice
    · exact .ite .waitFor (.bind .ringFull fun _ => .ite .waitFor .landCopy)

theorem NextCanonical.execSaucerCopyArrive (hs : MemCanonical s) :
    NextCanonical (Machine.execSaucerCopyArrive s) := by
  unfold Machine.execSaucerCopyArrive
  dsimp only
  split
  · exact .next hs
  · exact .event
        (.bind (.unitTry .arriveCopy) fun _ => by
           split
           · exact .modify fun _ hs => hs
           · exact .get fun _ _ => by
                 split
                 · exact .bind .postEvent fun _ => .bind .sendNotice fun _ => .modify fun _ hs => hs
                 · exact .bind .sendNotice fun _ => .modify fun _ hs => hs) hs

theorem NextCanonical.execFlushDeadline (hs : MemCanonical s) : NextCanonical (Machine.execFlushDeadline s) := by
  unfold Machine.execFlushDeadline
  dsimp only
  split
  · exact .event (.caddyTry (.bind .decideTile fun _ => .pure)) hs
  · exact .next hs

theorem NextCanonical.execAbsenceThreshold (hs : MemCanonical s) :
    NextCanonical (Machine.execAbsenceThreshold s) := by
  unfold Machine.execAbsenceThreshold
  dsimp only
  split
  · exact .next hs
  · exact .event (.caddyTry (.get fun _ _ => .absencePolicy)) hs

theorem NextCanonical.execExpertEnqueueRetry (hs : MemCanonical s) :
    NextCanonical (Machine.execExpertEnqueueRetry s) := by
  unfold Machine.execExpertEnqueueRetry
  split
  · exact .next hs
  · exact .event (.caddyTry (.bind (.modify fun _ hs => hs) fun _ => .bind .enqueueTile fun _ => .pinReleased)) hs

theorem NextCanonical.execExpertTileRetire (hs : MemCanonical s) :
    NextCanonical (Machine.execExpertTileRetire s) := by
  unfold Machine.execExpertTileRetire
  split
  · exact .next hs
  · split
    · exact .next hs
    · exact .event (.caddyTry (.bind (.modify fun _ hs => hs) fun _ => .bind .freeTile fun _ => .pinReleased)) hs

theorem KeepsCanon.holdPages : KeepsCanon (Machine.holdPages x va n) :=
  .collect fun _ => .bind .translate fun _ => .bind .lookup fun _ => .pure

theorem KeepsCanon.holdRecord : KeepsCanon (Machine.holdRecord i region) :=
  .get fun _ hs =>
  .ite .pure
    (.bind (.unitTry .holdPages) fun _ => by
       split
       · exact .bind (.modify fun _ hs => hs) fun _ => .pure
       · exact .pure)

theorem KeepsCanon.noSource : KeepsCanon (Machine.noSource i sec) :=
  .get fun _ _ => by
    split
    · exact .ite .pure .absencePolicy
    · exact .pure

theorem MemCanonical.beginFetch {f : Fetch} {l : Layer} {flash : Bool} {p : Nat × Nat} (hs : MemCanonical s) :
    MemCanonical (Machine.beginFetch n f l flash p s) := .ite hs hs

theorem KeepsCanon.startFetch {f : Fetch} : KeepsCanon (Machine.startFetch n f) :=
  .get fun _ hs => by
    split
    · dsimp only
      split
      · exact .ite .pure (.set (.foldl (fun _ _ hs => hs) hs))
      · exact .ite
            (.bind .pure fun _ => .bind (.modify fun _ hs => .beginFetch hs) fun _ =>
             .ite .pure (.modify fun _ hs => hs))
            (.bind .holdRecord fun _ => .bind (.modify fun _ hs => .beginFetch hs) fun _ =>
             .ite .pure (.modify fun _ hs => hs))
    · exact .bind (.modify fun _ hs => hs) fun _ => .caddyTry .noSource

theorem NextCanonical.execFetchStart (hs : MemCanonical s) : NextCanonical (Machine.execFetchStart s) := by
  unfold Machine.execFetchStart
  dsimp only
  split
  · exact .next hs
  · exact .event .startFetch hs

theorem KeepsCanon.heldBytes {e : TagEnt} : KeepsCanon (Machine.heldBytes e off n) :=
  .collect fun _ => by
    split
    · exact .trap
    · exact .get fun _ _ => .ite (.ite .drawByte (.ite .trap .pure)) .remoteByte

theorem KeepsCanon.fetchImage {f : Fetch} {want : Nat → Bool} : KeepsCanon (Machine.fetchImage f want) :=
  .get fun _ _ =>
  .ite .pure
    (.bind
       (.collect fun _ => by
          split
          · exact .pure
          · exact .ite .heldBytes .pure) fun _ => .pure)

theorem KeepsCanon.becomeResident {f : Fetch} : KeepsCanon (Machine.becomeResident n f) :=
  .bind (.modify fun _ hs => hs) fun _ => .get fun _ _ => by
    split
    · exact .caddyTry .decideFull
    · exact .pure

theorem MemCanonical.landPieces {at_ : Nat} {ps : List Nat} (hs : MemCanonical s) :
    MemCanonical (Machine.landPieces n at_ l ps s) := .foldl (fun _ _ hs => hs) hs

theorem NextCanonical.execFetchComplete (hs : MemCanonical s) : NextCanonical (Machine.execFetchComplete s) := by
  unfold Machine.execFetchComplete
  dsimp only
  split
  · exact .next hs
  · exact .event
        (.bind (.unitTry .fetchImage) fun _ => by
           split
           · exact .modify fun _ hs => hs
           · exact .get fun _ hs' =>
               .ite (.ite (.set (.landPieces hs')) .pure)
                 (.bind (.set (.landPieces hs')) fun _ => .ite .becomeResident (.modify fun _ hs => hs))) hs

theorem NextCanonical.execFetchFail (hs : MemCanonical s) : NextCanonical (Machine.execFetchFail s) := by
  unfold Machine.execFetchFail
  dsimp only
  split
  · exact .next hs
  · exact .event
        (.bind (.modify fun _ hs => hs) fun _ => .bind .postEvent fun _ => .get fun _ _ => by
           split
           · exact .modify fun _ hs => hs
           · exact .caddyTry .noSource) hs

theorem NextCanonical.execNvmeCompletion (hs : MemCanonical s) : NextCanonical (Machine.execNvmeCompletion s) := by
  unfold Machine.execNvmeCompletion
  dsimp only
  split
  · exact .next hs
  · split
    · exact .next hs
    · exact .event (.ite (.modify fun _ hs => hs) (.get fun _ hs => .ite .throw (.set (.commitLocal hs)))) hs

theorem NextCanonical.execNvmeTimeout (hs : MemCanonical s) : NextCanonical (Machine.execNvmeTimeout s) := by
  unfold Machine.execNvmeTimeout
  dsimp only
  split
  · exact .next hs
  · exact .event (.modify fun _ hs' => .foldl (fun _ _ hs => hs) hs') hs

theorem KeepsCanon.startDemands : KeepsCanon (startDemands n) := by
  induction n with
  | zero => exact .pure
  | succ n ih =>
    exact .bind ih fun _ => .get fun _ _ => by
      split
      · exact .pure
      · exact .ite .startFetch .pure

theorem KeepsCanon.hint {l : Layer} {key : Nat} : KeepsCanon (Machine.hint l r key) :=
  .get fun _ hs => by
    split
    · exact .pure
    · exact .ite .pure
          (.bind .startDemands fun _ => .get fun _ hs => .ite .pure (.bind (.set hs) fun _ => .startFetch))

theorem NextCanonical.execSteeperScore (hs : MemCanonical s) : NextCanonical (Machine.execSteeperScore s) := by
  unfold Machine.execSteeperScore
  split
  · exact .next hs
  · exact .event
        (.get fun _ _ => by
           split
           · exact .modify fun _ hs => hs
           · dsimp only
             split
             · exact .modify fun _ hs => hs
             · exact .ite (.modify fun _ hs => hs) (.bind (.each fun _ => .hint) fun _ => .modify fun _ hs => hs)) hs

end

/-! ### Canonical memory: `Machine/Fetch.lean` -/

section
variable {c va : Nat} {q : Seq}

theorem KeepsCanon.fetchBytes : KeepsCanon (Machine.fetchBytes c va) :=
  .bind .tileOf fun _ => .bind .translate fun _ => .get fun _ _ =>
  .ite (.ite (.collect fun _ => .drawByte) (.ite .trap .pure)) (.collect fun _ => .remoteByte)

theorem KeepsCanon.fetchWord {a : DWord} : KeepsCanon (Machine.fetchWord c a) := .bind .fetchBytes fun _ => .pure

theorem KeepsCanon.fetchPlain {a : DWord} : KeepsCanon (Machine.fetchPlain c q a) :=
  .bind .fetchWord fun _ => .ite (.bind .fetchWord fun _ => .pure) .pure

theorem KeepsCanon.fetchBundle {a : DWord} : KeepsCanon (Machine.fetchBundle c a) :=
  .bind .fetchWord fun _ => .bind (.collect fun _ => .fetchWord) fun _ => .pure

theorem KeepsCanon.fetch : KeepsCanon (Machine.fetch c q) := .get fun _ _ => .ite .fetchBundle .fetchPlain

end

/-! ### Canonical memory: `Machine/CtlTrap.lean` -/

section
variable {c : Nat}

theorem KeepsCanon.leaveTrap : KeepsCanon (Machine.leaveTrap c) := .modCoreAt

theorem KeepsCanon.resumeCtl {a : DWord} : KeepsCanon (Machine.resumeCtl c a) :=
  .modify fun _ hs => by
    dsimp only
    split
    · exact .ite hs (.goto hs)
    · exact .goto hs

theorem KeepsCanon.rft {form : Nat} : KeepsCanon (Machine.rft form) :=
  .get fun _ _ => .bind .tileOf fun _ => .bind .trapLowest fun _ => .bind .leaveTrap fun _ =>
  .ite (.ite (.bind .modCoreAt fun _ => .resumeCtl) .resumeCtl)
    (.ite
       (.bind .modCoreAt fun _ =>
        .ite (.ite (.bind .modCoreAt fun _ => .resumeCtl) .resumeCtl) (.bind .retryHeads fun _ => .resumeCtl))
       (.ite
          (.ite
             (.bind .modCoreAt fun _ =>
              .ite (.ite (.bind .modCoreAt fun _ => .resumeCtl) .resumeCtl)
                (.bind .retryHeads fun _ => .resumeCtl))
             (.ite
                (.bind (.modify fun _ hs => .nextBundle hs) fun _ =>
                 .ite (.ite (.bind .modCoreAt fun _ => .resumeCtl) .resumeCtl)
                   (.bind .retryHeads fun _ => .resumeCtl))
                (.bind (.modify fun _ hs => .advance hs) fun _ =>
                 .ite (.ite (.bind .modCoreAt fun _ => .resumeCtl) .resumeCtl)
                   (.bind .retryHeads fun _ => .resumeCtl))))
          (.bind .modCoreAt fun _ =>
           .ite (.ite (.bind .modCoreAt fun _ => .resumeCtl) .resumeCtl) (.bind .retryHeads fun _ => .resumeCtl))))

end

/-! ### Canonical memory: `Machine/Compute.lean` -/

section
variable {s : State} {c va : Nat}

theorem KeepsCanon.stallBundle {w : Wait} : KeepsCanon (Machine.stallBundle c w) := .bind .modCoreAt fun _ => .waitFor

theorem KeepsCanon.reserveWrites {l : List EngWrite} : KeepsCanon (Machine.reserveWrites c l) :=
  .collect fun _ => by
    split
    · exact .bind .reserve fun _ => .pure
    · exact .pure

theorem KeepsCanon.issueOp {k : Core} {o : OpAt} : KeepsCanon (Machine.issueOp c k o) :=
  .bind .modCoreAt fun _ => .get fun _ _ => by
    dsimp only
    split
    · exact .modCoreAt
    · split
      · exact .modCoreAt
      · exact .bind .reserveWrites fun _ => .modCoreAt

theorem KeepsCanon.trapAtIssue {l : List (Bool × Machine.Code × Nat)} {chunks : List Nat} :
    KeepsCanon (Machine.trapAtIssue c l chunks) :=
  .bind (.collect fun _ => .bind (.attemptUndo .touchChunks) fun _ => by split <;> exact .pure) fun _ => by
    split
    · exact .throw
    · exact .touchChunks
    · exact .pure

theorem KeepsCanon.issueOps {h : BundleHdr} {ops : List OpAt} {bad : List (Bool × Machine.Code × Nat)} :
    KeepsCanon (Machine.issueOps c h ops bad) :=
  .get fun _ _ => .bind .tileOf fun _ =>
  .ite
    (.bind .stallBundle fun _ =>
     .ite
       (.bind .stallBundle fun _ => .bind .trapAtIssue fun _ =>
        .ite
          (.bind .stallBundle fun _ => .bind (.each fun _ => .touchChunks) fun _ => .get fun _ _ =>
           .bind (.each fun _ => .ite .dropHead .pure) fun _ => .bind .modCoreAt fun _ =>
           .bind (.each fun _ => .issueOp) fun _ => .modCoreAt)
          (.bind (.each fun _ => .touchChunks) fun _ => .get fun _ _ =>
           .bind (.each fun _ => .ite .dropHead .pure) fun _ => .bind .modCoreAt fun _ =>
           .bind (.each fun _ => .issueOp) fun _ => .modCoreAt))
       (.bind .trapAtIssue fun _ =>
        .ite
          (.bind .stallBundle fun _ => .bind (.each fun _ => .touchChunks) fun _ => .get fun _ _ =>
           .bind (.each fun _ => .ite .dropHead .pure) fun _ => .bind .modCoreAt fun _ =>
           .bind (.each fun _ => .issueOp) fun _ => .modCoreAt)
          (.bind (.each fun _ => .touchChunks) fun _ => .get fun _ _ =>
           .bind (.each fun _ => .ite .dropHead .pure) fun _ => .bind .modCoreAt fun _ =>
           .bind (.each fun _ => .issueOp) fun _ => .modCoreAt)))
    (.ite
       (.bind .stallBundle fun _ => .bind .trapAtIssue fun _ =>
        .ite
          (.bind .stallBundle fun _ => .bind (.each fun _ => .touchChunks) fun _ => .get fun _ _ =>
           .bind (.each fun _ => .ite .dropHead .pure) fun _ => .bind .modCoreAt fun _ =>
           .bind (.each fun _ => .issueOp) fun _ => .modCoreAt)
          (.bind (.each fun _ => .touchChunks) fun _ => .get fun _ _ =>
           .bind (.each fun _ => .ite .dropHead .pure) fun _ => .bind .modCoreAt fun _ =>
           .bind (.each fun _ => .issueOp) fun _ => .modCoreAt))
       (.bind .trapAtIssue fun _ =>
        .ite
          (.bind .stallBundle fun _ => .bind (.each fun _ => .touchChunks) fun _ => .get fun _ _ =>
           .bind (.each fun _ => .ite .dropHead .pure) fun _ => .bind .modCoreAt fun _ =>
           .bind (.each fun _ => .issueOp) fun _ => .modCoreAt)
          (.bind (.each fun _ => .touchChunks) fun _ => .get fun _ _ =>
           .bind (.each fun _ => .ite .dropHead .pure) fun _ => .bind .modCoreAt fun _ =>
           .bind (.each fun _ => .issueOp) fun _ => .modCoreAt)))

theorem KeepsCanon.issueCopies {h : BundleHdr} {copies : List (Option SlotCopy)} {failed : List Nat}
    {bad : List (Bool × Machine.Code × Nat)} :
    KeepsCanon (Machine.issueCopies c h copies failed bad) :=
  .get fun _ _ => .bind .tileOf fun _ =>
  .ite
    (.ite
       (.bind .trapAtIssue fun _ =>
        .ite
          (.bind .stallBundle fun _ => .ite (.bind .issueOps fun _ => .bind .modCoreAt fun _ => .modCoreAt)
             .modCoreAt) (.ite (.bind .issueOps fun _ => .bind .modCoreAt fun _ => .modCoreAt) .modCoreAt))
       (.bind .trapLowest fun _ =>
        .ite
          (.bind .stallBundle fun _ => .ite (.bind .issueOps fun _ => .bind .modCoreAt fun _ => .modCoreAt)
             .modCoreAt) (.ite (.bind .issueOps fun _ => .bind .modCoreAt fun _ => .modCoreAt) .modCoreAt)))
    (.ite
       (.bind .stallBundle fun _ => .ite (.bind .issueOps fun _ => .bind .modCoreAt fun _ => .modCoreAt) .modCoreAt)
       (.ite (.bind .issueOps fun _ => .bind .modCoreAt fun _ => .modCoreAt) .modCoreAt))

theorem KeepsCanon.lateTrap : KeepsCanon (Machine.lateTrap c) :=
  .get fun _ _ => by
    dsimp only
    split
    · exact .pure
    · exact .ite .trap (.bind .modCoreAt fun _ => .trap)

theorem KeepsCanon.bundle {h : BundleHdr} {ps : List (Option Patch)} : KeepsCanon (Machine.bundle h ps) :=
  .get fun _ _ => .bind .tileOf fun _ => .bind .lateTrap fun _ => .bind .issueCopies fun _ =>
  .bind .modCoreAt fun _ => .modify fun _ hs => .nextBundle hs

theorem KeepsCanon.replayBundle : KeepsCanon (Machine.replayBundle c) :=
  .bind .lateTrap fun _ => .get fun _ hs => by
    dsimp only
    split
    · exact .pure
    · exact .bind .issueCopies fun _ => .bind .modCoreAt fun _ => .modify fun _ hs => .nextBundle hs

theorem SomeCanonical.replaying (hs : MemCanonical s) : SomeCanonical (replaying c s) := by
  unfold Machine.replaying
  dsimp only
  split
  · rintro t ⟨⟩; exact hs
  · split <;> rintro t ⟨⟩
    exact hs

theorem NextCanonical.execLateFaultTrap (hs : MemCanonical s) : NextCanonical (execLateFaultTrap s) :=
  .ite (.settle (.run .lateTrap (.getD (.replaying hs) hs))) (.next hs)

theorem KeepsCanon.applyWrite {w : EngWrite} : KeepsCanon (Machine.applyWrite c w) := by
  unfold Machine.applyWrite
  split
  · exact .modCoreAt
  · exact .modCoreAt
  · exact .modCoreAt
  · exact .modCoreAt
  · exact .land
  · exact .modCoreAt
  · exact .modCoreAt
  · exact .modCoreAt
  · exact .modCoreAt

theorem KeepsCanon.noteLate {slot : Nat} {pc : DWord} : KeepsCanon (Machine.noteLate c slot pc va) := .modCoreAt

theorem NextCanonical.execEngineOperationComplete (hs : MemCanonical s) :
    NextCanonical (Machine.execEngineOperationComplete s) := by
  unfold Machine.execEngineOperationComplete
  dsimp only
  split
  · exact .next hs
  · exact .event
        (.bind (.each fun _ => .applyWrite) fun _ => by
           split
           · exact .bind .noteLate fun _ => .modCoreAt
           · exact .modCoreAt) hs

theorem NextCanonical.execTokenPushDeliver (hs : MemCanonical s) :
    NextCanonical (Machine.execTokenPushDeliver s) := by
  unfold Machine.execTokenPushDeliver
  dsimp only
  split
  · exact .next hs
  · exact .event .modCoreAt hs

theorem NextCanonical.execMlsStart (hs : MemCanonical s) : NextCanonical (Machine.execMlsStart s) := by
  unfold Machine.execMlsStart
  dsimp only
  split
  · exact .next hs
  · exact .event
        (by
           split
           · exact .bind .noteLate fun _ => .modCoreAt
           · exact .modCoreAt) hs

theorem NextCanonical.execShadowFull (hs : MemCanonical s) : NextCanonical (Machine.execShadowFull s) := by
  unfold Machine.execShadowFull
  exact .event .modCoreAt hs

theorem KeepsCanon.kStep {x : MmaRun} {rest : List MmaRun} : KeepsCanon (Machine.kStep c x rest) :=
  .ite
    (.bind .modCoreAt fun _ => .get fun _ _ => by
       dsimp only
       split
       · exact .bind .noteLate fun _ => .modCoreAt
       · exact .modCoreAt)
    (.get fun _ _ => by
       dsimp only
       split
       · exact .bind .noteLate fun _ => .modCoreAt
       · exact .modCoreAt)

theorem NextCanonical.execMmaKStep (hs : MemCanonical s) : NextCanonical (Machine.execMmaKStep s) := by
  unfold Machine.execMmaKStep
  dsimp only
  split
  · exact .next hs
  · exact .ite (.next hs) (.ite (.next hs) (.event .kStep hs))

theorem NextCanonical.issueAlone {slot : Nat} {i : Instr} (hs : MemCanonical s) :
    NextCanonical (Machine.issueAlone slot i s) := .settle (.run (.bind .trapIf fun _ => .issueOps) hs)

end

/-! ### Canonical memory: `Machine/CaddyCmd.lean` -/

section
variable {s : State} {i va : Nat} {x : Ctx} {sec : Bool} {d : BitVec 6}

theorem KeepsCanon.caddyResult {r : Except Nat Nat} : KeepsCanon (Machine.caddyResult d r) :=
  .bind .modCore fun _ => .advance

theorem KeepsCanon.keyOperand {o : Cmd} : KeepsCanon (Machine.keyOperand o) :=
  .bind .thisCore fun _ => .bind .trapIf fun _ => .pure

theorem KeepsCanon.saucerItem {b : Option Bowl} : KeepsCanon (Machine.saucerItem b) := by
  unfold Machine.saucerItem
  split
  · exact .pure
  · exact .bind (.unitTry .read) fun _ => by
        split
        · exact .pure
        · exact .bind .postEvent fun _ => .pure

theorem NextCanonical.execRlook {o : Cmd} (hs : MemCanonical s) : NextCanonical (Machine.execRlook o s) :=
  .plain
    (.get fun _ _ => .bind .keyOperand fun _ => .bind .tileOf fun _ => by
       split
       · split
         · exact .caddyResult
         · dsimp only
           split
           · exact .bind .pure fun _ => .caddyResult
           · exact .bind .pure fun _ => .caddyResult
           · exact .bind .pure fun _ => .caddyResult
           · exact .bind .saucerItem fun _ => .caddyResult
           · exact .bind .pure fun _ => .caddyResult
       · exact .caddyResult) hs

theorem KeepsCanon.onCopy {o : Cmd} {more : State → Nat → Layer → List (Bool × Nat)} {act : Nat → Layer → Act Unit}
    (hact : ∀ x y, KeepsCanon (act x y)) :
    KeepsCanon (Machine.onCopy o more act) :=
  .get fun _ _ => .bind .keyOperand fun _ => .bind .tileOf fun _ => by
    split
    · split
      · exact .caddyResult
      · exact .ite .waitFor (hact _ _)
    · exact .caddyResult

theorem KeepsCanon.pinDone {o : Cmd} {r : Except Nat Nat} : KeepsCanon (Machine.pinDone o r) :=
  .bind .modCore fun _ => .caddyResult

theorem KeepsCanon.pinResult {o : Cmd} {l : Layer} : KeepsCanon (Machine.pinResult o i l) :=
  .get fun _ _ => .ite .pinDone (.ite .pinDone (.bind .modCore fun _ => .waitFor))

theorem KeepsCanon.addPin {l : Layer} : KeepsCanon (Machine.addPin i l sec) :=
  .bind (.modify fun _ hs => hs) fun _ => .modify fun _ hs => .ite hs (.demandFetch hs)

theorem NextCanonical.execRpin {o : Cmd} (hs : MemCanonical s) : NextCanonical (Machine.execRpin o s) :=
  .plain
    (.bind .thisCore fun _ => by
       dsimp only
       split
       · exact .get fun _ _ => by
             split
             · exact .pinResult
             · exact .pinDone
       · exact .onCopy fun _ _ => .bind .addPin fun _ => .pinResult) hs

theorem NextCanonical.execRunpin {o : Cmd} (hs : MemCanonical s) : NextCanonical (Machine.execRunpin o s) :=
  .plain
    (.onCopy fun _ _ => .bind (.modify fun _ hs => hs) fun _ => .get fun _ _ => .bind .pinReleased fun _ =>
     .caddyResult) hs

theorem NextCanonical.execRfetch {o : Cmd} (hs : MemCanonical s) : NextCanonical (Machine.execRfetch o s) :=
  .plain
    (.onCopy fun _ _ => .get fun _ hs => by
       split
       · exact .bind (.set (.demandFetch hs)) fun _ => .caddyResult
       · exact .bind (.set (.demandFetch hs)) fun _ => .caddyResult
       · exact .caddyResult) hs

theorem KeepsCanon.pageOk : KeepsCanon (Machine.pageOk x va) := .get fun _ _ => .ite .pure (by split <;> exact .pure)

theorem KeepsCanon.areaOk {a : Nat × Nat} : KeepsCanon (Machine.areaOk x a) :=
  .bind (.collect fun _ => .pageOk) fun _ => .pure

theorem KeepsCanon.layerNest {l : Layer} : KeepsCanon (Machine.layerNest l va) :=
  .get fun _ _ => .ite .pure (.bind (.unitTry .readAs) fun _ => by split <;> exact .pure)

theorem KeepsCanon.layerBusy {l : Layer} : KeepsCanon (Machine.layerBusy l) :=
  .bind (.collect fun _ => .bind .cdRead fun _ => .pure) fun _ => .pure

theorem KeepsCanon.initLayer {key : Nat} {l : Layer} : KeepsCanon (Machine.initLayer key l) :=
  .bind (.each fun _ => .cdWrite) fun _ => .cdWrite

theorem KeepsCanon.loadLayer {b : List Byte} : KeepsCanon (Machine.loadLayer b) :=
  .bind .useRegion fun _ => .get fun _ _ => by
    dsimp only
    split
    · exact .bind .layerBusy fun _ => .bind .layerNest fun _ =>
        .ite (.bind .pure fun _ => .bind (.collect fun _ => .areaOk) fun _ => by split <;> exact .pure)
          (.bind .layerNest fun _ => .bind (.collect fun _ => .areaOk) fun _ => by split <;> exact .pure)
    · exact .bind .pure fun _ => .bind .layerNest fun _ =>
        .ite (.bind .pure fun _ => .bind (.collect fun _ => .areaOk) fun _ => by split <;> exact .pure)
          (.bind .layerNest fun _ => .bind (.collect fun _ => .areaOk) fun _ => by split <;> exact .pure)

theorem NextCanonical.execRpolLayer {o : Cmd} (hs : MemCanonical s) : NextCanonical (Machine.execRpolLayer o s) :=
  .plain
    (.get fun _ _ => .bind .thisCore fun _ => .bind .tileOf fun _ => .bind .trapLowest fun _ =>
     .bind .loadRange fun _ => .bind .loadLayer fun _ => by
       split
       · exact .caddyResult
       · exact .bind (.modify fun _ hs => hs) fun _ => .bind .initLayer fun _ => .caddyResult) hs

theorem NextCanonical.execRpolUnlayer {o : Cmd} (hs : MemCanonical s) : NextCanonical (Machine.execRpolUnlayer o s) :=
  .plain
    (.get fun _ _ => .bind .thisCore fun _ => .bind .tileOf fun _ => .bind .trapLowest fun _ => by
       dsimp only
       split
       · exact .caddyResult
       · exact .bind .layerBusy fun _ => .ite .caddyResult (.bind (.modify fun _ hs => hs) fun _ => .caddyResult)) hs

theorem MemCanonical.loadCats {l : List (List Byte)} (hs : MemCanonical s) : MemCanonical (loadCats l s).2.2 := by
  induction l generalizing s with
  | nil => exact hs
  | cons e r ih =>
    unfold Machine.loadCats
    split
    · exact hs
    · next t ht =>
      refine ih (s := t) ?_
      unfold loadCat at ht
      dsimp only at ht
      split at ht
      · cases ht
      · split at ht <;> cases ht
        exact hs

theorem NextCanonical.execRpolCat {o : Cmd} (hs : MemCanonical s) : NextCanonical (execRpolCat o s) :=
  .plain (.get fun _ _ => .bind .thisCore fun _ => .bind .tileOf fun _ => .bind .trapLowest fun _ =>
    .bind .loadRange fun _ =>
    .get fun _ hs => .ite .waitFor (.bind (.set (.loadCats hs)) fun _ => .caddyResult)) hs

theorem NextCanonical.execRpolUncat {o : Cmd} (hs : MemCanonical s) : NextCanonical (Machine.execRpolUncat o s) :=
  .plain
    (.get fun _ _ => .bind .tileOf fun _ => .bind .thisCore fun _ => .bind .trapLowest fun _ => by
       split
       · exact .ite .waitFor (by
             dsimp only
             split
             · exact .bind .pure fun _ =>
                 .ite .caddyResult
                   (.ite (.bind (.modify fun _ hs => hs) fun _ => .caddyResult)
                      (.bind (.modify fun _ hs'' => .foldl (fun _ _ hs => .ite hs hs) hs'') fun _ => .waitFor))
             · exact .bind .read fun _ => .bind .pure fun _ =>
                 .ite .caddyResult
                   (.ite (.bind (.modify fun _ hs => hs) fun _ => .caddyResult)
                      (.bind (.modify fun _ hs'' => .foldl (fun _ _ hs => .ite hs hs) hs'') fun _ => .waitFor)))
       · exact .caddyResult) hs

end

/-! ### Canonical memory: `Machine/CtlInt.lean` -/

section
variable {s : State} {d : BitVec 6}

theorem KeepsCanon.intOp {a b : BitVec 6} {f : DWord → DWord → DWord} : KeepsCanon (Machine.intOp d a b f) :=
  .bind .modCore fun _ => .advance

theorem KeepsCanon.immOp {o : RI} {f : DWord → DWord} : KeepsCanon (Machine.immOp o f) :=
  .bind .modCore fun _ => .advance

theorem KeepsCanon.longOp {f : Core → DWord} : KeepsCanon (Machine.longOp d f) := .bind .modCore fun _ => .advance

theorem KeepsCanon.cmpOp {len : Nat} {f : Core → Bool} : KeepsCanon (Machine.cmpOp len d f) :=
  .bind .modCore fun _ => .advance

theorem NextCanonical.execAdd {o : R3} (hs : MemCanonical s) : NextCanonical (Machine.execAdd o s) := .plain .intOp hs
theorem NextCanonical.execSub {o : R3} (hs : MemCanonical s) : NextCanonical (Machine.execSub o s) := .plain .intOp hs
theorem NextCanonical.execMin {o : R3} (hs : MemCanonical s) : NextCanonical (Machine.execMin o s) := .plain .intOp hs
theorem NextCanonical.execMax {o : R3} (hs : MemCanonical s) : NextCanonical (Machine.execMax o s) := .plain .intOp hs

theorem NextCanonical.execMinu {o : R3} (hs : MemCanonical s) : NextCanonical (Machine.execMinu o s) :=
  .plain .intOp hs

theorem NextCanonical.execMaxu {o : R3} (hs : MemCanonical s) : NextCanonical (Machine.execMaxu o s) :=
  .plain .intOp hs

theorem NextCanonical.execAnd {o : R3} (hs : MemCanonical s) : NextCanonical (Machine.execAnd o s) := .plain .intOp hs
theorem NextCanonical.execOr {o : R3} (hs : MemCanonical s) : NextCanonical (Machine.execOr o s) := .plain .intOp hs
theorem NextCanonical.execXor {o : R3} (hs : MemCanonical s) : NextCanonical (Machine.execXor o s) := .plain .intOp hs

theorem NextCanonical.execAndn {o : R3} (hs : MemCanonical s) : NextCanonical (Machine.execAndn o s) :=
  .plain .intOp hs

theorem NextCanonical.execShl {o : R3} (hs : MemCanonical s) : NextCanonical (Machine.execShl o s) := .plain .intOp hs
theorem NextCanonical.execShr {o : R3} (hs : MemCanonical s) : NextCanonical (Machine.execShr o s) := .plain .intOp hs
theorem NextCanonical.execSar {o : R3} (hs : MemCanonical s) : NextCanonical (Machine.execSar o s) := .plain .intOp hs
theorem NextCanonical.execRor {o : R3} (hs : MemCanonical s) : NextCanonical (Machine.execRor o s) := .plain .intOp hs
theorem NextCanonical.execMul {o : R3} (hs : MemCanonical s) : NextCanonical (Machine.execMul o s) := .plain .intOp hs

theorem NextCanonical.execMulh {o : R3} (hs : MemCanonical s) : NextCanonical (Machine.execMulh o s) :=
  .plain .intOp hs

theorem NextCanonical.execMulhu {o : R3} (hs : MemCanonical s) : NextCanonical (Machine.execMulhu o s) :=
  .plain .intOp hs

theorem NextCanonical.execDiv {o : R3} (hs : MemCanonical s) : NextCanonical (Machine.execDiv o s) := .plain .intOp hs

theorem NextCanonical.execDivu {o : R3} (hs : MemCanonical s) : NextCanonical (Machine.execDivu o s) :=
  .plain .intOp hs

theorem NextCanonical.execRem {o : R3} (hs : MemCanonical s) : NextCanonical (Machine.execRem o s) := .plain .intOp hs

theorem NextCanonical.execRemu {o : R3} (hs : MemCanonical s) : NextCanonical (Machine.execRemu o s) :=
  .plain .intOp hs

theorem NextCanonical.execLea {o : R3F} (hs : MemCanonical s) : NextCanonical (Machine.execLea o s) :=
  .plain .intOp hs

theorem NextCanonical.execAddi {o : RI} (hs : MemCanonical s) : NextCanonical (Machine.execAddi o s) :=
  .plain .immOp hs

theorem NextCanonical.execAndi {o : RI} (hs : MemCanonical s) : NextCanonical (Machine.execAndi o s) :=
  .plain .immOp hs

theorem NextCanonical.execOri {o : RI} (hs : MemCanonical s) : NextCanonical (Machine.execOri o s) := .plain .immOp hs

theorem NextCanonical.execXori {o : RI} (hs : MemCanonical s) : NextCanonical (Machine.execXori o s) :=
  .plain .immOp hs

theorem KeepsCanon.ctlPc : KeepsCanon Machine.ctlPc := .bind .thisCore fun _ => .pure

theorem NextCanonical.execLoop {o : RL} (hs : MemCanonical s) : NextCanonical (Machine.execLoop o s) :=
  .plain
    (.bind .thisCore fun _ =>
     .ite (.bind .modCore fun _ => .advance) (.bind .trapIf fun _ => .bind .modCore fun _ => .branchTo)) hs

end

/-! ### Canonical memory: `Machine/Ports.lean` -/

section
variable {s : State} {i : Nat} {v : DWord} {d : BitVec 6}

theorem MemCanonical.startAccepting (hs : MemCanonical s) : MemCanonical (Machine.startAccepting i s) := .ite hs hs

theorem KeepsCanon.writeTag {p : Port} {slot state landed : Nat} :
    KeepsCanon (Machine.writeTag p slot state landed) :=
  .get fun _ _ => .bind (.portTry .writeAs) fun _ => by
    split
    · exact .pure
    · exact .postEvent

theorem KeepsCanon.signalSlot {slot : Nat} : KeepsCanon (Machine.signalSlot i slot) :=
  .get fun _ _ => .ite (.bind (.each fun _ => .arvSet) fun _ => .ite .semAddRemote .pure) (.modify fun _ hs => hs)

theorem KeepsCanon.acceptLine {h : LineHdr} {data : List Byte} : KeepsCanon (Machine.acceptLine i h data) :=
  .get fun _ hs =>
  .ite (.bind (.set hs) fun _ => .ite .postEvent .pure)
    (.bind .modCoreAt fun _ => .bind (.modify fun _ hs => hs) fun _ => .bind .signalSlot fun _ =>
     .bind .writeTag fun _ => .modify fun _ hs => hs)

theorem KeepsCanon.countBad : KeepsCanon (Machine.countBad i) := .modify fun _ hs => hs

theorem KeepsCanon.whole {a : Act Unit} (ha : KeepsCanon a) : KeepsCanon (Machine.whole a) :=
  .bind (.attemptUndo ha) fun _ => by
    split
    · exact .pure
    · exact .askFor

theorem NextCanonical.execLineFrameReceive (hs : MemCanonical s) :
    NextCanonical (Machine.execLineFrameReceive s) := by
  unfold Machine.execLineFrameReceive
  exact .event
      (.whole
         (.bind (.modify fun _ hs => .startAccepting hs) fun _ => .get fun _ _ =>
          .ite .countBad (by
            dsimp only
            split
            · exact .countBad
            · exact .ite .countBad .acceptLine))) hs

theorem NextCanonical.execAdvertisementTimer (hs : MemCanonical s) :
    NextCanonical (Machine.execAdvertisementTimer s) := by
  unfold Machine.execAdvertisementTimer
  exact .event (.modify fun _ hs => hs) hs

theorem NextCanonical.execPortAcceptStart (hs : MemCanonical s) : NextCanonical (Machine.execPortAcceptStart s) :=
  .event (.modify fun _ hs => .startAccepting hs) hs

theorem KeepsCanon.enablePort : KeepsCanon (Machine.enablePort i) :=
  .get fun _ _ => .bind .useRegion fun _ => .get fun _ hs' =>
  .ite (.set hs')
    (.bind (.each fun _ => .writeTag) fun _ => .bind (.modify fun _ hs => hs) fun _ =>
     .bind (.modify fun _ hs => hs) fun _ => .modify fun _ hs => .startAccepting hs)

theorem KeepsCanon.writePortCfg : KeepsCanon (Machine.writePortCfg i v) :=
  .get fun _ hs => .bind (.set hs) fun _ =>
  .ite (.bind (.modify fun _ hs => hs) fun _ => .ite .enablePort (.modify fun _ hs => hs)) .pure

theorem NextCanonical.execPortEnable (hs : MemCanonical s) : NextCanonical (Machine.execPortEnable s) :=
  .event (.whole .writePortCfg) hs

theorem NextCanonical.execPortDisable (hs : MemCanonical s) : NextCanonical (Machine.execPortDisable s) :=
  .event (.whole .writePortCfg) hs

theorem KeepsCanon.loadWhisk : KeepsCanon (Machine.loadWhisk i v) :=
  .get fun _ hs =>
  .ite .pure
    (.bind (.portTry (.bind .readAs fun _ => .ite (.bind .readAs fun _ => .bind .readAs fun _ => .pure) .pure)) fun _ => by
       dsimp only
       split
       · exact .modify fun _ hs => hs
       · exact .ite (.modify fun _ hs => hs) (.modify fun _ hs => hs))

theorem NextCanonical.execWhiskLoad (hs : MemCanonical s) : NextCanonical (Machine.execWhiskLoad s) :=
  .event (.whole .loadWhisk) hs

theorem KeepsCanon.portResult {r : Except Nat Nat} : KeepsCanon (Machine.portResult d r) :=
  .bind .modCore fun _ => .advance

theorem NextCanonical.execPrel {o : Cmd} (hs : MemCanonical s) : NextCanonical (Machine.execPrel o s) :=
  .plain
    (.get fun _ _ => .bind .thisCore fun _ => .bind .tileOf fun _ => .bind .trapIf fun _ => by
       dsimp only
       split
       · exact .portResult
       · exact .ite .portResult
             (.bind (.each fun _ => .writeTag) fun _ => .bind (.modify fun _ hs => hs) fun _ => .get fun _ _ =>
              .portResult)) hs

theorem NextCanonical.execPstat {o : Cmd} (hs : MemCanonical s) : NextCanonical (Machine.execPstat o s) :=
  .plain
    (.get fun _ _ => .bind .tileOf fun _ => by
       dsimp only
       split <;> exact .portResult) hs

end

/-! ### Canonical memory: `Machine/HostLink.lean` -/

section
variable {s : State} {n i va a region : Nat} {v : DWord} {l : List Byte} {x : Ctx} {r : Region}

theorem MemCanonical.hostWrite (hs : MemCanonical s) : MemCanonical (hostWrite a l s) := hs

theorem KeepsCanon.tdiError : KeepsCanon Machine.tdiError :=
  .bind (.modify fun _ hs => hs) fun _ => .get fun _ _ => .each fun _ => .postEvent

theorem KeepsCanon.lockedChange {changed : Bool} : KeepsCanon (Machine.lockedChange changed) :=
  .get fun _ _ => .ite .tdiError .pure

theorem NextCanonical.execTdispLockInterface (hs : MemCanonical s) :
    NextCanonical (Machine.execTdispLockInterface s) := .event (.modify fun _ hs => hs) hs

theorem NextCanonical.execTdispStartInterface (hs : MemCanonical s) :
    NextCanonical (Machine.execTdispStartInterface s) := .event (.modify fun _ hs => hs) hs

theorem KeepsCanon.hostConfig {atomReq bars : Bool} : KeepsCanon (Machine.hostConfig atomReq bars) :=
  .bind (.modify fun _ hs => hs) fun _ => .lockedChange

theorem KeepsCanon.writeFacc : KeepsCanon (Machine.writeFacc i v) :=
  .get fun _ hs => .ite .pure (.ite (.bind (.set hs) fun _ => .lockedChange) (.bind (.set hs) fun _ => .lockedChange))

theorem NextCanonical.execFeatureAccept (hs : MemCanonical s) : NextCanonical (Machine.execFeatureAccept s) :=
  .event .writeFacc hs

theorem KeepsCanon.writeRcfg : KeepsCanon (Machine.writeRcfg v) :=
  .get fun _ hs => .bind (.set hs) fun _ =>
  .ite
    (.bind (.modify fun _ hs => .keepBlocks hs) fun _ =>
     .ite (.bind (.modify fun _ hs => hs) fun _ => .lockedChange) .lockedChange)
    (.ite (.bind (.modify fun _ hs => hs) fun _ => .lockedChange) .lockedChange)

theorem NextCanonical.execRingEnable (hs : MemCanonical s) : NextCanonical (Machine.execRingEnable s) :=
  .event .writeRcfg hs

theorem NextCanonical.execRingDoorbell (hs : MemCanonical s) : NextCanonical (Machine.execRingDoorbell s) := by
  unfold Machine.execRingDoorbell
  exact .event (.modify fun _ hs => .ite hs hs) hs

theorem KeepsCanon.entrySem {d : DWord} : KeepsCanon (Machine.entrySem region n d) :=
  .ite .pure (.ite .semAddRemote (.bind .semAdd fun _ => .pure))

theorem KeepsCanon.destPlace : KeepsCanon (Machine.destPlace r va) :=
  .get fun _ _ => by
    split
    · exact .throw
    · exact .pure
    · exact .ite
          (.bind (.attemptUndo .translate) fun _ => by
             split
             · exact .pure
             · exact .pure
             · exact .throw) .pure

theorem KeepsCanon.destPlaces {len : Nat} : KeepsCanon (Machine.destPlaces r va len) :=
  .bind (.collect fun _ => .bind .destPlace fun _ => .pure) fun _ => by split <;> exact .pure

theorem MemCanonical.writeCompletions {r : Nat} (hs : MemCanonical s) : MemCanonical (writeCompletions r n s) := by
  induction n generalizing s with
  | zero => exact hs
  | succ n ih =>
    unfold Machine.writeCompletions
    dsimp only
    split
    · exact hs
    · split
      · exact hs
      · exact ih (.ite hs hs)

theorem MemCanonical.completeEntry {r st res : Nat} (hs : MemCanonical s) :
    MemCanonical (Machine.completeEntry r n st res s) := .writeCompletions hs

theorem KeepsCanon.takeEntry {r : Nat} : KeepsCanon (Machine.takeEntry r l) :=
  .get fun _ hs => .bind (.set hs) fun _ =>
  .ite (.bind (.modify fun _ hs => .completeEntry hs) fun _ => .pure)
    (.ite (.bind (.modify fun _ hs => .completeEntry hs) fun _ => .pure)
       (.ite (.bind (.modify fun _ hs => .completeEntry hs) fun _ => .pure)
          (.ite (.bind (.modify fun _ hs => .completeEntry hs) fun _ => .pure) .pure)))

theorem NextCanonical.ringEvent {kind : Nat → Bool} {perform : Nat → Nat → List Byte → Act Unit}
    (hperform : ∀ x y z, KeepsCanon (perform x y z)) (hs : MemCanonical s) :
    NextCanonical (Machine.ringEvent kind perform s) := by
  unfold Machine.ringEvent
  dsimp only
  split
  · exact .next hs
  · exact .event
        (.whole
           (.bind .takeEntry fun _ => by
              split
              · exact .pure
              · exact hperform _ _ _)) hs

theorem NextCanonical.execRingEntryNest (hs : MemCanonical s) : NextCanonical (execRingEntryNest s) :=
  .ringEvent (fun _ _ _ => .get fun _ _ => .ite (.modify fun _ hs => .completeEntry hs)
    (.bind (.portTry .readAs) fun _ => by
      split
      · exact .bind .enqueue fun _ => by
          dsimp only
          split
          · exact .bind .entrySem fun _ => .modify fun _ hs => .completeEntry hs
          · exact .modify fun _ hs => .completeEntry hs
      · exact .modify fun _ hs => .completeEntry hs)) hs

theorem KeepsCanon.finishCopy {r : Nat} {o : RingOp} : KeepsCanon (Machine.finishCopy r o) :=
  .get fun _ _ => .bind .entrySem fun _ => .modify fun _ hs => .completeEntry hs

theorem KeepsCanon.finishCopyIn {r : Nat} {o : RingOp} : KeepsCanon (Machine.finishCopyIn r o) :=
  .get fun _ hs =>
  .ite (.bind (.set hs) fun _ => .finishCopy) (.bind .postEvent fun _ => .modify fun _ hs => .completeEntry hs)

theorem KeepsCanon.landSector {r : Nat} {o : RingOp} : KeepsCanon (landSector r o i) :=
  .get fun _ _ => .bind (.portTry .destPlace) fun _ => by
    split
    · exact .modify fun _ hs => .completeEntry hs
    · exact .modify fun _ hs => .completeEntry hs
    · exact .get fun _ hs => .bind (.set (MemCanonical.ite (.of_poison (.commitLocal hs)) (.commitLocal hs))) fun _ =>
        .ite (.ite .finishCopyIn .finishCopy) .pure

theorem NextCanonical.landEvent {kind : Nat} (hs : MemCanonical s) : NextCanonical (Machine.landEvent kind s) := by
  unfold Machine.landEvent
  dsimp only
  split
  · exact .next hs
  · exact .event (.whole .landSector) hs

theorem KeepsCanon.beginCopy {r : Nat} {data : List Byte} {tagOk : Bool} :
    KeepsCanon (Machine.beginCopy r n l data tagOk) :=
  .get fun _ hs => .bind .destPlaces fun _ => by
    split
    · exact .modify fun _ hs => .completeEntry hs
    · exact .bind (.modify fun _ hs => hs) fun _ => .ite (.ite .finishCopyIn .finishCopy) .pure

theorem NextCanonical.execRingEntryCopyin (hs : MemCanonical s) : NextCanonical (Machine.execRingEntryCopyin s) :=
  .ite (.landEvent hs)
    (.ringEvent
       (fun _ _ _ => .get fun _ _ =>
        .ite (.modify fun _ hs => .completeEntry hs)
          (.ite (.modify fun _ hs => .completeEntry hs) (.ite (.modify fun _ hs => .completeEntry hs) .beginCopy)))
       hs)

theorem NextCanonical.execRingEntryAttest (hs : MemCanonical s) : NextCanonical (execRingEntryAttest s) :=
  .ringEvent (fun _ _ _ => .get fun _ hs => .ite (.modify fun _ hs => .completeEntry hs)
    (.bind (.set (.of_hl (.hostWrite hs))) fun _ => .bind .entrySem fun _ => .modify fun _ hs => .completeEntry hs)) hs

theorem NextCanonical.execApertureAccess (hs : MemCanonical s) : NextCanonical (execApertureAccess s) := by
  unfold Machine.execApertureAccess
  exact .event (.get fun _ hs => .ite (.set (.of_hl hs)) (.set (.commitLocal hs))) hs

theorem MemCanonical.writeBoot (hs : MemCanonical s) : MemCanonical (Machine.writeBoot v s) :=
  .ite hs (.ite hs (.ite hs (by split <;> exact hs)))

theorem NextCanonical.execBootStagingWrite (hs : MemCanonical s) :
    NextCanonical (Machine.execBootStagingWrite s) := by
  unfold Machine.execBootStagingWrite
  exact .event (.modify fun _ hs => hs) hs

theorem NextCanonical.execBootGo (hs : MemCanonical s) : NextCanonical (Machine.execBootGo s) :=
  .event (.modify fun _ hs => .writeBoot hs) hs

theorem MemCanonical.afterLoss : MemCanonical (afterLoss s) := rfl
theorem MemCanonical.tripped : MemCanonical (Machine.tripped s) := .ite .afterLoss .afterLoss

theorem NextCanonical.execThermalSensorReading (hs : MemCanonical s) :
    NextCanonical (Machine.execThermalSensorReading s) := by
  unfold Machine.execThermalSensorReading
  exact .event (.modify fun _ hs => .ite .tripped hs) hs

theorem MemCanonical.hostFault {asid : Nat} (hs : MemCanonical s) : MemCanonical (Machine.hostFault asid va s) := by
  unfold Machine.hostFault
  dsimp only
  split
  · exact .keepBlocks hs
  · exact .ite (.keepBlocks hs) (.keepBlocks hs)

theorem MemCanonical.sendS2h (hs : MemCanonical s) : MemCanonical (Machine.sendS2h v s) := .ite hs hs

theorem MemCanonical.sendH2s {host : Bool} (hs : MemCanonical s) : MemCanonical (Machine.sendH2s host v s) :=
  .ite hs (.ite (.hostFault hs) hs)

theorem MemCanonical.postAtomic (hs : MemCanonical s) : MemCanonical (Machine.postAtomic s) := by
  unfold Machine.postAtomic
  split
  · exact hs
  · exact .ite hs (.sendS2h hs)

theorem NextCanonical.execHostAtomicWithdraw (hs : MemCanonical s) :
    NextCanonical (Machine.execHostAtomicWithdraw s) := by
  unfold Machine.execHostAtomicWithdraw
  dsimp only
  split
  · exact .next hs
  · exact .event (.modify fun _ hs => .finishHostAtom (.ite hs hs)) hs

theorem NextCanonical.execDoeMailboxMessage (hs : MemCanonical s) :
    NextCanonical (Machine.execDoeMailboxMessage s) := by
  unfold Machine.execDoeMailboxMessage
  split
  · exact .event (.modify fun _ hs => hs) hs
  · exact .next hs
  · exact .next hs
  · exact .next hs
  · exact .next hs

end

/-! ### Canonical memory: `Machine/Save.lean` -/

section
variable {s : State} {c : Nat}

theorem KeepsCanon.yieldWindow {w : Window} : KeepsCanon (Machine.yieldWindow c w) :=
  .ite .pure
    (.ite .pure
       (.bind (.portTry .writeBackChunks) fun _ => by
          split
          · exact .bind .modCoreAt fun _ => .pure
          · exact .pure))

theorem KeepsCanon.saveTile {kind : SaveKind} {slot : Nat} : KeepsCanon (Machine.saveTile c kind slot) :=
  .get fun _ _ => .bind .tileOf fun _ =>
  .ite (.bind .pure fun _ => .get fun _ hs => .set (.writeImage hs))
    (.bind (.collect fun _ => .yieldWindow) fun _ => .bind .pure fun _ => .get fun _ hs => .set (.writeImage hs))

theorem NextCanonical.execSaveComplete (hs : MemCanonical s) : NextCanonical (Machine.execSaveComplete s) := by
  unfold Machine.execSaveComplete
  dsimp only
  split
  · exact .next hs
  · split
    · exact .event
          (.bind (.attempt .saveTile) fun _ => by
             split
             · exact .pure
             · exact .modify fun _ hs => .requestFlip hs
             · exact .throw) hs
    · exact .next hs

end

/-! ### Canonical memory: `Machine/SeqEngine.lean` -/

section
variable {s : State} {c n va a region off : Nat} {v : DWord} {x : Ctx}

theorem KeepsCanon.sqOperand : KeepsCanon (Machine.sqOperand c off n) := .ite .pure .spLoad

theorem KeepsCanon.sqLocs {acc : Machine.Acc} : KeepsCanon (Machine.sqLocs region acc va n) :=
  .get fun _ _ =>
  .ite .pure
    (.bind
       (.bind (.attempt .translate) fun _ => by
          split
          · exact .ite .pure .trap
          · exact .trap
          · exact .throw) fun _ =>
     .bind
       (.collect fun _ => .bind (.attempt .translate) fun _ => by
          split
          · exact .ite .pure .trap
          · exact .trap
          · exact .throw) fun _ => .pure)

theorem KeepsCanon.sqRead : KeepsCanon (Machine.sqRead region va n) :=
  .bind .sqLocs fun _ => .get fun _ _ => .ite .trap .pure

theorem KeepsCanon.sqNat : KeepsCanon (Machine.sqNat region va n) := .bind .sqRead fun _ => .pure

theorem KeepsCanon.sqWrite {b : List Byte} : KeepsCanon (Machine.sqWrite region va b) :=
  .bind .sqLocs fun _ => .modify fun _ hs => .commitLocal hs

theorem KeepsCanon.sqCopy {src dst : Nat} : KeepsCanon (sqCopy region src dst n) :=
  .bind .sqLocs fun _ => .bind .sqLocs fun _ => .get fun _ hs => .set (.of_poison (.commitLocal hs))

theorem KeepsCanon.allocPage {c : SqCtx} {q base : Nat} : KeepsCanon (Machine.allocPage c q base) :=
  .bind .sqNat fun _ => .ite .pure (.bind .sqNat fun _ => .bind .sqRead fun _ => .bind .sqWrite fun _ => .sqWrite)

theorem KeepsCanon.pagesNeeded {c : SqCtx} {qs : List Nat} : KeepsCanon (Machine.pagesNeeded c qs) :=
  .bind (.collect fun _ => .attemptUndo .sqNat) fun _ => .pure

theorem KeepsCanon.poolShort {c : SqCtx} {qs : List Nat} : KeepsCanon (Machine.poolShort c qs) :=
  .bind .pagesNeeded fun _ => .bind (.attemptUndo .sqNat) fun _ => by split <;> exact .pure

theorem KeepsCanon.pushPage {c : SqCtx} {a : List Byte} : KeepsCanon (Machine.pushPage c a) :=
  .bind .sqNat fun _ => .ite (.bind .sqWrite fun _ => .sqWrite) (.ite .pure (.bind .drawDWord fun _ => .sqWrite))

theorem KeepsCanon.freePage {c : SqCtx} {q base : Nat} : KeepsCanon (Machine.freePage c q base) :=
  .bind .sqRead fun _ => .bind .pushPage fun _ => .sqWrite

theorem KeepsCanon.freePages {c : SqCtx} {from_ : Nat} : KeepsCanon (Machine.freePages c from_) :=
  .bind (.each fun _ => .each fun _ => .freePage) fun _ => .pure

theorem KeepsCanon.kvAddr {c : SqCtx} {l : Nat × Bool} {p : Nat} : KeepsCanon (Machine.kvAddr c l p) :=
  .ite .pure (.bind .sqNat fun _ => .pure)

theorem KeepsCanon.sqResult {o : Cmd} {p : Nat} {r : Except Nat Nat} {b : Bool} :
    KeepsCanon (Machine.sqResult o p r b) := .bind (.modify fun _ hs => hs) fun _ => .bind .modCore fun _ => .advance

theorem KeepsCanon.sqRun {o : Cmd} {p : Nat} {a : Act (Except Nat (Nat × Bool))} (ha : KeepsCanon a) :
    KeepsCanon (Machine.sqRun o p region a) :=
  .bind (.attemptUndo ha) fun _ => by
    split
    · exact .sqResult
    · exact .sqResult
    · exact .ite .trap (.bind .postEvent fun _ => .sqResult)
    · exact .throw

theorem KeepsCanon.onCtx {o : Cmd} {p : Nat} {a : Nat → SqCtx → Act (Except Nat (Nat × Bool))}
    (ha : ∀ x y, KeepsCanon (a x y)) :
    KeepsCanon (Machine.onCtx o p a) :=
  .get fun _ _ => .bind .thisCore fun _ => .bind .tileOf fun _ => by
    split
    · exact .sqResult
    · exact .sqRun (ha _ _)

theorem KeepsCanon.openCtx {b : List Byte} : KeepsCanon (Machine.openCtx region b) :=
  .get fun _ hs => by
    split
    · exact .pure
    · exact .ite .pure
          (.bind (.collect fun _ => .attemptUndo .sqRead) fun _ => .bind (.attemptUndo .sqRead) fun _ =>
           .ite .pure
             (.bind (.collect fun _ => .ofExcept) fun _ => .bind .ofExcept fun _ => .bind .sqWrite fun _ =>
              .bind (.modify fun _ hs => hs) fun _ => .pure))

theorem NextCanonical.execSqopen {o : Cmd} (hs : MemCanonical s) : NextCanonical (Machine.execSqopen o s) :=
  .plain
    (.get fun _ _ => .bind .thisCore fun _ => .bind .tileOf fun _ => .bind .trapIf fun _ => .bind .loadRange fun _ =>
     .sqRun .openCtx) hs

theorem NextCanonical.execSqopenClose {o : Cmd} (hs : MemCanonical s) : NextCanonical (Machine.execSqopenClose o s) :=
  .plain
    (.bind .thisCore fun _ => .bind .trapIf fun _ => .onCtx fun _ _ => .bind .freePages fun _ =>
     .bind (.modify fun _ hs => hs) fun _ => .pure) hs

theorem NextCanonical.execSqcurPlay {o : Cmd} (hs : MemCanonical s) : NextCanonical (Machine.execSqcurPlay o s) :=
  .plain
    (.bind .thisCore fun _ => .bind .trapIf fun _ => .onCtx fun _ _ =>
     .ite .pure (.bind (.modify fun _ hs => hs) fun _ => .pure)) hs

theorem NextCanonical.execSqcurKv {o : Cmd} (hs : MemCanonical s) : NextCanonical (Machine.execSqcurKv o s) :=
  .plain
    (.bind .thisCore fun _ => .bind .trapIf fun _ => .onCtx fun _ _ =>
     .ite .pure (.bind (.modify fun _ hs => hs) fun _ => .pure)) hs

theorem MemCanonical.playWrite (hs : MemCanonical s) : MemCanonical (Machine.playWrite v s) := .ite hs hs

theorem KeepsCanon.cutBack {c : SqCtx} : KeepsCanon (Machine.cutBack c a) :=
  .ite (.bind (.each fun _ => .sqWrite) fun _ => .pure)
    (.bind .sqCopy fun _ => .bind (.each fun _ => .sqWrite) fun _ => .pure)

theorem KeepsCanon.applyFrame {c : SqCtx} {toks : List Byte} : KeepsCanon (Machine.applyFrame c a toks) :=
  .ite (.bind .cutBack fun _ => .bind .sqWrite fun _ => .bind .freePages fun _ => .pure)
    (.bind .pure fun _ => .bind .sqWrite fun _ => .bind .freePages fun _ => .pure)

theorem NextCanonical.execSqframe {o : Cmd} (hs : MemCanonical s) : NextCanonical (Machine.execSqframe o s) :=
  .plain
    (.get fun _ _ => .bind .thisCore fun _ => .bind .tileOf fun _ => .bind .trapLowest fun _ =>
     .bind .sqOperand fun _ => .onCtx fun _ _ => .get fun _ _ =>
     .ite .trap (.ite .pure (.bind .applyFrame fun _ => .bind (.modify fun _ hs => hs) fun _ => .pure))) hs

theorem NextCanonical.execSqtrunc {o : Cmd} (hs : MemCanonical s) : NextCanonical (Machine.execSqtrunc o s) :=
  .plain
    (.bind .thisCore fun _ => .bind .trapIf fun _ => .onCtx fun _ _ =>
     .ite .pure (.bind .applyFrame fun _ => .bind (.modify fun _ hs => hs) fun _ => .pure)) hs

theorem NextCanonical.execSqckpt {o : Cmd} (hs : MemCanonical s) : NextCanonical (Machine.execSqckpt o s) :=
  .plain
    (.bind .thisCore fun _ => .bind .trapIf fun _ => .onCtx fun _ _ =>
     .ite .pure
       (.ite .pure (.bind .sqCopy fun _ => .bind .sqWrite fun _ => .bind (.modify fun _ hs => hs) fun _ => .pure))) hs

theorem NextCanonical.execSqspec {o : Cmd} (hs : MemCanonical s) : NextCanonical (Machine.execSqspec o s) :=
  .plain
    (.get fun _ _ => .bind .thisCore fun _ => .bind .tileOf fun _ => .bind .trapLowest fun _ =>
     .bind .sqOperand fun _ => .onCtx fun _ _ =>
     .ite .trap
       (.ite .pure
          (.ite .pure
             (.bind .poolShort fun _ =>
              .ite .pure
                (.bind (.each fun _ => .each fun _ => .allocPage) fun _ => .bind .sqWrite fun _ =>
                 .bind (.modify fun _ hs => hs) fun _ => .pure))))) hs

theorem KeepsCanon.relocate {c : SqCtx} {nodes : List Nat} : KeepsCanon (Machine.relocate c nodes) :=
  .each fun _ => .each fun _ => .ite .pure (.bind .kvAddr fun _ => .bind .kvAddr fun _ => .sqCopy)

theorem NextCanonical.execSqcmit {o : Cmd} (hs : MemCanonical s) : NextCanonical (Machine.execSqcmit o s) :=
  .plain
    (.get fun _ _ => .bind .thisCore fun _ => .bind .tileOf fun _ => .bind .trapLowest fun _ =>
     .bind .sqOperand fun _ => .onCtx fun _ _ =>
     .ite (.bind (.modify fun _ hs => hs) fun _ => .pure)
       (.ite .pure (.bind .relocate fun _ => .bind .sqWrite fun _ => .bind (.modify fun _ hs => hs) fun _ => .pure)))
    hs

end

/-! ### Canonical memory: `Machine/Regs.lean` -/

section
variable {s : State} {c n i region : Nat} {v : DWord}

theorem KeepsCanon.selectedBarrier : KeepsCanon (Machine.selectedBarrier c) :=
  .get fun _ _ => .bind .trapIf fun _ => .pure

theorem KeepsCanon.readCore {own : Bool} : KeepsCanon (Machine.readCore c own n) :=
  .get fun _ _ => by
    dsimp only
    split
    · exact .pure
    · exact .pure
    · exact .pure
    · exact .pure
    · exact .pure
    · exact .pure
    · exact .pure
    · exact .pure
    · exact .pure
    · exact .pure
    · exact .pure
    · exact .pure
    · exact .bind .selectedBarrier fun _ => .pure
    · exact .bind .selectedBarrier fun _ => .pure
    · exact .pure
    · exact .pure
    · exact .pure

theorem KeepsCanon.popDone : KeepsCanon Machine.popDone :=
  .get fun _ hs => by
    split
    · exact .pure
    · exact .bind (.set (.pushNotices hs)) fun _ => .pure

theorem KeepsCanon.popFlip : KeepsCanon Machine.popFlip :=
  .get fun _ hs => by
    split
    · exact .pure
    · exact .bind (.set hs) fun _ => .pure

theorem KeepsCanon.readSamovar : KeepsCanon (Machine.readSamovar n) :=
  .get fun _ _ => by
    dsimp only
    split
    · exact .pure
    · exact .pure
    · exact .popDone
    · exact .popFlip
    · exact .pure
    · exact .pure
    · exact .pure
    · exact .pure
    · exact .ite .pure (.ite .pure .pure)

theorem KeepsCanon.readReg {own : Bool} : KeepsCanon (Machine.readReg c own n) :=
  .get fun _ _ =>
  .ite .readCore
    (.ite .pure (.ite .pure (.ite .pure (.ite .pure (.ite .pure (.ite .pure (.ite .pure .readSamovar)))))))

theorem KeepsCanon.writeCore : KeepsCanon (Machine.writeCore c n v) := by
  unfold Machine.writeCore
  split
  · exact .modCoreAt
  · exact .modCoreAt
  · exact .bind .selectedBarrier fun _ => .modify fun _ hs => .ite hs hs
  · exact .bind .selectedBarrier fun _ => .pure
  · exact .ite .modCoreAt .pure

theorem MemCanonical.rinv (hs : MemCanonical s) : MemCanonical (Machine.rinv v s) :=
  .foldl (fun _ _ hs => .keepBlocks hs) hs

theorem MemCanonical.writeSched (hs : MemCanonical s) : MemCanonical (Machine.writeSched n v s) := by
  unfold Machine.writeSched
  split
  · exact hs
  · exact hs
  · exact .rinv hs
  · exact hs
  · exact hs
  · exact hs
  · exact hs
  · exact hs
  · exact hs

theorem KeepsCanon.writeShinv {r : Option Region} : KeepsCanon (Machine.writeShinv r v) := by
  unfold Machine.writeShinv
  dsimp only
  split
  · exact .ite (.modify fun _ hs => hs) (.bind .trapIf fun _ => .modify fun _ hs => hs)
  · exact .modify fun _ hs => hs

theorem KeepsCanon.muInv : KeepsCanon (Machine.muInv v) := by
  unfold Machine.muInv
  dsimp only
  split
  · exact .mapInvalidate
  · exact .mapInvalidate
  · exact .mapInvalidate
  · exact .pure

theorem KeepsCanon.writeCopy : KeepsCanon (Machine.writeCopy c n v) := by
  unfold Machine.writeCopy
  dsimp only
  split
  · exact .modify fun _ hs => hs
  · exact .modify fun _ hs => hs
  · exact .muInv
  · exact .modify fun _ hs => hs
  · exact .pure

theorem KeepsCanon.gload : KeepsCanon (Machine.gload c region v) := .ite .reloadBias (.modify fun _ hs => hs)

theorem MemCanonical.writeShCfg (hs : MemCanonical s) : MemCanonical (Machine.writeShCfg v s) :=
  .ite hs (.foldl (fun _ _ hs => .ite hs hs) hs)

theorem MemCanonical.writeFabric (hs : MemCanonical s) : MemCanonical (Machine.writeFabric c n v s) := by
  unfold Machine.writeFabric
  dsimp only
  split
  · exact hs
  · exact hs
  · exact hs
  · exact hs
  · exact .ite hs hs
  · exact .writeShCfg hs
  · exact hs
  · exact hs
  · exact hs
  · exact hs
  · exact hs
  · exact hs
  · exact .ite hs (.ite hs hs)

theorem MemCanonical.writeUnits (hs : MemCanonical s) : MemCanonical (Machine.writeUnits n v s) := by
  unfold Machine.writeUnits
  dsimp only
  split
  · exact hs
  · exact hs
  · exact hs
  · exact hs
  · exact hs
  · exact hs
  · exact hs
  · exact hs
  · exact hs
  · exact hs
  · exact .playWrite hs
  · exact hs
  · exact hs

theorem KeepsCanon.writePort {q : Nat} : KeepsCanon (Machine.writePort q i v) := by
  unfold Machine.writePort
  dsimp only
  split
  · exact .writePortCfg
  · exact .modify fun _ hs => hs
  · exact .modify fun _ hs => hs
  · exact .modify fun _ hs => hs
  · exact .modify fun _ hs => hs
  · exact .modify fun _ hs => hs
  · exact .loadWhisk
  · exact .modify fun _ hs => hs
  · exact .modify fun _ hs => hs

theorem KeepsCanon.writeHost : KeepsCanon (Machine.writeHost n v) :=
  .get fun _ hs => by
    dsimp only
    split
    · exact .modify fun _ hs => hs
    · exact .writeFacc
    · exact .writeFacc
    · exact .modify fun _ hs => hs
    · exact .writeRcfg
    · exact .bind (.modify fun _ hs => hs) fun _ => .lockedChange
    · exact .bind (.modify fun _ hs => hs) fun _ => .lockedChange
    · exact .bind (.modify fun _ hs => hs) fun _ => .lockedChange
    · exact .modify fun _ hs => hs
    · exact .modify fun _ hs => .writeBoot hs
    · exact .modify fun _ hs => hs
    · exact .pure

theorem KeepsCanon.enqueueNq : KeepsCanon (Machine.enqueueNq v) :=
  .get fun _ _ => .bind .enqueueAs fun _ => .modify fun _ hs => hs

theorem KeepsCanon.writeSamovar {host : Bool} : KeepsCanon (Machine.writeSamovar host n v) := by
  unfold Machine.writeSamovar
  dsimp only
  split
  · exact .modify fun _ hs => hs
  · exact .modify fun _ hs => hs
  · exact .modify fun _ hs => hs
  · exact .enqueueNq
  · exact .modify fun _ hs => hs
  · exact .modify fun _ hs => .sendS2h hs
  · exact .modify fun _ hs => .sendH2s hs
  · exact .modify fun _ hs => hs
  · exact .ite (.modify fun _ hs => hs) (.ite (.modify fun _ hs => hs) .pure)

theorem KeepsCanon.writeReg {r : Option Region} {host : Bool} : KeepsCanon (Machine.writeReg r host c n v) :=
  .ite .writeCore
    (.ite (.modify fun _ hs => .writeSched hs)
       (.ite .writeShinv
          (.ite .modCoreAt
             (.ite .writeCopy
                (.ite (.get fun _ _ => .gload)
                   (.ite (.modify fun _ hs => .writeFabric hs)
                      (.ite (.modify fun _ hs => .writeUnits hs)
                         (.ite .writePort (.ite .writeHost .writeSamovar)))))))))

theorem NextCanonical.execSysr {o : RL} (hs : MemCanonical s) : NextCanonical (Machine.execSysr o s) :=
  .plain
    (.get fun _ _ => .bind .thisCore fun _ => .bind .tileOf fun _ => by
       dsimp only
       split
       · exact .trap
       · exact .bind .readReg fun _ => .bind .modCore fun _ => .advance) hs

theorem NextCanonical.execSysw {o : RL} (hs : MemCanonical s) : NextCanonical (Machine.execSysw o s) :=
  .plain
    (.get fun _ _ => .bind .thisCore fun _ => .bind .tileOf fun _ =>
     .ite
       (.bind .selectedBarrier fun _ => by
          dsimp only
          split
          · exact .trap
          · exact .bind .writeReg fun _ => .advance) (by
       dsimp only
       split
       · exact .trap
       · exact .bind .writeReg fun _ => .advance)) hs

theorem NextCanonical.regEvent (hs : MemCanonical s) : NextCanonical (Machine.regEvent n s) :=
  .event (.whole .writeReg) hs

theorem NextCanonical.execMuInvPage (hs : MemCanonical s) : NextCanonical (Machine.execMuInvPage s) :=
  .event .muInv hs

theorem NextCanonical.execMuInvAsid (hs : MemCanonical s) : NextCanonical (Machine.execMuInvAsid s) :=
  .event .muInv hs

theorem NextCanonical.execMuInvAll (hs : MemCanonical s) : NextCanonical (Machine.execMuInvAll s) := .event .muInv hs

theorem NextCanonical.execMuInvNone (hs : MemCanonical s) : NextCanonical (Machine.execMuInvNone s) :=
  .event .muInv hs

theorem NextCanonical.execNsRinvRegion (hs : MemCanonical s) : NextCanonical (Machine.execNsRinvRegion s) :=
  .event (.modify fun _ hs => .rinv hs) hs

theorem NextCanonical.execNsRinvAll (hs : MemCanonical s) : NextCanonical (Machine.execNsRinvAll s) :=
  .event (.modify fun _ hs => .rinv hs) hs

theorem NextCanonical.execLdShinvRegion (hs : MemCanonical s) : NextCanonical (Machine.execLdShinvRegion s) :=
  .event .writeShinv hs

theorem NextCanonical.execLdShinvAll (hs : MemCanonical s) : NextCanonical (Machine.execLdShinvAll s) :=
  .event .writeShinv hs

theorem MemCanonical.readAnswer {v : Nat} (hs : MemCanonical s) : MemCanonical (Machine.readAnswer v s) := by
  unfold Machine.readAnswer
  split <;> exact hs

theorem KeepsCanon.hostReads {bound : Bool} : KeepsCanon (Machine.hostReads i bound) :=
  .get fun _ _ =>
  .ite .pure
    (.ite (.ite (.bind .readReg fun _ => .modify fun _ hs => hs) (.modify fun _ hs => hs))
       (.ite (.modify fun _ hs => hs) (.ite (.modify fun _ hs => hs) (.modify fun _ hs => hs))))

theorem NextCanonical.execMailboxH2sSend (hs : MemCanonical s) : NextCanonical (Machine.execMailboxH2sSend s) :=
  .event (.modify fun _ hs => .sendH2s hs) hs

theorem NextCanonical.execMailboxS2hClear (hs : MemCanonical s) : NextCanonical (Machine.execMailboxS2hClear s) :=
  .event (.modify fun _ hs => hs) hs

theorem NextCanonical.execLinkStateChange (hs : MemCanonical s) : NextCanonical (Machine.execLinkStateChange s) := by
  unfold Machine.execLinkStateChange
  exact .event
      (.modify fun _ hs => by
         split
         · exact hs
         · exact .ite hs hs
         · exact .ite hs hs
         · exact .ite hs (.ite hs hs)) hs

end

/-! ### Canonical memory: `Machine/Restore.lean` -/

section
variable {s : State}

theorem NextCanonical.execTileRestore (hs : MemCanonical s) : NextCanonical (execTileRestore s) := by
  unfold Machine.execTileRestore
  split
  · exact .next hs
  · split
    · exact .outcomeOf (.run (.bind .spoilRing fun _ => .tileStarts)
        (.of_mem (.freeHeader (s := State.setCore s _ _) hs) rfl))
    · exact .next hs

end

/-! ### Canonical memory: `Machine/Riscv.lean` -/

section
variable {s : State} {n a : Nat} {v : DWord} {α : Type}

theorem KeepsCanon.rvReg {cause : Nat} {x : Act α} (hx : KeepsCanon x) : KeepsCanon (Machine.rvReg cause a x) :=
  .bind (.attemptUndo hx) fun _ => by
    split
    · exact .pure
    · exact .pure
    · exact .throw

theorem KeepsCanon.rvLoad {store : Bool} : KeepsCanon (Machine.rvLoad store a n) :=
  .get fun _ _ =>
  .ite .pure (by
    split
    · exact .pure
    · exact .pure
    · exact .rvReg .readReg
    · exact .ite .pure .pure
    · exact .pure
    · exact .pure)

theorem KeepsCanon.rvStore {v : Nat} : KeepsCanon (Machine.rvStore a n v) :=
  .get fun _ hs =>
  .ite .pure (by
    split
    · exact .bind (.set hs) fun _ => .pure
    · exact .bind (.set hs) fun _ => .pure
    · exact .rvReg .writeReg
    · exact .bind (.set (.commitLocal hs)) fun _ => .pure
    · exact .bind (.set (.hostWrite hs)) fun _ => .pure
    · exact .pure)

theorem MemCanonical.csrWrite (hs : MemCanonical s) : MemCanonical (Machine.csrWrite n v s) := by
  unfold Machine.csrWrite
  dsimp only
  split <;> exact hs

theorem KeepsCanon.setX : KeepsCanon (Machine.setX n v) := .ite .pure (.modify fun _ hs => hs)
theorem KeepsCanon.rvGoto {a : DWord} : KeepsCanon (Machine.rvGoto a) := .modify fun _ hs => hs

theorem KeepsCanon.rvTrap {cause : Nat} {tval : DWord} : KeepsCanon (Machine.rvTrap cause tval) :=
  .modify fun _ hs => hs

theorem KeepsCanon.rvCsr {f : RvCsr} {rd src : Nat} {imm : Bool} {num : Nat} {w next : DWord} :
    KeepsCanon (Machine.rvCsr f rd src imm num w next) :=
  .get fun _ hs => by
    dsimp only
    split
    · exact .pure
    · exact .ite .pure
          (.ite (.bind (.modify fun _ hs => .csrWrite hs) fun _ => .bind .setX fun _ => .bind .rvGoto fun _ => .pure)
             (.bind .setX fun _ => .bind .rvGoto fun _ => .pure))

theorem KeepsCanon.rvExec {i : Rv} {w next : DWord} : KeepsCanon (Machine.rvExec i w next) :=
  .get fun _ hs => by
    dsimp only
    split
    · exact .bind .setX fun _ => .bind .rvGoto fun _ => .pure
    · exact .bind .setX fun _ => .bind .rvGoto fun _ => .pure
    · exact .bind .setX fun _ => .bind .rvGoto fun _ => .pure
    · exact .bind .setX fun _ => .bind .rvGoto fun _ => .pure
    · exact .bind .rvGoto fun _ => .pure
    · exact .bind .rvLoad fun _ => by
          split
          · exact .bind .setX fun _ => .bind .rvGoto fun _ => .pure
          · exact .pure
    · exact .bind .rvStore fun _ => by
          split
          · exact .bind .rvGoto fun _ => .pure
          · exact .pure
    · exact .bind .setX fun _ => .bind .rvGoto fun _ => .pure
    · exact .bind .setX fun _ => .bind .rvGoto fun _ => .pure
    · exact .bind .rvGoto fun _ => .pure
    · exact .bind .rvLoad fun _ => by
          split
          · exact .bind (.modify fun _ hs => hs) fun _ => .bind .setX fun _ => .bind .rvGoto fun _ => .pure
          · exact .pure
    · exact .bind (.modify fun _ hs => hs) fun _ =>
        .ite .pure
          (.ite
             (.bind .rvStore fun _ => by
                split
                · exact .bind .setX fun _ => .bind .rvGoto fun _ => .pure
                · exact .pure) (.ite .pure (.bind .setX fun _ => .bind .rvGoto fun _ => .pure)))
    · exact .bind .rvLoad fun _ => by
          split
          · exact .pure
          · exact .bind .rvStore fun _ => by
                split
                · exact .bind .setX fun _ => .bind .rvGoto fun _ => .pure
                · exact .pure
    · exact .rvCsr
    · exact .pure
    · exact .pure
    · exact .bind (.modify fun _ hs => hs) fun _ => .bind .rvGoto fun _ => .pure
    · exact .bind (.modify fun _ hs => hs) fun _ => .bind .rvGoto fun _ => .pure

theorem KeepsCanon.rvStep : KeepsCanon Machine.rvStep :=
  .get fun _ hs =>
  .ite .pure
    (.bind (.set hs) fun _ =>
     .ite .rvTrap (by
       split
       · exact .rvTrap
       · split
         · exact .rvTrap
         · exact .bind .rvExec fun _ => by
               split
               · exact .ite .pure (.modify fun _ ht => ht)
               · exact .bind (.modify fun _ ht => ht) fun _ => .rvTrap))

theorem NextCanonical.execSamovarInstruction (hs : MemCanonical s) :
    NextCanonical (Machine.execSamovarInstruction s) := .event (.whole .rvStep) hs

end

/-! ### Canonical memory: `Machine/Dispatch.lean` -/

section
variable {s : State}

theorem NextCanonical.exec {i : Instr} (hs : MemCanonical s) : NextCanonical (exec i s) :=
  match i with
  | .lds _ => .execLds hs
  | .sts _ => .execSts hs
  | .atomAdd _ => .plain .atomOp hs
  | .atomAnd _ => .plain .atomOp hs
  | .atomOr _ => .plain .atomOp hs
  | .atomXor _ => .plain .atomOp hs
  | .atomMin _ => .plain .atomOp hs
  | .atomMax _ => .plain .atomOp hs
  | .atomMinu _ => .plain .atomOp hs
  | .atomMaxu _ => .plain .atomOp hs
  | .atomSwp _ => .plain .atomOp hs
  | .cas _ => .plain (.bind .thisCore fun _ => .ctlAtomic) hs
  | .hostAtomicCompletion => .execHostAtomicCompletion hs
  | .tkwait _ => .plain (.bind .thisCore fun _ => .ite .waitFor (.bind .modCore fun _ => .advance)) hs
  | .tkpost _ => .execTkpost hs
  | .semwait _ => .execSemwait hs
  | .semadd _ => .execSemadd hs
  | .semset _ => .execSemset hs
  | .arvw _ => .plain (.bind .thisCore fun _ => .ite (.bind .modCore fun _ => .advance) .waitFor) hs
  | .arvclr _ => .plain (.bind .modCore fun _ => .advance) hs
  | .fence _ => .execFence hs
  | .acq _ => .plain (.get fun _ _ => .ite (.bind .modCore fun _ => .advance) .advance) hs
  | .publish => .plain (.bind .thisCore fun _ => .get fun _ _ => .ite .waitFor .publishFor) hs
  | .publicationCommit => .execPublicationCommit hs
  | .barv _ => .plain (.get fun _ _ => .bind .trapIf fun _ => .ite .barArrive .publishFor) hs
  | .barw _ => .execBarw hs
  | .mqadv _ => .execMqadv hs
  | .wset _ => .execWset hs
  | .wrel _ => .execWrel hs
  | .hset _ => .plain (.bind .modCore fun _ => .advance) hs
  | .tmpld _ => .execTmpld hs
  | .yield => .plain (.get fun _ _ => .bind .thisCore fun _ => .bind .advance fun _ => .ite .modCore .pure) hs
  | .nop => .execNop hs
  | .heldFaultTrap => .execHeldFaultTrap hs
  | .nli _ => .plain (.bind .modCore fun _ => .advance) hs
  | .nadd _ => .plain (.bind .modCore fun _ => .advance) hs
  | .naddi _ => .plain (.bind .modCore fun _ => .advance) hs
  | .ncmpEq _ => .plain .ncmp hs
  | .ncmpNe _ => .plain .ncmp hs
  | .ncmpLt _ => .plain .ncmp hs
  | .ncmpLe _ => .plain .ncmp hs
  | .ncmpLtu _ => .plain .ncmp hs
  | .ncmpLeu _ => .plain .ncmp hs
  | .nbr _ => .plain (.bind .thisCore fun _ => .branchTo) hs
  | .nloop _ => .execNloop hs
  | .cpy _ => .plain .acceptCopy hs
  | .cpys _ => .plain .acceptCopy hs
  | .cpyt _ => .plain .acceptCopy hs
  | .cpyd _ => .plain .acceptCopy hs
  | .copyChunkArrival => .execCopyChunkArrival hs
  | .shadowWriteRelease => .execShadowWriteRelease hs
  | .copyComplete => .execCopyComplete hs
  | .copyFault => .execCopyFault hs
  | .lease _ => .execLease hs
  | .lrel _ => .execLrel hs
  | .leaseExpiry => .execLeaseExpiry hs
  | .sbindLd _ => .plain (.get fun _ _ => .bind .resolve fun _ => .bind .modCore fun _ => .advance) hs
  | .gath _ => .execGath hs
  | .sunbLd _ => .plain (.bind .modCore fun _ => .advance) hs
  | .ldq _ => .execLdq hs
  | .ldt _ => .execLdt hs
  | .mfill _ => .execMfill hs
  | .pref _ => .plain .advance hs
  | .streamEntryRead => .execStreamEntryRead hs
  | .streamEntryLand => .execStreamEntryLand hs
  | .ldDirectOpComplete => .execLdDirectOpComplete hs
  | .sbindSt _ => .execSbindSt hs
  | .scat _ => .execScat hs
  | .sunbSt _ => .plain (.bind .unbindSt fun _ => .advance) hs
  | .stq _ => .execStq hs
  | .stt _ => .execStt hs
  | .mwb _ => .execMwb hs
  | .atomvAdd _ => .plain .atomvIssue hs
  | .atomvAnd _ => .plain .atomvIssue hs
  | .atomvOr _ => .plain .atomvIssue hs
  | .atomvXor _ => .plain .atomvIssue hs
  | .atomvMin _ => .plain .atomvIssue hs
  | .atomvMax _ => .plain .atomvIssue hs
  | .atomvMinu _ => .plain .atomvIssue hs
  | .atomvMaxu _ => .plain .atomvIssue hs
  | .atomvSwp _ => .plain .atomvIssue hs
  | .stStreamEntryWrite => .execStStreamEntryWrite hs
  | .stDirectOpComplete => .execStDirectOpComplete hs
  | .rput _ => .plain (.get fun _ _ => .bind .thisCore fun _ => .bind .trapIf fun _ => .tryPut) hs
  | .mqEntryLand => .execMqEntryLand hs
  | .heldAccessRetry => .execHeldAccessRetry hs
  | .flipLimitExpiry => .execFlipLimitExpiry hs
  | .scopeRefusalTimeout => .execScopeRefusalTimeout hs
  | .flipToHostFinish => .execFlipToHostFinish hs
  | .windowFillDone => .execWindowFillDone hs
  | .deviceWriteback => .execDeviceWriteback hs
  | .dirtyEvictUncorrectable => .execDirtyEvictUncorrectable hs
  | .gateSetLoadReq => .next hs
  | .gateSetFreeReq => .next hs
  | .gateSetBiasReload => .execGateSetBiasReload hs
  | .gateSetLoad => .execGateSetLoad hs
  | .gateSetFree => .execGateSetFree hs
  | .tokenScore => .execTokenScore hs
  | .msendP _ => .execMsendP hs
  | .msendH _ => .plain (.get fun _ _ => .bind .thisCore fun _ => .bind .trapIf fun _ => .tryHand) hs
  | .disp _ => .execDisp hs
  | .cmb _ => .execCmb hs
  | .qwait _ => .execQwait hs
  | .qread _ => .plain (.get fun _ _ => .bind .modCore fun _ => .advance) hs
  | .shageanFlitReceive => .execShageanFlitReceive hs
  | .shageanGoBack => .execShageanGoBack hs
  | .linkAckTimeout => .execLinkAckTimeout hs
  | .linkResync => .execLinkResync hs
  | .shageanPacketReceive => .execShageanPacketReceive hs
  | .peerRequest => .execPeerRequest hs
  | .peerResponse => .execPeerResponse hs
  | .mqGrant => .execMqGrant hs
  | .mqFullTimeout => .ite (.settle (.run .trap hs)) (.next hs)
  | .handlerInboxGrant => .execHandlerInboxGrant hs
  | .handlerMessage => .execHandlerMessage hs
  | .handlerEnqueueRetry => .execHandlerEnqueueRetry hs
  | .combineArrival => .takeComb hs
  | .dropNoticeArrival => .takeComb hs
  | .waveStart => .execWaveStart hs
  | .wavePass => .execWavePass hs
  | .qwaitTimeout => .execQwaitTimeout hs
  | .jobCountersClear => .next hs
  | .tileDispatch => .execTileDispatch hs
  | .priorityAging => .execPriorityAging hs
  | .tileCommit => .execTileCommit hs
  | .yieldRequest => .execYieldRequest hs
  | .boundaryYield => .execBoundaryYield hs
  | .yieldDeadline => .execYieldDeadline hs
  | .saveBound => .execSaveBound hs
  | .watchdog => .execWatchdog hs
  | .snapshotPressure => .next (.foldl (fun _ _ hs => .pressHeader hs) hs)
  | .snapshotExpired => .execSnapshotExpired hs
  | .nestq _ => .execNestq hs
  | .nestf _ => .execNestf hs
  | .nestr _ => .execNestr hs
  | .nests _ => .plain (.get fun _ _ => .bind .thisCore fun _ => .bind .tileOf fun _ => .commandResult) hs
  | .saucerCopyArrive => .execSaucerCopyArrive hs
  | .flushDeadline => .execFlushDeadline hs
  | .absenceThreshold => .execAbsenceThreshold hs
  | .expertEnqueueRetry => .execExpertEnqueueRetry hs
  | .expertTileRetire => .execExpertTileRetire hs
  | .fetchStart => .execFetchStart hs
  | .fetchComplete => .execFetchComplete hs
  | .fetchFail => .execFetchFail hs
  | .nvmeCompletion => .execNvmeCompletion hs
  | .nvmeTimeout => .execNvmeTimeout hs
  | .steeperScore => .execSteeperScore hs
  | .illegalOpcode => .settle (.run .trap hs)
  | .trap _ => .plain (.get fun _ _ => .takeTrap) hs
  | .rftRetry => .plain .rft hs
  | .rftSkip => .plain .rft hs
  | .rftRedirect => .plain .rft hs
  | .tend => .plain (.get fun _ _ => .bind .trapIf fun _ => .ite .publishFor .waitFor) hs
  | .tendAbort => .plain (.get fun _ _ => by split; exact .abortTile) hs
  | .tendEsc => .plain (.get fun _ _ => by split; exact .escalateTile) hs
  | .lateFaultTrap => .execLateFaultTrap hs
  | .issueBundle _ _ _ _ _ => .settle (.run .bundle hs)
  | .emptyBundle _ => .settle (.run .bundle hs)
  | .engineOperationComplete => .execEngineOperationComplete hs
  | .tokenPushDeliver => .execTokenPushDeliver hs
  | .mlsStart => .execMlsStart hs
  | .shadowFull => .execShadowFull hs
  | .mmaKStep => .execMmaKStep hs
  | .mls _ => .issueAlone hs
  | .accrd _ => .issueAlone hs
  | .accz _ => .issueAlone hs
  | .accld _ => .issueAlone hs
  | .amld _ => .issueAlone hs
  | .draw _ => .issueAlone hs
  | .mmaM8K1 _ => .issueAlone hs
  | .mmaM8K2 _ => .issueAlone hs
  | .mmaM8K4 _ => .issueAlone hs
  | .mmaM8K8 _ => .issueAlone hs
  | .mmaM16K1 _ => .issueAlone hs
  | .mmaM16K2 _ => .issueAlone hs
  | .mmaM16K4 _ => .issueAlone hs
  | .mmaM16K8 _ => .issueAlone hs
  | .mmaM32K1 _ => .issueAlone hs
  | .mmaM32K2 _ => .issueAlone hs
  | .mmaM32K4 _ => .issueAlone hs
  | .mmaM32K8 _ => .issueAlone hs
  | .mmaM64K1 _ => .issueAlone hs
  | .mmaM64K2 _ => .issueAlone hs
  | .mmaM64K4 _ => .issueAlone hs
  | .mmaM64K8 _ => .issueAlone hs
  | .vadd _ => .issueAlone hs
  | .vsub _ => .issueAlone hs
  | .vmul _ => .issueAlone hs
  | .vfma _ => .issueAlone hs
  | .vfms _ => .issueAlone hs
  | .vmin _ => .issueAlone hs
  | .vmax _ => .issueAlone hs
  | .vabs _ => .issueAlone hs
  | .vneg _ => .issueAlone hs
  | .vand _ => .issueAlone hs
  | .vor _ => .issueAlone hs
  | .vxor _ => .issueAlone hs
  | .vnot _ => .issueAlone hs
  | .vshl _ => .issueAlone hs
  | .vshr _ => .issueAlone hs
  | .vsar _ => .issueAlone hs
  | .vcmpEq _ => .issueAlone hs
  | .vcmpNe _ => .issueAlone hs
  | .vcmpLt _ => .issueAlone hs
  | .vcmpLe _ => .issueAlone hs
  | .vcmpGt _ => .issueAlone hs
  | .vcmpGe _ => .issueAlone hs
  | .vsel _ => .issueAlone hs
  | .vmov _ => .issueAlone hs
  | .vbcast _ => .issueAlone hs
  | .vperm _ => .issueAlone hs
  | .vslide _ => .issueAlone hs
  | .vredSum _ => .issueAlone hs
  | .vredMin _ => .issueAlone hs
  | .vredMax _ => .issueAlone hs
  | .vredAnd _ => .issueAlone hs
  | .vredOr _ => .issueAlone hs
  | .vredXor _ => .issueAlone hs
  | .vscanSum _ => .issueAlone hs
  | .vscanMin _ => .issueAlone hs
  | .vscanMax _ => .issueAlone hs
  | .vcvt _ => .issueAlone hs
  | .vscl _ => .issueAlone hs
  | .vsclDerive _ => .issueAlone hs
  | .viota _ => .issueAlone hs
  | .vpopc _ => .issueAlone hs
  | .vfirst _ => .issueAlone hs
  | .vtopk _ => .issueAlone hs
  | .vld _ => .issueAlone hs
  | .vst _ => .issueAlone hs
  | .gate _ => .issueAlone hs
  | .vpen _ => .issueAlone hs
  | .vsbias _ => .issueAlone hs
  | .vban _ => .issueAlone hs
  | .vmatch _ => .issueAlone hs
  | .vexp _ => .issueAlone hs
  | .vlog _ => .issueAlone hs
  | .vrcp _ => .issueAlone hs
  | .vrsq _ => .issueAlone hs
  | .vtanh _ => .issueAlone hs
  | .vsigm _ => .issueAlone hs
  | .mnop => .issueAlone hs
  | .rlook _ => .execRlook hs
  | .rpin _ => .execRpin hs
  | .runpin _ => .execRunpin hs
  | .rfetch _ => .execRfetch hs
  | .revict _ => .plain (.onCopy fun _ _ => .bind (.modify fun _ hs => .ite hs hs) fun _ => .caddyResult) hs
  | .rpolLayer _ => .execRpolLayer hs
  | .rpolUnlayer _ => .execRpolUnlayer hs
  | .rpolCat _ => .execRpolCat hs
  | .rpolUncat _ => .execRpolUncat hs
  | .add _ => .execAdd hs
  | .sub _ => .execSub hs
  | .min _ => .execMin hs
  | .max _ => .execMax hs
  | .minu _ => .execMinu hs
  | .maxu _ => .execMaxu hs
  | .and _ => .execAnd hs
  | .or _ => .execOr hs
  | .xor _ => .execXor hs
  | .andn _ => .execAndn hs
  | .shl _ => .execShl hs
  | .shr _ => .execShr hs
  | .sar _ => .execSar hs
  | .ror _ => .execRor hs
  | .mul _ => .execMul hs
  | .mulh _ => .execMulh hs
  | .mulhu _ => .execMulhu hs
  | .div _ => .execDiv hs
  | .divu _ => .execDivu hs
  | .rem _ => .execRem hs
  | .remu _ => .execRemu hs
  | .clz _ => .plain .intOp hs
  | .ctz _ => .plain .intOp hs
  | .popc _ => .plain .intOp hs
  | .lea _ => .execLea hs
  | .addi _ => .execAddi hs
  | .andi _ => .execAndi hs
  | .ori _ => .execOri hs
  | .xori _ => .execXori hs
  | .shli _ => .plain .immOp hs
  | .shri _ => .plain .immOp hs
  | .sari _ => .plain .immOp hs
  | .li _ => .plain .longOp hs
  | .lih _ => .plain .longOp hs
  | .bfx _ => .plain .longOp hs
  | .bfxu _ => .plain .longOp hs
  | .bfi _ => .plain .longOp hs
  | .sel _ => .plain .longOp hs
  | .cmpEq _ => .plain .cmpOp hs
  | .cmpNe _ => .plain .cmpOp hs
  | .cmpLt _ => .plain .cmpOp hs
  | .cmpLe _ => .plain .cmpOp hs
  | .cmpLtu _ => .plain .cmpOp hs
  | .cmpLeu _ => .plain .cmpOp hs
  | .cmpiEq _ => .plain .cmpOp hs
  | .cmpiNe _ => .plain .cmpOp hs
  | .cmpiLt _ => .plain .cmpOp hs
  | .cmpiLe _ => .plain .cmpOp hs
  | .cmpiLtu _ => .plain .cmpOp hs
  | .cmpiLeu _ => .plain .cmpOp hs
  | .pset _ => .plain .cmpOp hs
  | .pmovAnd _ => .plain .cmpOp hs
  | .pmovOr _ => .plain .cmpOp hs
  | .pmovXor _ => .plain .cmpOp hs
  | .pmovAndn _ => .plain .cmpOp hs
  | .br _ => .plain (.bind .ctlPc fun _ => .branchTo) hs
  | .call _ => .plain (.bind .ctlPc fun _ => .bind .trapIf fun _ => .bind .modCore fun _ => .branchTo) hs
  | .jr _ => .plain (.bind .thisCore fun _ => .bind .trapIf fun _ => .bind .modCore fun _ => .branchTo) hs
  | .loop _ => .execLoop hs
  | .lineFrameReceive => .execLineFrameReceive hs
  | .advertisementTimer => .execAdvertisementTimer hs
  | .portAcceptStart => .execPortAcceptStart hs
  | .portEnable => .execPortEnable hs
  | .portDisable => .execPortDisable hs
  | .whiskLoad => .execWhiskLoad hs
  | .prel _ => .execPrel hs
  | .pstat _ => .execPstat hs
  | .tdispLockInterface => .execTdispLockInterface hs
  | .tdispStartInterface => .execTdispStartInterface hs
  | .tdispStopInterface => .next hs
  | .featureAccept => .execFeatureAccept hs
  | .ringEnable => .execRingEnable hs
  | .ringDoorbell => .execRingDoorbell hs
  | .ringEntryNest => .execRingEntryNest hs
  | .ringEntryCopy => .ite (.landEvent hs) (.ringEvent (fun _ _ _ => .get fun _ _ => .beginCopy) hs)
  | .ringEntryCopyin => .execRingEntryCopyin hs
  | .ringEntryAttest => .execRingEntryAttest hs
  | .apertureAccess => .execApertureAccess hs
  | .bootStagingWrite => .execBootStagingWrite hs
  | .bootGo => .execBootGo hs
  | .coldReset => .next .afterLoss
  | .powerLoss => .next .afterLoss
  | .thermalSensorReading => .execThermalSensorReading hs
  | .thermalTrip => .event (.modify fun _ _ => .tripped) hs
  | .hostAtomicWithdraw => .execHostAtomicWithdraw hs
  | .doeMailboxMessage => .execDoeMailboxMessage hs
  | .saveComplete => .execSaveComplete hs
  | .sqopen _ => .execSqopen hs
  | .sqopenClose _ => .execSqopenClose hs
  | .sqcurRead _ => .plain (.bind .thisCore fun _ => .bind .trapIf fun _ => .onCtx fun _ _ => .pure) hs
  | .sqcurPlay _ => .execSqcurPlay hs
  | .sqcurKv _ => .execSqcurKv hs
  | .sqCplayWrite => .next (.playWrite hs)
  | .sqframe _ => .execSqframe hs
  | .sqtrunc _ => .execSqtrunc hs
  | .sqckpt _ => .execSqckpt hs
  | .sqspec _ => .execSqspec hs
  | .sqcmit _ => .execSqcmit hs
  | .sysr _ => .execSysr hs
  | .sysw _ => .execSysw hs
  | .registerWrite => .regEvent hs
  | .barCfgWrite => .regEvent hs
  | .muInvPage => .execMuInvPage hs
  | .muInvAsid => .execMuInvAsid hs
  | .muInvAll => .execMuInvAll hs
  | .muInvNone => .execMuInvNone hs
  | .nsRinvRegion => .execNsRinvRegion hs
  | .nsRinvAll => .execNsRinvAll hs
  | .ldShinvRegion => .execLdShinvRegion hs
  | .ldShinvAll => .execLdShinvAll hs
  | .svNqEnqueue => .event (.whole .enqueueNq) hs
  | .svNdonePop => .event (.bind .popDone fun _ => .modify fun _ hs => .readAnswer hs) hs
  | .svFlipPop => .event (.bind .popFlip fun _ => .modify fun _ hs => .readAnswer hs) hs
  | .mailboxS2hSend => .event (.modify fun _ hs => .sendS2h hs) hs
  | .mailboxH2sSend => .execMailboxH2sSend hs
  | .mailboxS2hClear => .execMailboxS2hClear hs
  | .mbAtomSeq => .event (.modify fun _ hs => hs) hs
  | .mbAtomClaim => .event (.modify fun _ hs => hs) hs
  | .mbAtomWdraw => .event (.modify fun _ hs => hs) hs
  | .linkStateChange => .execLinkStateChange hs
  | .tileRestore => .execTileRestore hs
  | .samovarInstruction => .execSamovarInstruction hs

end

/-! ### Canonical memory: `Machine/Turn.lean` -/

section
variable {s : State} {c i : Nat} {q : Seq}

theorem NextCanonical.runFetched {f : Fetched} (hs : MemCanonical s) :
    NextCanonical (Machine.runFetched c q f s) := by
  unfold Machine.runFetched
  split
  · exact .exec hs
  · exact .ite (.exec hs) (.ite (.settle (.run .trap hs)) (.ite (.next (.advance hs)) (.exec hs)))

theorem NextCanonical.runSeq (hs : MemCanonical s) : NextCanonical (runSeq c q s) := by
  have hs' : MemCanonical { s with core := c, sq := q } := hs
  unfold Machine.runSeq
  dsimp only
  split
  · next t ht =>
    split at ht
    · exact .settle (.run .replayBundle (SomeCanonical.replaying hs' t ht))
    · cases ht
  · split
    · next e => exact .runFetched (KeepsCanon.fetch.ok hs' e)
    · next e => exact .settle (KeepsCanon.fetch.error hs' e)

theorem KeepsCanon.retryQueue : KeepsCanon (Machine.retryQueue c q i) :=
  .get fun _ _ => by
    dsimp only
    split
    · exact .pure
    · exact .ite .pure (.ite .streamWrite (.ite .streamRead .pure))

theorem KeepsCanon.retryOnce : KeepsCanon (Machine.retryOnce c q) :=
  .bind .modCoreAt fun _ => .bind (.each fun _ => .retryQueue) fun _ => .get fun _ _ => by
    split
    · exact .pure
    · exact .ite .pure (.ite .stRun .ldRun)

/-- What `examine` has the pending sequencer do: try its held heads once more, and report a fault still held. -/
def retryAndReport (c : Nat) (q : Seq) : Act Bool := do
  if q = .cmp then return false
  else
    retryOnce c q
    let s ← get
    if (heldQueue (s.coreOf c) q).isSome then
      reportHeld c q
      return true
    else return false

theorem KeepsCanon.retryAndReport : KeepsCanon (retryAndReport c q) :=
  .ite .pure (.bind .retryOnce fun _ => .get fun _ _ => .ite (.bind .reportHeld fun _ => .pure) .pure)

theorem NextCanonical.examine (hs : MemCanonical s) : NextCanonical (examine c s) := by
  have ha := KeepsCanon.retryAndReport (c := c) (q := lowestPend (s.coreOf c))
  have hs' {f : Core → Core} : MemCanonical (s.updCore c f) := hs
  unfold Machine.examine
  dsimp only
  split
  · next e => exact .settle (ha.error hs' e)
  · next e => exact .next (ha.ok hs' e)
  · next e => exact .ite (.runSeq (ha.ok hs' e)) (.next (ha.ok hs' e))

theorem MemCanonical.leaveEdge (hs : MemCanonical s) : MemCanonical (Machine.leaveEdge c q s) := .ite hs hs

theorem NextCanonical.turn (hs : MemCanonical s) : NextCanonical (Machine.turn c q s) :=
  .ite (.examine (.leaveEdge hs))
    (.ite (.next (.leaveEdge hs)) (.ite (.outcomeOf (.run .reportHeld (.leaveEdge hs))) (.runSeq (.leaveEdge hs))))

end

/-! ### Canonical memory: `Machine/Schedule.lean` -/

section
variable {s : State}

theorem NextCanonical.mapNext {f : State → State} {o : Host.Outcome State Fault Refusal}
    (hf : ∀ s, MemCanonical s → MemCanonical (f s)) (ho : NextCanonical o) :
    NextCanonical (mapNext f o) := by
  cases o with
  | next s => exact .next (hf s (ho s rfl))
  | fault => exact .fault
  | refused => exact .refused

theorem MemCanonical.softError {p : ErrorPlace} (hs : MemCanonical s) : MemCanonical (Machine.softError p s) := by
  unfold Machine.softError
  dsimp only
  split <;> exact .ite hs hs

theorem NextCanonical.choose {c : Choice} (hs : MemCanonical s) : NextCanonical (Machine.choose c s) := by
  unfold Machine.choose
  split
  · exact .turn hs
  · exact .ite (.next hs) (.exec hs)
  · exact .next hs
  · exact .next hs
  · exact .outcomeOf (.run .hostReads hs)
  · exact .outcomeOf (.run .hostConfig hs)
  · exact .next (.hostFault hs)
  · exact .next (.softError hs)

theorem MemCanonical.pumpJobs (hs : MemCanonical s) : MemCanonical (pumpJobs s) := by
  unfold Machine.pumpJobs
  split
  · exact hs
  · split
    · exact KeepsCanon.fqPump.ok hs ‹_›
    · exact hs

theorem MemCanonical.tick (hs : MemCanonical s) : MemCanonical s.tick := .postAtomic (.pumpJobs (.endEvictions hs))

theorem NextCanonical.stepOnce (hs : MemCanonical s) : NextCanonical (Machine.stepOnce s) := by
  unfold Machine.stepOnce
  dsimp only
  split
  · exact .choose (.tick hs)
  · exact .mapNext (fun _ hs => hs) (.turn (.tick hs))

end

/-! ### Canonical memory: `Machine/Step.lean` -/

section
variable {s : State}

theorem NextCanonical.step (hs : MemCanonical s) : NextCanonical (Machine.step s) := .stepOnce hs

end

/-- Settles O5: a step is a composition of actions and functions on the state, each of which keeps memory canonical. -/
theorem stepKeepsMemoryCanonical : Obligations.StepKeepsMemoryCanonical :=
  fun _ t hs h => NextCanonical.step hs t h

end Sys2Proof

/-! # A step runs the instruction fetched, or the event that is due (O3) -/

namespace Sys2Proof
open Machine Laws

/-! ### Which step comes next -/

section
variable {s : State}

theorem step_of_agenda_nil (h : s.tick.agenda = []) :
    step s = mapNext rotate (turn s.tick.core s.tick.sq s.tick) := by
  simp only [step, stepOnce, h]

theorem step_of_event {i : Instr} {a : EvArg} {r : List Choice} (h : s.tick.agenda = .event i a :: r) :
    step s = choose (.event i a) { s.tick with agenda := r } := by
  simp only [step, stepOnce, h]

end

/-! ### What a turn is -/

section
variable {s : State} {c : Nat} {q : Seq}

/-- A sequencer that executes is not at its back-edge, so that nothing holds it there. -/
theorem leaveEdge_of_canRun (h : canRun (s.coreOf c) q = true) : leaveEdge c q s = s := by
  have hrun : ((s.coreOf c).seq q).run ≠ .atBackEdge := by
    intro e
    unfold canRun at h
    split at h <;> simp [e] at h
  simp [leaveEdge, hrun]

theorem not_mayExamine (h : ¬(q = .ctl ∧ (s.coreOf c).trap.mode = false ∧ (s.coreOf c).trap.pend ≠ 0)) :
    (decide (q = .ctl) && mayExamine (s.coreOf c)) = false := by
  refine Bool.eq_false_iff.mpr fun hn => ?_
  simp only [mayExamine, Bool.and_eq_true, decide_eq_true_eq, Bool.not_eq_true', ne_eq] at hn
  obtain ⟨hq, ⟨hmode, hpend⟩, -⟩ := hn
  exact h ⟨hq, hmode, hpend⟩

/-- Only LD and ST hold faults. -/
theorem ne_ctl_of_heldDue {k : Core} (h : heldDue k q = true) : q ≠ .ctl := by
  rintro rfl
  simp [heldDue] at h

theorem turn_of_heldDue (hr : canRun (s.coreOf c) q = true) (hd : heldDue (s.coreOf c) q = true) :
    turn c q s = outcomeOf (reportHeld c q s) := by
  simp [turn, leaveEdge_of_canRun hr, ne_ctl_of_heldDue hd, hr, hd]

theorem turn_eq_runSeq (hr : canRun (s.coreOf c) q = true) (hd : heldDue (s.coreOf c) q = false)
    (hx : ¬(q = .ctl ∧ (s.coreOf c).trap.mode = false ∧ (s.coreOf c).trap.pend ≠ 0)) : turn c q s = runSeq c q s := by
  simp only [turn, leaveEdge_of_canRun hr, not_mayExamine hx, hr, hd, Bool.not_true, Bool.false_eq_true, if_false]

end

/-! ### What is fetched is run -/

section
variable {s : State} {c : Nat} {q : Seq}

theorem fetch_of_ne_cmp (hq : q ≠ .cmp) : fetch c q s = fetchPlain c q ((s.coreOf c).seq q).pc s := by
  simp only [fetch, bind_run, get_run, hq, if_false]

theorem fetch_cmp : fetch c .cmp s = fetchBundle c (s.coreOf c).cmp.pc s := rfl

theorem fetchPlain_word {a : DWord} {w : Word} {u : State} (hw : fetchWord c a s = .ok w u)
    (hx : hasExt (strmOf q) w = false) : fetchPlain c q a s = .ok (.plain (decodeWord (strmOf q) w 0) 4) u := by
  simp only [fetchPlain, bind_run, hw, hx]
  rfl

theorem fetchPlain_ext {a : DWord} {w x : Word} {u v : State} (hw : fetchWord c a s = .ok w u)
    (hx : hasExt (strmOf q) w = true) (hv : fetchWord c (a + 4) u = .ok x v) :
    fetchPlain c q a s = .ok (.plain (decodeWord (strmOf q) w x) 8) v := by
  simp only [fetchPlain, bind_run, hw, hx, if_true, hv]
  rfl

theorem runSeq_of_fetch {f : Fetched} {u : State} (hr : q = .cmp → replaying c { s with core := c, sq := q } = none)
    (hf : fetch c q { s with core := c, sq := q } = .ok f u) : runSeq c q s = runFetched c q f u := by
  have hn : (if q = .cmp then replaying c { s with core := c, sq := q } else none) = none := by
    split
    · exact hr ‹_›
    · rfl
  unfold runSeq
  dsimp only
  rw [hn, hf]

theorem runFetched_bundle {i : Instr} {n : Nat} : runFetched c q (.bundle i n) s = exec i s := rfl

theorem wordOk_false_iff {d : Decoded} :
    wordOk q d = false ↔ 48 ≤ d.g.toNat ∨ d.resv = true ∨ fieldsOk q d.i = false := by
  simp only [wordOk, Bool.and_eq_false_iff, decide_eq_false_iff_not, Bool.not_eq_false', Nat.not_lt, or_assoc]

theorem runFetched_plain {d : Decoded} {n : Nat} :
    runFetched c q (.plain d n) s =
      if d.i.isIllegal = true then exec .illegalOpcode s
      else if 48 ≤ d.g.toNat ∨ d.resv = true ∨ fieldsOk q d.i = false then settle c q (.error (.trap .reservedField 0) s)
      else if (s.coreOf c).preg d.g.toNat = true then exec d.i { s with guard := d.g }
      else .next (s.advance c q n) := by
  simp only [← wordOk_false_iff, runFetched, Bool.not_eq_true', trap_run]
  cases (s.coreOf c).preg d.g.toNat <;> rfl

end

/-! ### The word that is fetched -/

section
variable {s u : State} {t : Tile} {c loc va : Nat}

theorem wordOfBytes_readN (m : Memory) (pa : Nat) : wordOfBytes (m.readN pa 4) = BitVec.ofNat 32 (m.readNat pa 4) := by
  rw [wordOfBytes, List.take_of_length_le (by simp [Memory.readN]), Memory.readNat]

theorem fetchBytes_local (ht : (s.coreOf c).tile = some t)
    (hp : translate (t.reg.ctx (some (clusterOf c))) .exec va s = .ok loc u) (hl : loc < 2 ^ 56)
    (hs : u.m.shadows.contains (loc / 0x1_0000) = false) :
    fetchBytes c va s =
      if u.m.poison.contains (loc / 128) = true then .error (.trap .poisonConsumed va) u else .ok (u.m.readN loc 4) u := by
  have hloc : isLocal loc = true := decide_eq_true hl
  unfold fetchBytes
  rw [bind_of_ok (tileOf_run ht), bind_of_ok hp]
  simp only [bind_run, get_run, hloc, hs, if_true, Bool.false_eq_true, if_false]
  split <;> rfl

end

/-! ### The parts of O3 -/

section
variable {s : State}

/-- A turn that nothing comes before ends as what was fetched does. -/
theorem step_of_fetch {f : Fetched} {u : State} (ha : s.tick.agenda = [])
    (hr : canRun s.tick.here s.tick.sq = true) (hd : heldDue s.tick.here s.tick.sq = false)
    (hx : ¬(s.tick.sq = .ctl ∧ s.tick.here.trap.mode = false ∧ s.tick.here.trap.pend ≠ 0))
    (hn : s.tick.sq = .cmp → replaying s.tick.core s.tick = none)
    (hf : fetch s.tick.core s.tick.sq s.tick = .ok f u) :
    step s = mapNext rotate (runFetched s.tick.core s.tick.sq f u) := by
  rw [step_of_agenda_nil ha, turn_eq_runSeq hr hd hx, runSeq_of_fetch (s := s.tick) hn hf]

end

theorem turnRunsDecoded : Parts.TurnRunsDecoded := by
  intro s
  refine ⟨fun ha hr hd => ?_, fun ha hr hd hx => ⟨fun w u hq hw => ⟨fun he => ?_, fun he x v hv => ?_⟩,
    fun hq hn i n u hf => ?_⟩⟩
  · rw [step_of_agenda_nil ha, turn_of_heldDue hr hd]
  · have hf := (fetch_of_ne_cmp hq).trans (fetchPlain_word hw he)
    rw [step_of_fetch ha hr hd hx (fun e => absurd e hq) hf, runFetched_plain]
  · have hf := (fetch_of_ne_cmp hq).trans (fetchPlain_ext hw he hv)
    rw [step_of_fetch ha hr hd hx (fun e => absurd e hq) hf, runFetched_plain]
  · have hf' : fetch s.tick.core s.tick.sq s.tick = .ok (.bundle i n) u := by
      rw [hq] at hf ⊢
      exact fetch_cmp.trans hf
    rw [step_of_fetch ha hr hd hx (fun _ => hn) hf', runFetched_bundle]

theorem fetchReadsCommittedBytes : Parts.FetchReadsCommittedBytes := by
  intro s u t c loc a ht hp hl hs
  have hb := fetchBytes_local ht hp hl hs
  refine ⟨fun hc => ?_, fun hc => ?_⟩
  · rw [hc, if_neg Bool.false_ne_true] at hb
    rw [fetchWord, bind_of_ok hb, pure_run, wordOfBytes_readN]
  · rw [hc, if_pos rfl] at hb
    rw [fetchWord, bind_of_error hb]

theorem agendaRunsEvents : Parts.AgendaRunsEvents := by
  intro s i a r h
  rw [step_of_event h]
  refine ⟨fun hrun => ?_, fun hoff hi => ?_⟩
  · obtain hon | rfl := hrun
    · simp [choose, hon]
    · simp [choose]
  · simp [choose, hoff, hi]

/-- Settles O3: with the agenda empty a step is a turn, and a turn runs what is fetched; an event at its head is chosen. -/
theorem stepRunsDecoded : Obligations.StepRunsDecoded :=
  ⟨turnRunsDecoded, fetchReadsCommittedBytes, agendaRunsEvents⟩

end Sys2Proof

/-! # Decoding inverts encoding (O2) -/

namespace Sys2Proof.Laws.RoundTrip
open Machine

/-- Every row makes the round trip: the lemma of each constructor, in the order of `Instr`. -/
theorem statement_all (i : Instr) : Statement i :=
  i.rec (motive := Statement)
    add sub min max minu maxu and or xor andn shl shr sar ror mul mulh mulhu div divu rem remu addi andi ori xori
    shli shri sari li lih clz ctz popc bfx bfxu bfi lea sel cmpEq cmpNe cmpLt cmpLe cmpLtu cmpLeu cmpiEq cmpiNe
    cmpiLt cmpiLe cmpiLtu cmpiLeu pset pmovAnd pmovOr pmovXor pmovAndn br call jr loop lds sts atomAdd atomAnd
    atomOr atomXor atomMin atomMax atomMinu atomMaxu atomSwp cas tkwait tkpost semwait semadd semset arvw arvclr
    fence acq barv barw mqadv wset wrel hset tmpld trap sysr sysw nestq nestf nestr nests sbindLd sunbLd ldq gath
    ldt mfill pref nli nadd naddi ncmpEq ncmpNe ncmpLt ncmpLe ncmpLtu ncmpLeu nbr nloop sbindSt sunbSt stq scat stt
    atomvAdd atomvAnd atomvOr atomvXor atomvMin atomvMax atomvMinu atomvMaxu atomvSwp rput mwb issueBundle
    emptyBundle mls accrd accz accld amld draw mmaM8K1 mmaM8K2 mmaM8K4 mmaM8K8 mmaM16K1 mmaM16K2 mmaM16K4 mmaM16K8
    mmaM32K1 mmaM32K2 mmaM32K4 mmaM32K8 mmaM64K1 mmaM64K2 mmaM64K4 mmaM64K8 vadd vsub vmul vfma vfms vmin vmax vabs
    vneg vand vor vxor vnot vshl vshr vsar vcmpEq vcmpNe vcmpLt vcmpLe vcmpGt vcmpGe vsel vmov vbcast vperm vslide
    vredSum vredMin vredMax vredAnd vredOr vredXor vscanSum vscanMin vscanMax vcvt vscl vsclDerive viota vpopc
    vfirst vtopk vld vst gate vpen vsbias vban vmatch vexp vlog vrcp vrsq vtanh vsigm cpy cpys cpyt cpyd lease lrel
    msendP msendH disp cmb qwait qread rlook rpin runpin rfetch revict rpolLayer rpolUnlayer rpolCat rpolUncat
    sqopen sqopenClose sqframe sqtrunc sqckpt sqspec sqcmit sqcurRead sqcurPlay sqcurKv prel pstat publish rftRetry
    rftSkip rftRedirect yield tend tendAbort tendEsc nop mnop heldAccessRetry flipLimitExpiry flipToHostFinish
    windowFillDone deviceWriteback publicationCommit scopeRefusalTimeout shadowWriteRelease snapshotPressure
    snapshotExpired dirtyEvictUncorrectable registerWrite barCfgWrite muInvPage muInvAsid muInvAll muInvNone
    nsRinvRegion nsRinvAll ldShinvRegion ldShinvAll tileDispatch priorityAging tileCommit yieldRequest boundaryYield
    yieldDeadline saveComplete saveBound tileRestore watchdog streamEntryRead streamEntryLand ldDirectOpComplete
    heldFaultTrap stStreamEntryWrite stDirectOpComplete mqGrant mqEntryLand mqFullTimeout tokenPushDeliver
    lateFaultTrap mlsStart shadowFull mmaKStep copyChunkArrival copyComplete copyFault leaseExpiry
    shageanFlitReceive shageanGoBack linkAckTimeout linkResync shageanPacketReceive peerRequest peerResponse
    handlerInboxGrant handlerMessage handlerEnqueueRetry gateSetLoadReq gateSetBiasReload gateSetFreeReq gateSetLoad
    gateSetFree tokenScore steeperScore combineArrival dropNoticeArrival waveStart wavePass qwaitTimeout
    jobCountersClear saucerCopyArrive flushDeadline expertEnqueueRetry expertTileRetire absenceThreshold fetchStart
    fetchComplete fetchFail nvmeCompletion nvmeTimeout sqCplayWrite lineFrameReceive advertisementTimer
    portAcceptStart portEnable portDisable whiskLoad coldReset bootStagingWrite bootGo featureAccept ringEnable
    ringDoorbell ringEntryNest ringEntryCopy ringEntryCopyin ringEntryAttest apertureAccess tdispLockInterface
    tdispStartInterface tdispStopInterface hostAtomicCompletion hostAtomicWithdraw thermalTrip svNqEnqueue
    svNdonePop svFlipPop mailboxS2hSend mailboxH2sSend mailboxS2hClear mbAtomSeq mbAtomClaim mbAtomWdraw
    illegalOpcode engineOperationComplete samovarInstruction thermalSensorReading powerLoss linkStateChange
    doeMailboxMessage

theorem encode_of_isEvent {i : Instr} (g : BitVec 6) (ha : toldApart i = true) (he : isEvent i = true) :
    encode g i = .none := by
  have h := statement_all i g ha
  rwa [if_pos he] at h

theorem decodeCode_encode {i : Instr} (g : BitVec 6) (ha : toldApart i = true) (he : isEvent i = false) :
    decodeCode (encode g i) = some ⟨codeGuard g (encode g i), i, false⟩ := by
  have h := statement_all i g ha
  rwa [if_neg (by simp [he])] at h

end Sys2Proof.Laws.RoundTrip

namespace Sys2Proof
open Machine Laws

/-- Settles O2, by the round trip of each constructor. -/
theorem decodeInvertsEncode : Obligations.DecodeInvertsEncode :=
  fun _ g ha => ⟨RoundTrip.encode_of_isEvent g ha, RoundTrip.decodeCode_encode g ha⟩

end Sys2Proof

/-! # The words of the spec's worked examples (O1) -/

namespace Sys2Proof
open Machine

/-- Settles O1: each word is a closed term, which decodes by evaluation. -/
theorem decodeWords : Obligations.DecodeWords := by
  unfold Obligations.DecodeWords
  decide

end Sys2Proof

/-! # What an instruction of a stream answers (O4, O11, O12, O40)

An instruction is `plain`: where its fields are refused it traps, else it answers what its effect gives (`plain_answer`). -/

namespace Sys2Proof
open Machine Laws

section
variable {s : State} {q : Seq} {i : Instr} {a : Act Unit}

theorem plain_answer : plain q i a s =
    if fieldsOk q i = true then settle s.core q (a s) else settle s.core q (.error (.trap .reservedField 0) s) := by
  split
  · exact plain_run a s ‹_›
  · exact plain_reserved a s (Bool.eq_false_iff.mpr ‹_›)

theorem settle_branchTo {c : Nat} {t : DWord} {u : State} :
    settle c q (branchTo q t u) =
      if t.toNat % 4 = 0 then .next (u.goto u.core q t) else settle c q (.error (.trap .align t.toNat) u) := by
  split
  · rw [branchTo_run u ‹_›, settle_ok]
  · rw [branchTo_align u ‹_›]

/-- A branch that also writes a register checks its target first: it traps before the write. -/
def writeThenBranch (q : Seq) (t : DWord) (f : Core → Core) : Act Unit := do
  trapIf (t.toNat % 4 ≠ 0) .align t.toNat
  modCore f
  branchTo q t

theorem settle_writeThenBranch {t : DWord} {f : Core → Core} :
    settle s.core q (writeThenBranch q t f s) =
      if t.toNat % 4 = 0 then .next ((s.updCore s.core f).goto s.core q t)
      else settle s.core q (.error (.trap .align t.toNat) s) := by
  unfold writeThenBranch
  split
  · next h =>
    simp only [h, ne_eq, not_true_eq_false, decide_false, trapIf_false]
    exact settle_branchTo.trans (if_pos h)
  · next h =>
    simp only [h, ne_eq, not_false_eq_true, decide_true, trapIf_true, bind_run, trap_run]

end

/-! ### Guards (O4) -/

/-- Settles O4: what is fetched is run as `runFetched_plain` says, whose branches are those of the statement. -/
theorem guardDecides : Obligations.GuardDecides := by
  intro c q d n s
  dsimp only
  rw [runFetched_plain]
  refine ⟨fun _ => rfl, fun hi => if_pos hi, fun hi => ?_⟩
  rw [if_neg (by simp [hi])]
  refine ⟨fun hbad => if_pos hbad, fun hg hr hf => ?_⟩
  have hok : ¬(48 ≤ d.g.toNat ∨ d.resv = true ∨ fieldsOk q d.i = false) := by simp [hr, hf, hg]
  rw [if_neg hok]
  exact ⟨fun hp => if_pos hp, fun hp => if_neg (by simp [hp])⟩

/-! ### Predicates of CTL (O11) -/

section
variable {s : State} {i : Instr} {n : Nat} {d : BitVec 6} {f : Core → Bool}

theorem ctlPred_iff : ctlPred d = true ↔ 1 ≤ d.toNat ∧ d.toNat ≤ 23 := decide_eq_true_iff

theorem fieldsOk_pset {o : RI} :
    fieldsOk .ctl (.pset o) = (ctlPred o.d && decide (o.a = 0) && decide (o.imm.toNat < 2)) := rfl

/-- An instruction whose only refused field can be its destination writes what it finds to one of P1–P23. -/
theorem plain_cmpOp (h : fieldsOk .ctl i = ctlPred d) : plain .ctl i (cmpOp n d f) s =
    if 1 ≤ d.toNat ∧ d.toNat ≤ 23 then .next (ctlDone s n fun k => k.setP d.toNat (f s.here))
    else settle s.core .ctl (.error (.trap .reservedField 0) s) := by
  simp only [plain_answer, h, ctlPred_iff, cmpOp_run, settle_ok]

end

/-- Settles O11: each row is a `cmpOp` whose relation is the statement's; what is left of its checks is the one on Pd. -/
theorem ctlPredicateResults : Obligations.CtlPredicateResults := by
  intro s
  refine ⟨fun o => ?_, fun o ho => ?_, fun o ha => ⟨fun hi => ?_, fun hi => ?_⟩, fun o ha hb => ?_⟩
  · exact ⟨plain_cmpOp rfl, plain_cmpOp rfl, plain_cmpOp rfl, plain_cmpOp rfl, plain_cmpOp rfl, plain_cmpOp rfl⟩
  · have h : (ctlPred o.d && decide (o.hi = 0)) = ctlPred o.d := by simp [ho]
    exact ⟨plain_cmpOp h, plain_cmpOp h, plain_cmpOp h, plain_cmpOp h, plain_cmpOp h, plain_cmpOp h⟩
  · exact plain_cmpOp (fieldsOk_pset.trans (by simp [ha, hi]))
  · exact plain_reserved _ s (fieldsOk_pset.trans (by simp [Nat.not_lt.mpr hi]))
  · have h : (ctlPred o.d && pred o.a && pred o.b) = ctlPred o.d := by simp [pred, ha, hb]
    exact ⟨plain_cmpOp h, plain_cmpOp h, plain_cmpOp h, plain_cmpOp h⟩

/-! ### Branches of CTL (O12) -/

theorem fieldsOk_jr {o : R3F} : fieldsOk .ctl (.jr o) = (decide (o.b = 0) && decide (o.f = 0)) := rfl

/-- Settles O12: BR is a branch, CALL and JR are branches that write their link once the target is found aligned. -/
theorem ctlBranchResults : Obligations.CtlBranchResults := by
  intro s
  refine ⟨fun o => ⟨?_, ?_⟩, fun o hb hf => ?_⟩
  · exact (plain_run _ s rfl).trans settle_branchTo
  · exact (plain_run _ s rfl).trans settle_writeThenBranch
  · exact (plain_run _ s (fieldsOk_jr.trans (by simp [hb, hf]))).trans settle_writeThenBranch

/-! ### Index instructions (O40) -/

section
variable {s : State} {q : Seq} {i : Instr} {o : R3} {f : DWord → DWord → Bool} {b : Bool}

/-- A comparison of index registers writes the relation that it finds between them. -/
theorem plain_ncmp (hb : f (s.here.nreg q o.a.toNat) (s.here.nreg q o.b.toNat) = b) (h : fieldsOk q i = true) :
    plain q i (ncmp q o f) s = .next (seqDone s q 4 fun k => k.setP o.d.toNat b) := by
  subst hb
  exact plain_run _ s h

theorem execNloop_out {o : RL} (h : fieldsOk (indexer s) (.nloop o) = true)
    (hn : (s.here.nreg (indexer s) o.d.toNat).toNat ≤ 1) :
    execNloop o s = .next (seqDone s (indexer s) 8 fun k => k.setN (indexer s) o.d.toNat 0) := by
  refine (plain_run _ s h).trans ?_
  rw [bind_of_ok (thisCore_run s), if_pos hn]
  rfl

theorem execNloop_back {o : RL} (h : fieldsOk (indexer s) (.nloop o) = true)
    (hn : ¬(s.here.nreg (indexer s) o.d.toNat).toNat ≤ 1) :
    execNloop o s = settle s.core (indexer s) (writeThenBranch (indexer s)
      ((s.here.seq (indexer s)).pc + o.ext.signExtend 64)
      (fun k => k.setN (indexer s) o.d.toNat (s.here.nreg (indexer s) o.d.toNat - 1)) s) := by
  refine (plain_run _ s h).trans ?_
  rw [bind_of_ok (thisCore_run s), if_neg hn]
  rfl

end

/-- Settles O40: with accepted fields each row answers its effect, on the bank of the sequencer that executes it. -/
theorem indexInstructionsComplete : Obligations.IndexInstructionsComplete := by
  intro s
  refine ⟨fun o h => plain_run _ s h, fun o h => plain_run _ s h, fun o h => plain_run _ s h,
    fun o => ⟨plain_ncmp rfl, plain_ncmp rfl, plain_ncmp BitVec.slt_eq_decide, plain_ncmp BitVec.sle_eq_decide,
      plain_ncmp rfl, plain_ncmp rfl⟩,
    fun o h => (plain_run _ s h).trans settle_branchTo, fun o h => ?_⟩
  dsimp only
  split
  · next hn => exact execNloop_out h hn
  · next hn => exact (execNloop_back h hn).trans settle_writeThenBranch

end Sys2Proof

/-! # TRAP and an unassigned opcode (O27) -/

namespace Sys2Proof
open Machine Laws

theorem fieldsOk_trap {o : RI} : fieldsOk .ctl (.trap o) = (decide (o.d = 0) && decide (o.a = 0)) := rfl

/-- Settles O27: both take a trap outside trap mode with a trap entry, so that the handler is entered. -/
theorem trapInstructionTraps : Obligations.TrapInstructionTraps := by
  intro o s t ht hm he
  refine ⟨fun hd ha => ?_, fun hr => ?_⟩
  · have hrun := takeTrap_enters .trapInsn 0 o.imm (q := .ctl) (.inl rfl) ht hm he
    refine ⟨_, (plain_run _ s (fieldsOk_trap.trans (by simp [hd, ha]))).trans (congrArg (settle s.core .ctl) hrun), ?_⟩
    simp [State.here, Core.seq, seqNum, Machine.Code.num]
  · have hrun := takeTrap_enters .illegalOpcode 0 0 hr ht hm he
    refine ⟨_, congrArg outcomeOf hrun, ?_⟩
    simp [State.here, Core.seq, seqNum, Machine.Code.num]

end Sys2Proof

/-! # Reserved fields trap, and the operation of a template issues (O45) -/

namespace Sys2Proof
open Machine Laws

/-! ### Reserved fields -/

/-- A row whose fields can be refused is `plain` on the sequencer that executes it, so that it traps before any effect. -/
theorem reservedFieldsTrap : Parts.ReservedFieldsTrap := by
  intro i s h
  cases i with
  | shli | shri | sari | li | lih | clz | ctz | popc | bfx | bfxu | bfi | sel
  | cmpEq | cmpNe | cmpLt | cmpLe | cmpLtu | cmpLeu | cmpiEq | cmpiNe | cmpiLt | cmpiLe | cmpiLtu | cmpiLeu
  | pset | pmovAnd | pmovOr | pmovXor | pmovAndn | jr | loop | lds | sts
  | atomAdd | atomAnd | atomOr | atomXor | atomMin | atomMax | atomMinu | atomMaxu | atomSwp | cas
  | tkwait | tkpost | semwait | semadd | semset | arvw | arvclr | fence | acq | barv | barw | mqadv | wset | wrel | hset
  | tmpld | trap | sysr | sysw | nestq | nestf | nestr | nests
  | sbindLd | sunbLd | ldq | gath | ldt | mfill | pref
  | nli | nadd | naddi | ncmpEq | ncmpNe | ncmpLt | ncmpLe | ncmpLtu | ncmpLeu | nloop
  | sbindSt | sunbSt | stq | scat | stt
  | atomvAdd | atomvAnd | atomvOr | atomvXor | atomvMin | atomvMax | atomvMinu | atomvMaxu | atomvSwp | rput | mwb
  | cpy | cpys | cpyt | cpyd | lease | lrel | msendP | msendH | disp | cmb | qwait | qread
  | rlook | rpin | runpin | rfetch | revict | rpolLayer | rpolUnlayer | rpolCat | rpolUncat
  | sqopen | sqopenClose | sqframe | sqtrunc | sqckpt | sqspec | sqcmit | sqcurRead | sqcurPlay | sqcurKv
  | prel | pstat => exact plain_reserved _ s h
  | _ => exact nomatch h

/-! ### What is issued alone -/

section
variable {s : State} {i : Instr}

/-- A slot accepts templates, and MNOP. -/
theorem isTemplate_of_opAccepts (h : opAccepts i = true) : isTemplate i = true ∨ i = .mnop := by
  unfold isTemplate
  unfold opAccepts opChecks at h
  split at h
  · next e => simp [e]
  · split at h
    · next e => simp [e]
    · exact .inr (by simpa using h)

/-- The operation of a template is issued alone, on the slot that takes it. -/
theorem exec_of_isTemplate (h : isTemplate i = true) : ∃ slot, exec i s = issueAlone slot i s := by
  cases i with
  | vadd u | vsub u | vmul u | vfma u | vfms u | vmin u | vmax u | vabs u | vneg u | vand u | vor u | vxor u | vnot u
  | vshl u | vshr u | vsar u | vcmpEq u | vcmpNe u | vcmpLt u | vcmpLe u | vcmpGt u | vcmpGe u | vsel u | vmov u
  | vbcast u | vperm u | vslide u | vredSum u | vredMin u | vredMax u | vredAnd u | vredOr u | vredXor u | vscanSum u
  | vscanMin u | vscanMax u | vcvt u | vscl u | vsclDerive u | viota u | vpopc u | vfirst u | vtopk u | vld u | vst u
  | gate u | vpen u | vsbias u | vban u | vmatch u => exact ⟨unitSlot u, rfl⟩
  | vexp | vlog | vrcp | vrsq | vtanh | vsigm => exact ⟨3, rfl⟩
  | mls | accrd | accz | accld | amld | draw | mmaM8K1 | mmaM8K2 | mmaM8K4 | mmaM8K8 | mmaM16K1 | mmaM16K2 | mmaM16K4
  | mmaM16K8 | mmaM32K1 | mmaM32K2 | mmaM32K4 | mmaM32K8 | mmaM64K1 | mmaM64K2 | mmaM64K4 | mmaM64K8 =>
    exact ⟨0, rfl⟩
  | _ => exact nomatch h

theorem exec_of_opAccepts (h : opAccepts i = true) : ∃ slot, exec i s = issueAlone slot i s := by
  obtain h | rfl := isTemplate_of_opAccepts h
  · exact exec_of_isTemplate h
  · exact ⟨0, rfl⟩

theorem issueAlone_of_opAccepts {slot : Nat} (h : opAccepts i = true) :
    issueAlone slot i s = settle s.core .cmp (issueOps s.core noHdr [⟨slot, i, none⟩] [] s) := by
  simp only [issueAlone, h, Bool.not_true, trapIf_false]
  rfl

end

/-! ### Actions over a list -/

section
variable {α : Type}

/-- Actions that each succeed and keep a relation do so one after another. -/
theorem each_ok {R : State → State → Prop} (hR : Follows R) {f : α → Act Unit}
    (h : ∀ a s, ∃ u, f a s = .ok () u ∧ R s u) : ∀ (l : List α) (s : State), ∃ u, each l f s = .ok () u ∧ R s u
  | [], s => ⟨s, rfl, hR.refl s⟩
  | a :: r, s => by
    obtain ⟨t, ht, hst⟩ := h a s
    obtain ⟨u, hu, htu⟩ := each_ok hR h r t
    exact ⟨u, (bind_of_ok ht).trans hu, hR.trans hst htu⟩

end

/-! ### What an issue finds -/

section
variable {s : State} {t : Tile} {c : Nat} {h : BundleHdr} {ops : List OpAt} {bad l : List (Bool × Machine.Code × Nat)}
  {chunks : List Nat}

theorem attemptUndo_ok {α : Type} {a : Act α} {v : α} {u : State} (h : a s = .ok v u) :
    attemptUndo a s = .ok (.ok v) u := by
  simp only [attemptUndo, h]

/-- With no condition true and every chunk at hand, nothing traps at issue. -/
theorem trapAtIssue_none (hl : ∀ e ∈ l, e.1 = false) (ht : ∀ ch ∈ chunks, touchChunks c (ch * 4096) 1 s = .ok () s) :
    trapAtIssue c l chunks s = .ok () s := by
  have hnone : l.filter (·.1) = [] := List.filter_eq_nil_iff.mpr fun e he => by simp [hl e he]
  have hflat : (chunks.map fun _ => ([] : List (Nat × Stop))).flatten = [] := by simp
  refine (bind_of_ok (collect_same (g := fun _ => []) fun ch hch => ?_)).trans ?_
  · exact bind_of_ok (attemptUndo_ok (ht ch hch))
  · simp only [hnone, hflat, List.map_nil, List.append_nil, worst, pure_run]

/-- What an issue does once nothing holds it up: heads popped, tokens taken and reserved, operations entered. -/
def startOps (c : Nat) (h : BundleHdr) (k : Core) (ops : List OpAt) : Act Unit := do
  each (bundleSrcs ops) fun e => if e.2 then dropHead c e.1 else pure ()
  modCoreAt c fun x =>
    let x := match hdrSeq h.popSrc with
      | some q => x.setTokens q .cmp (x.tokens q .cmp - (h.popN.toNat + 1))
      | none => x
    match hdrSeq h.pushDst with
    | some q => { x with comp := { x.comp with pushes := x.comp.pushes ++ [⟨k.comp.bundle, q, h.pushN.toNat + 1⟩] } }
    | none => x
  each ops fun o => issueOp c k o
  modCoreAt c fun x => { x with comp := { x.comp with bundle := x.comp.bundle + 1 } }

/-- Operations that are ready, that meet no condition and whose chunks and queues are ready, start. -/
theorem issueOps_of_ready (htile : (s.coreOf c).tile = some t) (hready : ∀ o ∈ ops, opReady (s.coreOf c) o.i = true)
    (hpop : popReady (s.coreOf c) h = true) (hbad : ∀ e ∈ bad ++ opTraps (s.coreOf c) t h ops, e.1 = false)
    (htouch : ∀ ch ∈ opChunks (s.coreOf c) ops, touchChunks c (ch * 4096) 1 s = .ok () s)
    (hq : queuesReady (s.coreOf c) ops = true) :
    issueOps c h ops bad s = startOps c h (s.coreOf c) ops s := by
  have hall : ¬(!ops.all fun o => opReady (s.coreOf c) o.i) = true := by simpa using hready
  unfold issueOps
  refine (bind_of_ok (get_run s)).trans ((bind_of_ok (tileOf_run htile)).trans ?_)
  refine (congrFun (if_neg hall) s).trans ((congrFun (if_neg (by simp [hpop])) s).trans ?_)
  refine (bind_of_ok (trapAtIssue_none hbad htouch)).trans ((congrFun (if_neg (by simp [hq])) s).trans ?_)
  exact (bind_of_ok (each_same htouch)).trans (bind_of_ok (get_run s))

end

/-! ### What an issue leaves as it was -/

/-- Only queue registers, the numbers given out and the counts of operations issued to a unit differ on core `c`, and
memory is as it was. -/
def OnlyQueues (c : Nat) (s u : State) : Prop :=
  u.m = s.m ∧ ∃ q n a b f, u.coreOf c = { s.coreOf c with q := q, nextId := n, vuA := a, vuB := b, vuF := f }

theorem onlyQueues_follows (c : Nat) : Follows (OnlyQueues c) where
  refl _ := ⟨rfl, _, _, _, _, _, rfl⟩
  trans := by
    rintro s t u ⟨hm, _, _, _, _, _, hk⟩ ⟨hm', _, _, _, _, _, hk'⟩
    exact ⟨hm'.trans hm, _, _, _, _, _, by rw [hk', hk]⟩

section
variable {s : State} {c : Nat}

theorem OnlyQueues.updCore {f : Core → Core}
    (h : ∀ k, ∃ q n a b g, f k = { k with q := q, nextId := n, vuA := a, vuB := b, vuF := g }) :
    OnlyQueues c s (s.updCore c f) := by
  obtain ⟨q, n, a, b, g, e⟩ := h (s.coreOf c)
  exact ⟨rfl, q, n, a, b, g, by rw [coreOf_updCore_same, e]⟩

theorem OnlyQueues.mx_eq {u : State} : OnlyQueues c s u → (u.coreOf c).mx = (s.coreOf c).mx := by
  rintro ⟨-, _, _, _, _, _, hk⟩
  rw [hk]

theorem OnlyQueues.ops_eq {u : State} : OnlyQueues c s u → (u.coreOf c).ops = (s.coreOf c).ops := by
  rintro ⟨-, _, _, _, _, _, hk⟩
  rw [hk]

theorem dropHead_onlyQueues (q : Nat) : OnlyQueues c s (s.updCore c fun k => k.setQueue q ((k.queue q).drop 1)) :=
  .updCore fun _ => ⟨_, _, _, _, _, rfl⟩

theorem popHeads_run (l : List (Nat × Bool)) :
    ∃ u, each l (fun e => if e.2 then dropHead c e.1 else pure ()) s = .ok () u ∧ OnlyQueues c s u :=
  each_ok (onlyQueues_follows c)
    (fun e s => by
      cases e.2 with
      | true => exact ⟨_, rfl, dropHead_onlyQueues e.1⟩
      | false => exact ⟨s, rfl, (onlyQueues_follows c).refl s⟩) l s

theorem reserve_onlyQueues (q : Nat) : ∃ r u, reserve c q false s = .ok r u ∧ OnlyQueues c s u :=
  ⟨_, _, rfl, .updCore (f := fun k => Core.setQueue { k with nextId := k.nextId + 1 } q
    (k.queue q ++ [{ id := k.nextId, data := none, st := false }])) fun _ => ⟨_, _, _, _, _, rfl⟩⟩

/-- Reserving for one result numbers it where it goes to a queue. -/
def reserveWrite (c : Nat) (w : EngWrite) : Act EngWrite :=
  match w with
  | .queue q _ d => do
    let r ← reserve c q
    return .queue q r d
  | w => return w

theorem reserveWrite_run (w : EngWrite) (s : State) :
    ∃ w' u, reserveWrite c w s = .ok w' u ∧ OnlyQueues c s u ∧ w'.bare = w.bare := by
  have same : ∃ w' u, (pure w : Act EngWrite) s = .ok w' u ∧ OnlyQueues c s u ∧ w'.bare = w.bare :=
    ⟨w, s, rfl, (onlyQueues_follows c).refl s, rfl⟩
  cases w with
  | queue q n d =>
    obtain ⟨r, u, hr, hq⟩ := reserve_onlyQueues (s := s) (c := c) q
    exact ⟨.queue q r d, u, bind_of_ok hr, hq, rfl⟩
  | _ => exact same

theorem reserveWrites_run : ∀ (l : List EngWrite) (s : State), ∃ ws u, reserveWrites c l s = .ok ws u ∧ OnlyQueues c s u ∧
    ws.map EngWrite.bare = l.map EngWrite.bare
  | [], s => ⟨[], s, rfl, (onlyQueues_follows c).refl s, rfl⟩
  | w :: l, s => by
    obtain ⟨w', t, hw, hst, hb⟩ := reserveWrite_run (c := c) w s
    obtain ⟨ws, u, hl, htu, hbs⟩ := reserveWrites_run l t
    refine ⟨w' :: ws, u, (bind_of_ok hw).trans (bind_of_ok hl), (onlyQueues_follows c).trans hst htu, ?_⟩
    rw [List.map_cons, List.map_cons, hb, hbs]

/-! ### One operation -/

variable {k : Core} {slot : Nat} {i : Instr}

/-- The first thing that an issue does: it takes a number, and its unit counts it. -/
def numbered (c slot : Nat) (s : State) : State := s.updCore c fun x => countOp slot { x with nextId := x.nextId + 1 }

theorem numbered_onlyQueues : OnlyQueues c s (numbered c slot s) :=
  .updCore fun k => by
    unfold countOp
    split <;> exact ⟨_, _, _, _, _, rfl⟩

theorem decide_bits_eq_one {n : Nat} (x : BitVec n) (j : Nat) : decide (bits x j 1 = 1) = x.getLsbD j := by
  simp only [← BitVec.toNat_inj, bits, BitVec.extractLsb'_toNat, Nat.shiftRight_eq_div_pow, BitVec.getLsbD,
    Nat.testBit_eq_decide_div_mod_eq]
  rfl

theorem issueOp_mls (a : MTmpl) : issueOp c k ⟨slot, .mls a, none⟩ s = .ok () ((numbered c slot s).updCore c fun x =>
    { x with mx := { x.mx with load := x.mx.load ++
      [⟨k.comp.bundle, a, mlsAddr k a, a.opt.getLsbD 0, a.opt.getLsbD 2, false, k.cmp.pc⟩] } }) := by
  rw [← decide_bits_eq_one a.opt 0, ← decide_bits_eq_one a.opt 2]
  rfl

/-- An operation that has entered its engine under the number `id`, its results with their reservations. -/
def engineOp (k : Core) (slot id : Nat) (i : Instr) (ws : List EngWrite) : EngOp :=
  { id := id, bundle := k.comp.bundle, slot := slot, writes := ws, flags := (runOp k 0 i).flags, late := (runOp k 0 i).late
    pc := k.cmp.pc, compute := atComputePort i, copy := computeCopy i }

/-- What an operation that is no MLS adds to the core, once it has its number. -/
def enter (c : Nat) (k : Core) (slot id : Nat) (i : Instr) : Act Unit :=
  match mmaDims i with
  | some (t, m, steps) =>
    modCoreAt c fun x => { x with mx := { x.mx with
      stepcnt := SMap.put x.mx.stepcnt t.acc.toNat 0
      mmas := x.mx.mmas ++ [⟨id, k.comp.bundle, t, m, steps, 0, k.amTile 0, k.amTile 1, k.cmp.pc⟩] } }
  | none => do
    let ws ← reserveWrites c (runOp k 0 i).writes
    modCoreAt c fun x => { x with ops := x.ops ++ [engineOp k slot id i ws] }

theorem issueOp_of_ne_mls (hi : ∀ a, i ≠ .mls a) : issueOp c k ⟨slot, i, none⟩ s =
    enter c k slot ((numbered c slot s).coreOf c).nextId i (numbered c slot s) := by
  unfold issueOp
  refine (bind_of_ok (modCoreAt_run ..)).trans ((bind_of_ok (get_run _)).trans ?_)
  dsimp only
  split
  · exact absurd rfl (hi _)
  · rfl

theorem issueOp_mma {a : MTmpl} {m n : Nat} (h : mmaDims i = some (a, m, n)) : ∃ id,
    issueOp c k ⟨slot, i, none⟩ s = .ok () ((numbered c slot s).updCore c fun x =>
      { x with mx := { x.mx with
        stepcnt := SMap.put x.mx.stepcnt a.acc.toNat 0
        mmas := x.mx.mmas ++ [⟨id, k.comp.bundle, a, m, n, 0, k.amTile 0, k.amTile 1, k.cmp.pc⟩] } }) := by
  have hi : ∀ a, i ≠ .mls a := by
    rintro a rfl
    cases h
  refine ⟨((numbered c slot s).coreOf c).nextId, ?_⟩
  rw [issueOp_of_ne_mls hi, enter, h]
  rfl

theorem issueOp_engine (hi : ∀ a, i ≠ .mls a) (h : mmaDims i = none) : ∃ id ws u,
    issueOp c k ⟨slot, i, none⟩ s = .ok () (u.updCore c fun x => { x with ops := x.ops ++ [engineOp k slot id i ws] }) ∧
    OnlyQueues c s u ∧ ws.map EngWrite.bare = (runOp k 0 i).writes.map EngWrite.bare := by
  obtain ⟨ws, u, hw, hq, hb⟩ := reserveWrites_run (c := c) (runOp k 0 i).writes (numbered c slot s)
  refine ⟨((numbered c slot s).coreOf c).nextId, ws, u, ?_, (onlyQueues_follows c).trans numbered_onlyQueues hq, hb⟩
  rw [issueOp_of_ne_mls hi, enter, h]
  exact bind_of_ok hw

/-- The number of CMP's next bundle. -/
def countBundle (x : Core) : Core := { x with comp := { x.comp with bundle := x.comp.bundle + 1 } }

/-- An operation alone, of a header that moves no token: it pops its heads and is issued. -/
theorem startOps_alone : ∃ w, OnlyQueues c s w ∧ ∀ u, issueOp c k ⟨slot, i, none⟩ w = .ok () u →
    startOps c noHdr k [⟨slot, i, none⟩] s = .ok () (u.updCore c countBundle) := by
  obtain ⟨w, hw, hq⟩ := popHeads_run (s := s) (c := c) (bundleSrcs [⟨slot, i, none⟩])
  refine ⟨w.updCore c fun x => x, (onlyQueues_follows c).trans hq (.updCore fun _ => ⟨_, _, _, _, _, rfl⟩), fun u hu => ?_⟩
  exact (bind_of_ok hw).trans (bind_of_ok (bind_of_ok hu))

/-- What issuing leaves as it was: all that an operation computes with, the flags, and memory. Only CMP's bundle has
its number. -/
structure IssueFrame (c : Nat) (s u : State) : Prop where
  scalars : (u.coreOf c).s = (s.coreOf c).s
  predicates : (u.coreOf c).p = (s.coreOf c).p
  vectors : (u.coreOf c).v = (s.coreOf c).v
  masks : (u.coreOf c).k = (s.coreOf c).k
  scratchpad : (u.coreOf c).sp = (s.coreOf c).sp
  accumulators : (u.coreOf c).mx.acc = (s.coreOf c).mx.acc
  flags : (u.coreOf c).flags = (s.coreOf c).flags
  memory : u.m = s.m
  bundle : (u.coreOf c).comp.bundle = (s.coreOf c).comp.bundle + 1

/-- After the queues, what enters the engines and the matrix port disturbs nothing else. -/
theorem issueFrame_of_enters {w : State} {f : Core → Core} (hq : OnlyQueues c s w)
    (hf : ∀ x, ∃ l r m o, f x = { x with ops := o, mx := { x.mx with load := l, mmas := r, stepcnt := m } }) :
    IssueFrame c s ((w.updCore c f).updCore c countBundle) := by
  obtain ⟨hm, q, n, a, b, g, hk⟩ := hq
  obtain ⟨l, r, m, o, hx⟩ := hf (w.coreOf c)
  rw [hk] at hx
  constructor
  case memory => exact hm
  all_goals simp only [coreOf_updCore_same, hk, hx, countBundle]

end

/-! ### The parts of O45 -/

section
variable {s : State} {t : Tile} {i : Instr}

/-- An accepted operation that is ready and meets no condition runs as it does once its heads are popped. -/
theorem exec_template (htile : s.here.tile = some t) (hok : opAccepts i = true) (hready : opReady s.here i = true)
    (htraps : ∀ e ∈ issueTraps s.here t i ++ queueTraps s.here [⟨0, i, none⟩], e.1 = false)
    (hq : queuesReady s.here [⟨0, i, none⟩] = true)
    (htouch : ∀ ch ∈ opChunks s.here [⟨0, i, none⟩], touchChunks s.core (ch * 4096) 1 s = .ok () s) :
    ∃ slot w, OnlyQueues s.core s w ∧ ∀ u, issueOp s.core s.here ⟨slot, i, none⟩ w = .ok () u →
      exec i s = .next (u.updCore s.core countBundle) := by
  obtain ⟨slot, hexec⟩ := exec_of_opAccepts (s := s) hok
  obtain ⟨w, hw, hstart⟩ := startOps_alone (s := s) (c := s.core) (k := s.here) (slot := slot) (i := i)
  have hbad : ∀ e ∈ [] ++ opTraps s.here t noHdr [⟨slot, i, none⟩], e.1 = false := fun e he => by
    have hpush : pushOverflows s.here noHdr = false := rfl
    simp only [opTraps, List.flatMap_singleton, hpush, List.nil_append, List.mem_append, List.mem_singleton] at he
    obtain he | rfl := he
    · exact htraps e (List.mem_append.mpr he)
    · rfl
  refine ⟨slot, w, hw, fun u hu => ?_⟩
  have hall : ∀ o ∈ [(⟨slot, i, none⟩ : OpAt)], opReady s.here o.i = true := List.forall_mem_singleton.mpr hready
  rw [hexec, issueAlone_of_opAccepts hok, issueOps_of_ready htile hall rfl hbad htouch hq]
  exact congrArg (settle s.core .cmp) (hstart u hu)

/-- It issues: MLS and MMA enter their ports, any other operation its engine. -/
theorem template_issues (htile : s.here.tile = some t) (hok : opAccepts i = true) (hready : opReady s.here i = true)
    (htraps : ∀ e ∈ issueTraps s.here t i ++ queueTraps s.here [⟨0, i, none⟩], e.1 = false)
    (hq : queuesReady s.here [⟨0, i, none⟩] = true)
    (htouch : ∀ ch ∈ opChunks s.here [⟨0, i, none⟩], touchChunks s.core (ch * 4096) 1 s = .ok () s) :
    let k := s.here
    ∃ u, exec i s = .next u ∧ IssueFrame s.core s u ∧
      (∀ a, i = .mls a → (u.coreOf s.core).mx.load = k.mx.load ++
        [⟨k.comp.bundle, a, mlsAddr k a, a.opt.getLsbD 0, a.opt.getLsbD 2, false, k.cmp.pc⟩]) ∧
      (∀ a m n, mmaDims i = some (a, m, n) → SMap.get 0 (u.coreOf s.core).mx.stepcnt a.acc.toNat = 0 ∧
        ∃ id, (u.coreOf s.core).mx.mmas =
          k.mx.mmas ++ [⟨id, k.comp.bundle, a, m, n, 0, k.amTile 0, k.amTile 1, k.cmp.pc⟩]) ∧
      ((∀ a, i ≠ .mls a) → mmaDims i = none → ∃ slot id ws, (u.coreOf s.core).ops = k.ops ++ [engineOp k slot id i ws] ∧
        ws.map EngWrite.bare = (runOp k 0 i).writes.map EngWrite.bare) := by
  intro k
  obtain ⟨slot, w, hw, hexec⟩ := exec_template htile hok hready htraps hq htouch
  have hnum := (onlyQueues_follows s.core).trans hw (numbered_onlyQueues (slot := slot))
  by_cases hmls : ∃ a, i = .mls a
  · obtain ⟨a, rfl⟩ := hmls
    refine ⟨_, hexec _ (issueOp_mls a), issueFrame_of_enters hnum fun x => ⟨_, _, _, _, rfl⟩, ?_, nofun,
      fun hn => absurd rfl (hn a)⟩
    rintro _ ⟨⟩
    simp [countBundle, hnum.mx_eq, k, State.here]
  replace hmls : ∀ a, i ≠ .mls a := fun a e => hmls ⟨a, e⟩
  cases hdims : mmaDims i with
  | some x =>
    obtain ⟨a, m, n⟩ := x
    obtain ⟨id, hid⟩ := issueOp_mma (k := k) (slot := slot) (s := w) (c := s.core) hdims
    refine ⟨_, hexec _ hid, issueFrame_of_enters hnum fun x => ⟨_, _, _, _, rfl⟩, fun a e => absurd e (hmls a), ?_,
      fun _ => nofun⟩
    rintro _ _ _ ⟨⟩
    simp [countBundle, hnum.mx_eq, k, State.here]
  | none =>
    obtain ⟨id, ws, u, hid, hu, hb⟩ := issueOp_engine (k := k) (slot := slot) (s := w) (c := s.core) hmls hdims
    have hsu := (onlyQueues_follows s.core).trans hw hu
    refine ⟨_, hexec _ hid, issueFrame_of_enters hsu fun x => ⟨_, _, _, _, rfl⟩, fun a e => absurd e (hmls a), nofun,
      fun _ _ => ⟨slot, id, ws, ?_, hb⟩⟩
    simp [countBundle, hsu.ops_eq, k, State.here]

end

theorem templatesIssue : Parts.TemplatesIssue := by
  intro i s t htile hok k ops hready htraps hq htouch
  obtain ⟨u, hu, hf, hload, hmma, hop⟩ := template_issues htile hok hready htraps hq htouch
  refine ⟨u, hu, hf.scalars, hf.predicates, hf.vectors, hf.masks, hf.scratchpad, hf.accumulators, hf.flags, hf.memory,
    hf.bundle, hload, hmma, fun hi hd => ?_⟩
  obtain ⟨slot, id, ws, hops, hws⟩ := hop hi hd
  exact ⟨engineOp k slot id i ws, hops, rfl, rfl, rfl, hws⟩

/-- Settles O45: refused fields trap first of all, and an operation that is issued alone enters its engine. -/
theorem operationsIssue : Obligations.OperationsIssue := ⟨reservedFieldsTrap, templatesIssue⟩

end Sys2Proof

/-! # A bundle issues where its guard is true (O47) -/

namespace Sys2Proof
open Machine Laws

section
variable {s u : State} {t : Tile} {c : Nat} {h : BundleHdr} {ps : List (Option Patch)} {copies : List (Option SlotCopy)}
  {failed : List Nat} {bad : List (Bool × Machine.Code × Nat)}

theorem lateTrap_none (hl : (s.coreOf c).comp.lateVa = none) : lateTrap c s = .ok () s := by
  refine (bind_of_ok (get_run s)).trans ?_
  simp only [hl, pure_run]

/-- A bundle, issued or not, is counted. -/
def countIssued (k : Core) : Core := { k with comp := { k.comp with issued := (k.comp.issued + 1) % 2 ^ 32 } }

/-- What a bundle that has issued leaves held (09 R269). -/
def holdCopies (l : List (Nat × Option (Option SlotCopy × Option SlotCopy))) (k : Core) : Core :=
  { k with comp := { k.comp with held := l.map fun e => (e.2.getD (none, none)).2 } }

/-- What a bundle of no bad condition does whose guard cannot change any more: it issues its operations and holds its
copies, or does nothing; and it is counted. -/
def issueGuarded (c : Nat) (h : BundleHdr) (k : Core) (copies : List (Option SlotCopy)) : Act Unit :=
  let l := bundleSlots k h copies
  if k.preg h.g.toNat then do
    issueOps c h (slotOps l) (advanceTraps l)
    modCoreAt c (holdCopies l)
    modCoreAt c countIssued
  else modCoreAt c countIssued

theorem issueCopies_of_good (ht : (s.coreOf c).tile = some t) (hbad : ∀ e ∈ bad, e.1 = false)
    (hsure : Reg.p h.g.toNat ∉ busyRegs (s.coreOf c) true) :
    issueCopies c h copies failed bad s = issueGuarded c h (s.coreOf c) copies s := by
  have hany : ¬(bad.any fun e => e.1) = true := by simpa using hbad
  have hsure' : ¬(busyRegs (s.coreOf c) true).contains (Reg.p h.g.toNat) = true := by simpa using hsure
  unfold issueCopies
  refine (bind_of_ok (get_run s)).trans ((bind_of_ok (tileOf_run ht)).trans ?_)
  exact (congrFun (if_neg hany) s).trans (congrFun (if_neg hsure') s)

theorem issueGuarded_false {k : Core} (hg : k.preg h.g.toNat = false) :
    issueGuarded c h k copies s = .ok () (s.updCore c countIssued) := by
  simp only [issueGuarded, hg, Bool.false_eq_true, if_false, modCoreAt_run]

theorem issueGuarded_true {k : Core} (hg : k.preg h.g.toNat = true)
    (hu : issueOps c h (slotOps (bundleSlots k h copies)) (advanceTraps (bundleSlots k h copies)) s = .ok () u) :
    issueGuarded c h k copies s =
      .ok () ((u.updCore c (holdCopies (bundleSlots k h copies))).updCore c countIssued) :=
  (congrFun (if_pos hg) s).trans ((bind_of_ok hu).trans rfl)

/-- The bytes of a bundle's words. -/
def bundleLength (ps : List (Option Patch)) : Nat := 4 + 4 * (ps.filter Option.isSome).length

/-- The copies that a bundle's patches form, slot by slot, or what forming one met. -/
def formsOf (k : Core) (ps : List (Option Patch)) : List (Option (Except Machine.Code SlotCopy)) :=
  (slotted ps).map fun e => e.2.map (formCopy k e.1)

/-- Those that could be formed. -/
def copiesOf (k : Core) (ps : List (Option Patch)) : List (Option SlotCopy) := (formsOf k ps).map fun x => x.bind okCopy

/-- A bundle whose header, patches, place in the loop buffer and copies are accepted does what its guard says, lets the
loop buffer take its step, and goes on past its words. -/
theorem bundle_of_good (ht : s.here.tile = some t) (hlate : s.here.comp.lateVa = none)
    (hhdr : hdrBad h (ps.map Option.isSome) = false) (hpatch : ∀ p ∈ ps, ∀ x, p = some x → patchBad x = false)
    (hloop : loopBad s.here t h (bundleLength ps) = false) (hforms : ∀ x ∈ formsOf s.here ps, ∀ e, x ≠ some (.error e))
    (hsure : Reg.p h.g.toNat ∉ busyRegs s.here true)
    (hu : issueGuarded s.core h s.here (copiesOf s.here ps) s = .ok () u) :
    bundle h ps s = .ok ()
      ((u.updCore s.core (loopStep h (copiesOf s.here ps) (bundleLength ps))).nextBundle s.core (bundleLength ps)) := by
  unfold bundle
  refine (bind_of_ok (get_run s)).trans ((bind_of_ok (tileOf_run ht)).trans ((bind_of_ok (lateTrap_none hlate)).trans ?_))
  refine (bind_of_ok ((issueCopies_of_good ht ?_ hsure).trans hu)).trans rfl
  simp only [List.mem_append, List.mem_cons, List.not_mem_nil, or_false, List.mem_flatMap]
  rintro e ((rfl | rfl | rfl) | ⟨x, hx, he⟩)
  · exact hhdr
  · refine List.any_eq_false.mpr fun p hp => ?_
    cases p with
    | none => exact Bool.false_ne_true
    | some x => simp [hpatch _ hp x rfl]
  · exact hloop
  · cases x with
    | none => exact nomatch he
    | some x =>
      cases x with
      | ok y => exact nomatch he
      | error y => exact absurd rfl (hforms _ hx y)

end

/-- Settles O47: with nothing wrong a bundle does what its guard says, and its ends are those of the statement. -/
theorem bundlesComplete : Obligations.BundlesComplete := by
  intro h ps i s t hi ht hlate k c len forms copies l done hhdr hpatch hloop hforms hsure
  have hexec : exec i s = settle s.core .cmp (bundle h ps s) := by
    obtain ⟨m, a, b, f, rfl, rfl⟩ | ⟨rfl, rfl⟩ := hi <;> rfl
  have hrun {u : State} (hu : issueGuarded c h k copies s = .ok () u) : exec i s =
      .next ((u.updCore c (loopStep h copies len)).nextBundle c len) :=
    hexec.trans (congrArg (settle c .cmp) (bundle_of_good ht hlate hhdr hpatch hloop hforms hsure hu))
  exact ⟨fun hg => hrun (issueGuarded_false hg), fun u hg hu => hrun (issueGuarded_true hg hu)⟩

end Sys2Proof
